-- ==== Sys2Proof/Word.lean ====
section
/-! DEFINITION. The word types of the Zwief J9 and their plainest arithmetic (spec/00 R1, spec/05 R101,
spec/06 R133). -/

set_option Elab.async false

namespace Sys2Proof

/-- A scalar register, a system register or a sync-cell word: 64 bits (spec/05 R101). -/
abbrev Word := BitVec 64

/-- One lane of a vector: 32 bits (spec/06 R133). -/
abbrev Lane := BitVec 32

/-- A lane mask: bit `i` governs lane `i` (spec/06 R137). -/
abbrev LaneMask := BitVec 128

/-- The parts of a vector that may land apart (spec/03 R80): part `p` of lane `i` is bit 4i + p. A 32-bit element is the
four parts of its lane, a 16-bit element two of them, an 8-bit or an LNS6 element one. -/
abbrev PartMask := BitVec 512

/-- A vector of 128 lanes of 32 bits, lane `i` in bits [32i + 31:32i] (spec/06 R133, spec/02 R56 LANE). -/
abbrev Vec := BitVec 4096

/-- A byte of memory or of code. -/
abbrev Byte := BitVec 8

/-- The signed value of a word. -/
def sval (w : Word) : Int := w.toInt

/-- A word from an exact integer, modulo 2^64. -/
def wordOfInt (i : Int) : Word := BitVec.ofInt 64 i

end Sys2Proof
end

