-- ==== Sys2Proof/Config.lean ====
section
/-! DEFINITION. What the part fixes (spec/01 R8–R11) and the values that the spec leaves to the implementation. An
opaque constant has no body: no proof can see its value, and a statement about it holds for every value. -/

set_option Elab.async false

namespace Sys2Proof.Config

/-- R9: cores, clusters, dies. -/
def cores : Nat := 128
def clusters : Nat := 16
def dies : Nat := 4

/-- R217: banks of a scratchpad, and the bytes of one. -/
def banks : Nat := 64
def bankBytes : Nat := 393216

/-- R26: operations in flight in one copy channel, and on the matrix engine of one core. -/
def channelPlaces : Nat := 32
def matrixPlaces : Nat := 16

/-- R289: vectors that a flue holds. -/
def flueDepth : Nat := 4

/-- R8, R238: the bytes of one HBM4 stack, the stacks, and the bytes of a page of the granule pool. -/
def stackBytes : Nat := 64 * 2 ^ 30
def stackCount : Nat := 12
def pageBytes : Nat := 2 ^ 21

/-- R9: accesses that the replay queue of a stack holds. -/
def replayDepth : Nat := 4096

/-- R313: handle entries that a copy channel and a cluster cache; the granule-map entries that a patch-engine slice caches,
whose number is not visible (assumption log 79, DEDUCED, a free value). -/
def channelCache : Nat := 32
def clusterCache : Nat := 1024
opaque granuleCache : Nat

/-- R238, R315, R318: the address that the firmware, or the patch engine, gives a page or a granule's storage on its stack,
by a count of such choices and the number of the page or granule; and the stacks on which it would place pages or granules
in their order, each with how many of them, by a count of such choices. The spec gives neither (assumption log 76, DESIGN
CHOICE, free values). -/
opaque pageAddr : Nat → Nat → Nat
opaque pageRuns : Nat → List (Nat × Nat)

/-- R315, R319, R320: the location of a table that the firmware lays out, by a count of such choices and which table it
is (assumption log 76, DESIGN CHOICE, a free value). -/
opaque tableLoc : Nat → Nat → BitVec 48

/-- R326: how many elements of an operation's bursts were begun before a revocation point, by a count of such questions;
the spec gives none (assumption log 77, DESIGN CHOICE, a free value). -/
opaque burstsMade : Nat → Nat

/-- R309: whether the list entry of a step has not arrived within the 32 cycles of an NXT, by a count of such questions;
the spec gives no time for it (assumption log 78, DESIGN CHOICE, a free value). -/
opaque listLate : Nat → Bool

/-- R310: the bytes of a receive queue. -/
def recvBytes : Nat := 262144

/-- R245: the names that the patch engine would put into the block of a refill, for a count of refills; the spec gives
neither their number nor which free names they are (assumption log 11, DESIGN CHOICE, a free value). -/
opaque nameBlock : Nat → List Nat

/-- R423: the throttle level that a die's power controller sets from its estimate in watts, its limit and a count of
estimates; the spec gives the range 0 to 7 and no rule (assumption log 14, DESIGN CHOICE). -/
opaque throttle : Nat → Nat → Nat → BitVec 3

/-- R207, R215, R305: the code with which the firmware completes a launch that it ends for a wait after HALT, by a count of
such choices; the spec gives no fault for it (assumption log 93, DESIGN CHOICE, a free value). -/
opaque waitEndCode : Nat → BitVec 8

/-- R415, R418: the 57 bytes of the Ed448 identity key in the fuses (assumption log 91, DESIGN CHOICE). -/
opaque identityKey : BitVec 456

/-- R416: the fused SHAKE256 hash of the image-signing public key (assumption log 91, DESIGN CHOICE). -/
opaque fusedKeyHash : BitVec 256

/-- R416: the fused minimum version of an image kind (assumption log 91, DESIGN CHOICE). -/
opaque fusedMinVersion : Nat → Nat

/-- R418: the fused serial number (assumption log 91, DESIGN CHOICE). -/
opaque serial : Word

end Sys2Proof.Config
end

