-- ==== Sys2Proof/Syntax.lean ====
section
/-! DEFINITION. The instructions: one constructor for every row of spec/opcode_table.json. A slot operation carries
the fields of its slot format (spec/03 R67–R76) that its own description uses; an event carries which unit acts and,
where the host, a peer device or the firmware acts, what it brings. -/

set_option Elab.async false

namespace Sys2Proof

/-- The eight slots, in the order of R61. -/
inductive Slot where
  | sc | vx | vy | mx | da | db | ct | cf
  deriving DecidableEq, Repr

/-- The fields of a VX or VY slot (R69): Z, mask, type, modifier, the operand codes and b-select. -/
structure VF where
  z : Bool
  mask : BitVec 3
  ty : BitVec 3
  md : BitVec 3
  vd : BitVec 12
  va : BitVec 12
  vb : BitVec 12
  bs : BitVec 2
  deriving DecidableEq, Repr

/-- The fields of an MX slot (R74): guard, accumulator, xA, xB, cell, KB − 1, M − 1, N − 1, acc mode, T, BS and the
op-specific bits. -/
structure MF where
  g : BitVec 5
  acc : BitVec 4
  xa : BitVec 4
  xb : BitVec 4
  cell : BitVec 3
  kb : BitVec 8
  m : BitVec 7
  n : BitVec 7
  mode : BitVec 2
  t : Bool
  bs : Bool
  low : BitVec 12
  deriving DecidableEq, Repr

/-- The common fields of a DA or DB slot (R75): guard, token produced, tokens consumed. -/
structure DC where
  g : BitVec 5
  tkp : BitVec 4
  c0 : BitVec 4
  c1 : BitVec 4
  c2 : BitVec 4
  deriving DecidableEq, Repr

/-- The op-specific fields of CPY and STRM (R226, R227; for STRM `dsp` is the flue). -/
structure CopyF where
  ssp : BitVec 3
  dsp : BitVec 3
  h : BitVec 4
  xs : BitVec 4
  xd : BitVec 4
  sh : BitVec 6
  peer : BitVec 3
  deriving DecidableEq, Repr

/-- The op-specific fields of RING (R228). -/
structure RingF where
  h : BitVec 4
  xs : BitVec 4
  xd : BitVec 4
  mask : BitVec 8
  deriving DecidableEq, Repr

/-- The op-specific fields of WDEF (R231). -/
structure WdefF where
  w : BitVec 4
  v : BitVec 12
  deriving DecidableEq, Repr

/-- The op-specific fields of WADV (R232). -/
structure WadvF where
  w : BitVec 4
  s : Bool
  n : BitVec 16
  deriving DecidableEq, Repr

/-- The op-specific fields of WREL (R233). -/
structure WrelF where
  w : BitVec 4
  deriving DecidableEq, Repr

/-- The op-specific fields of STOW (R258). -/
structure StowF where
  ssp : BitVec 3
  h : BitVec 4
  xs : BitVec 4
  xd : BitVec 4
  peer : BitVec 3
  p : BitVec 7
  deriving DecidableEq, Repr

/-- The op-specific fields of PATCH.OPEN (R257). -/
structure OpenF where
  st : BitVec 6
  n : BitVec 3
  kind : Bool
  dfmt : BitVec 2
  keep : Bool
  status : BitVec 12
  deriving DecidableEq, Repr

/-- The op-specific fields of PATCH.SEAL (R260). -/
structure SealF where
  p : BitVec 7
  scope : BitVec 3
  deriving DecidableEq, Repr

/-- The op-specific fields of PATCH.APPLY, PATCH.INVERT and PATCH.DISCARD. -/
structure PatchF where
  p : BitVec 7
  status : BitVec 12
  deriving DecidableEq, Repr

/-- The op-specific fields of PATCH.COMMUTE. -/
structure CommuteF where
  p : BitVec 7
  q : BitVec 7
  loose : Bool
  status : BitVec 12
  deriving DecidableEq, Repr

/-- The op-specific fields of PATCH.TRANSPLANT. -/
structure TransplantF where
  p : BitVec 7
  st : BitVec 6
  loose : Bool
  status : BitVec 12
  so : BitVec 6
  deriving DecidableEq, Repr

/-- The op-specific fields of PATCH.SQUASH and PATCH.QUERY. -/
structure TwoPatchF where
  p : BitVec 7
  q : BitVec 7
  status : BitVec 12
  deriving DecidableEq, Repr

/-- The op-specific fields of RAY.FORK (R269). -/
structure ForkF where
  st : BitVec 6
  k : BitVec 6
  status : BitVec 12
  s : Bool
  h : BitVec 12
  deriving DecidableEq, Repr

/-- The op-specific fields of SCAT (R229). -/
structure ScatF where
  vi : BitVec 12
  vv : BitVec 12
  xd : BitVec 4
  op : BitVec 2
  ty : BitVec 3
  v : Bool
  nv : BitVec 3
  deriving DecidableEq, Repr

/-- The op-specific fields of GATH (R229). -/
structure GathF where
  vi : BitVec 12
  vd : BitVec 12
  xs : BitVec 4
  v : Bool
  nv : BitVec 3
  deriving DecidableEq, Repr

/-- The op-specific fields of the SYNC operations (R279). -/
structure SyncF where
  h : BitVec 6
  o : BitVec 6
  v : BitVec 6
  n : BitVec 6
  d : BitVec 6
  scope : BitVec 3
  size : BitVec 2
  ord : Bool
  sgn : Bool
  deriving DecidableEq, Repr

/-- The op-specific fields of QPUSH and QPOP (R306). -/
structure QueueF where
  q : BitVec 6
  v : BitVec 12
  d : BitVec 6
  deriving DecidableEq, Repr

/-- The op-specific fields of SEND (R311). -/
structure SendF where
  v : Bool
  h : BitVec 4
  x : BitVec 4
  p : BitVec 6
  deriving DecidableEq, Repr

/-- The op-specific fields of RECV (R311). -/
structure RecvF where
  v : Bool
  h : BitVec 4
  x : BitVec 4
  p : BitVec 6
  d : BitVec 6
  t : BitVec 6
  deriving DecidableEq, Repr

/-- The op-specific fields of TJOIN: the tokens after the first three (R235). -/
structure JoinF where
  t3 : BitVec 4
  t4 : BitVec 4
  t5 : BitVec 4
  t6 : BitVec 4
  t7 : BitVec 4
  t8 : BitVec 4
  t9 : BitVec 4
  t10 : BitVec 4
  t11 : BitVec 4
  deriving DecidableEq, Repr

/-- The op-specific fields of LNCH (R308). -/
structure LnchF where
  v : BitVec 12
  d : BitVec 6
  deriving DecidableEq, Repr

/-- A granule of a tensor that the service firmware rewrites when it handles a fault (R273): process, handle index,
granule, and the bits of the granule's elements in row-major order. -/
structure GranuleWrite where
  proc : Nat
  idx : Nat
  granule : Nat
  bits : List Nat
  deriving DecidableEq, Repr

/-- What the service firmware writes when it ends a fault (R215): scalar registers, predicates, FR registers by
number, the tokens whose poison it clears, and granules that it rewrites (R273). -/
structure FwWrites where
  regs : List (Nat × Word)
  preds : List (Nat × Bool)
  fr : List (Nat × Word)
  clear : List Nat
  grans : List GranuleWrite
  deriving DecidableEq, Repr

/-- Where a host access goes (R406, R411): the host's number, the process, the handle and the byte offset. -/
structure HostAccess where
  host : Nat
  proc : Nat
  handle : BitVec 32
  offset : Nat
  deriving DecidableEq, Repr

/-- The operands of a host atomic (R406): size code, ordered or relaxed, signed or not, and the two values. -/
structure AtomicArgs where
  size : BitVec 2
  ord : Bool
  sgn : Bool
  v : Word
  n : Word
  deriving DecidableEq, Repr

/-- A context of another device: its launch there, its core and its number. -/
structure FarCtx where
  launch : Nat
  core : Nat
  ctx : Nat
  deriving DecidableEq, Repr

/-- An operation of a context of another device that the patch engine here carries out (R256–R269, R363), its operands as
read there: the names of records, tensor handles with their rays, and, for a STOW, the codes and the scale indices of each
row as the record holds them. -/
inductive FarPatch where
  | openRec (name : Nat) (handle : BitVec 32) (ray : Nat) (isAdd : Bool) (dfmt : Nat) (keep : Bool)
  | stow (name : Nat) (row col : Int) (rows : List (List Nat × List Nat))
  | seal (name scope : Nat)
  | apply (name : Nat)
  | invert (name : Nat)
  | commute (a b : Nat) (loose : Bool)
  | transplant (name : Nat) (handle : BitVec 32) (ray : Nat) (loose : Bool) (row col : Int)
  | squash (a b : Nat)
  | discard (name : Nat)
  | query (a b : Nat)
  | fork (handle : BitVec 32) (ray k h : Nat)
  deriving DecidableEq, Repr

/-- An access that another device of the domain makes to a location held here (R363): an atomic on a sync cell by its
opcode 0x13–0x19; a read of one tensor element through a ray for a context; the write of one base element, which an APPLY or
an INVERT carried out there makes; a read or a write of a queue's body or cells, which a QPUSH or a QPOP there makes; a STOW,
a patch operation or a fork on a tensor held here. -/
inductive RemoteReq where
  | atomic (op : Nat) (proc : Nat) (handle : BitVec 32) (offset : Nat) (p : AtomicArgs)
  | element (proc : Nat) (who : FarCtx) (handle : BitVec 32) (ray : Nat) (row col : Int)
  | patch (proc : Nat) (who : FarCtx) (op : FarPatch)
  | store (proc : Nat) (handle : BitVec 32) (row col : Int) (bits idx : Nat)
  | load (proc : Nat) (handle : BitVec 32) (offset len : Nat)
  | put (proc : Nat) (handle : BitVec 32) (offset : Nat) (bytes : List Byte)
  deriving DecidableEq, Repr

/-- What a scrub read or a kernel's read finds in device memory (R422, R273): nothing, an error that ECC corrects on
a die's stack, or an uncorrectable error in the base storage of a tensor's granule. -/
inductive ScrubFind where
  | clean
  | corrected (die : Nat)
  | uncorrectable (proc index granule : Nat)
  | standing (die : Nat)
  deriving DecidableEq, Repr

/-- What bring-up meets (R416–R419, R403, R424): the images in order; for each port, the group and position that its
level-1 switch reports; and the junction temperature, in °C, that the controller reads first. -/
structure BringUp where
  images : List (List Byte)
  reports : List (Nat × Nat)
  temp : Nat
  deriving DecidableEq, Repr

/-- Every operation and event of spec/opcode_table.json. -/
inductive Instr where
  /-- BUNDLE_ISSUE (R62): A context issues one whole bundle, or a stalled bundle issues once its stall conditions clear; the header bits Y, Q and IDLE take effect. -/
  | bundleIssue (core : Nat)
  /-- CORE_CYCLE (R332): Every core cycle the core's CYCLE counter rises by one, and the running context's run count and quiet count advance, whether the cycle issues, stalls or idles. -/
  | coreCycle (core : Nat)
  /-- RUN_SCHEDULE (R16): When a run ends, or when a context becomes ready on an idle core, the run scheduler chooses the next ready context by priority and age, and a marked victim goes first. -/
  | runSchedule (core : Nat)
  /-- RUN_OVERRUN (R19): The run count reaches RB before the run ends, so the context takes the run-overrun fault and its run ends. -/
  | runOverrun (core : Nat)
  /-- QUIET_OVERRUN (R20): The quiet count reaches QB, so the context takes the quiet-overrun fault. -/
  | quietOverrun (core : Nat)
  /-- RESULT_LANDING (R80): A scalar or vector result is written to its destination at a cycle no later than t + L − 1. -/
  | resultLanding (core idx : Nat) (parts : PartMask)
  /-- MX_OP_START (R163): An issued MX operation starts on its pipe once the previous operation of that pipe has held it for its occupancy; an array operation samples the throttle level. -/
  | mxOpStart (core : Nat) (array : Bool)
  /-- MX_OP_COMPLETION (R164): An MX operation completes, frees its busy tiles, sets tile kind and status, and, for SIG.CHECK, reports a mismatch. -/
  | mxOpCompletion (core idx : Nat)
  /-- D_OPERATION_START (R75): An engine starts a D operation once its consumed tokens' producers have completed, and looks up its handles. -/
  | dOperationStart (core idx : Nat)
  /-- COPY_COMPLETION (R226): A copy or gather completes: its token completes, possibly poisoned, and the channel's XDONE advances. -/
  | copyCompletion (core idx : Nat)
  /-- STRM_VECTOR_ENTRY (R227): The next 512-byte vector of a STRM enters its flue once the flue has room. -/
  | strmVectorEntry (core idx : Nat)
  /-- RING_SHIFT_START (R228): Once every participant of a MASK has issued its kth RING, the shift starts and moves each block to its successor. -/
  | ringShiftStart (core idx : Nat)
  /-- WINDOW_ROW_FETCH (R232): A window fetch lands rows into their ring slots after the slot's previous fetch completes, and then completes its token. -/
  | windowRowFetch (core idx : Nat)
  /-- SCATTER_UPDATE (R229): The scatter-accumulate engine applies a SCAT's combined updates to scratchpad words in arrival order. -/
  | scatterUpdate (core idx : Nat)
  /-- TOKEN_JOIN_COMPLETION (R235): A TJOIN's produced token completes once every consumed producer has completed, carrying any poison. -/
  | tokenJoinCompletion (core idx : Nat)
  /-- NAME_RESERVE_REFILL (R245): The patch engine refills a core front end's reserve of patch names in blocks, releasing a stalled PATCH.OPEN. -/
  | nameReserveRefill (core proc : Nat)
  /-- PATCH_ENGINE_OPERATION (R256): The patch engine carries out one arrived patch operation, STOW or RAY.FORK on a tensor, wholly, with its refusals and faults. -/
  | patchEngineOperation (core idx : Nat)
  /-- ATOMIC_UNIT_OPERATION (R278): A base-die atomic unit performs one SYNC operation, host atomic or launch write on a cell, whole, in cell order, after any release wait. -/
  | atomicUnitOperation (core idx : Nat)
  /-- LAUNCH_DISPATCH (R302): A launch unit dispatches the eligible head record of highest priority that can start, evicting lower-priority holders if needed. -/
  | launchDispatch (die : Nat)
  /-- DEPENDENCE_TEST (R301): The launch unit tests a record's dependence cell with acquire when the record reaches the head and on each later write to the cell. -/
  | dependenceTest (die slot : Nat)
  /-- CODE_PAGE_FILL (R304): The launch unit fills mapped, non-resident code pages into a core's code store at 1 KiB per 16 cycles. -/
  | codePageFill (core ctx page : Nat)
  /-- EVICTION_SAVE (R206): After the victim's quiet bundle, its results land and its engine operations complete or are withdrawn; its state is saved and its resources pass on. -/
  | evictionSave (core ctx : Nat)
  /-- EVICTION_RESUME (R208): Once its resources are free, an evicted context's saved state is restored, withdrawn operations are reissued, a pending NXT lands, and it resumes. -/
  | evictionResume (core ctx : Nat)
  /-- HALT_WAIT_EVENT (R207): A halted context's wait on another party has lasted 2^24 cycles, so the launch unit sends an event to the firmware. -/
  | haltWaitEvent (launch : Nat)
  /-- LAUNCH_RETIREMENT (R270): When every context has halted and its operations have completed, OPEN records are discarded, AUTO records are applied, and the completion block is written. -/
  | launchRetirement (launch : Nat)
  /-- DEFERRED_AUTO_APPLY (R270): A SEALED record left unapplied at retirement is applied later, once the record below it is applied or removed. -/
  | deferredAutoApply (proc name : Nat)
  /-- ROLLBACK (R271): An uncorrectable device-memory error stops a replayable launch, discards its unapplied records and relaunches it. -/
  | rollback (launch : Nat)
  /-- FAULT_RESUME (R215): The service firmware resumes a faulted context, which refetches from FR.PC. -/
  | faultResume (core ctx : Nat) (w : FwWrites)
  /-- FAULT_RESUME_STEP_OVER (R215): The service firmware resumes with STEP set, so the bundle issues once with its CT slot treated as having no effect. -/
  | faultResumeStepOver (core ctx : Nat) (w : FwWrites)
  /-- FAULT_TERMINATE (R215): The service firmware stops every context of the launch, which completes with the fault code. -/
  | faultTerminate (core ctx : Nat)
  /-- QUEUE_MISS_SERVICE (R293): The firmware makes the queue resident, displacing an idle one, and the waiting operation proceeds. -/
  | queueMissService (proc q : Nat)
  /-- INTAKE_ACCEPTANCE (R308): A waiting LNCH record is accepted or rejected once the launch unit's intake has room. -/
  | intakeAcceptance (core idx : Nat)
  /-- NXT_LANDING (R309): At the end of cycle t + 31 the step's row, column, item and flags land in the NXT's bank. -/
  | nxtLanding (core ctx : Nat)
  /-- STEP_BLOCK_REFILL (R309): A die's launch unit refills its block of 64 steps from die 0's counter. -/
  | stepBlockRefill (launch die : Nat)
  /-- SEND_QUEUE_ENTRY (R310): A SEND's message is given space in the receiving queue, in order, and its flits leave the device. -/
  | sendQueueEntry (core idx : Nat)
  /-- FLIT_ARRIVAL (R310): A message's flits arrive from a link into the receive queue of its peer and channel. -/
  | flitArrival (proc peer chan : Nat) (bytes : List Byte)
  /-- RECV_GRANT (R310): The kth message in a receive queue is granted to the kth RECV, its bytes are written, and the token completes. -/
  | recvGrant (core idx : Nat)
  /-- LINK_RECEIVE_TIMEOUT (R311): A RECV gets no message within s[T] local cycles and completes poisoned with 0x35. -/
  | linkReceiveTimeout (core idx : Nat)
  /-- REMOTE_ACCESS (R363): An access from another device to a location held here is performed by this device's agent. -/
  | remoteAccess (dev : Nat) (r : RemoteReq)
  /-- REMOTE_ACCESS_ACK (R405): The acknowledgement flit of a remote access arrives, completing that access. -/
  | remoteAccessAck (core idx : Nat)
  /-- REVOCATION_STORAGE_FREE (R326): After every engine operation in flight at the revocation point has completed, the revoked storage is freed. -/
  | revocationStorageFree (proc index : Nat)
  /-- MIGRATION_COPY_DONE (R327): The stop-and-copy finishes, the entry becomes VALID, and the replay queue releases its held accesses in order. -/
  | migrationCopyDone (proc index : Nat)
  /-- PULL_LINE_FETCH (R328): An access to an absent line fetches it once from the old place, sets its bit, and releases the waiting accesses. -/
  | pullLineFetch (proc index line : Nat)
  /-- PULL_COMPLETION (R328): Once every line bit is 1, PULL is cleared and the old storage is freed. -/
  | pullCompletion (proc index : Nat)
  /-- PARTIAL_ESTIMATOR_SAMPLE (R336): A partial estimator takes a sample in its place, updates n, mean and M2, and sends a batch at n = 64, or counts the sample LATE after the stop. -/
  | partialEstimatorSample (cluster : Nat)
  /-- BATCH_MERGE (R337): The device estimator merges an arrived batch by Chan's rule and applies the stop test. -/
  | batchMerge (launch : Nat)
  /-- STOP_RECEIPT (R338): A partial estimator or another launch unit receives the estimator stop. -/
  | stopReceipt (launch unit : Nat)
  /-- REMAINDER_MERGE (R340): After every context has halted without a stop, the remainders are merged in cluster order and bytes 24 to 63 of the completion block are written. -/
  | remainderMerge (launch : Nat)
  /-- SCRUB_READ (R422): The scrub engine reads a stack location, rewrites correctable errors and poisons granules with uncorrectable ones. -/
  | scrubRead (found : ScrubFind)
  /-- POWER_ESTIMATE (R423): Every 1 µs the die's power controller estimates power against PLIMIT and sets the throttle level TL. -/
  | powerEstimate (die watts temp : Nat)
  /-- POWER_GOOD (R419): After power is good, bring-up runs its steps from the root stage to the launch units accepting records. -/
  | powerGood (b : BringUp)
  /-- FIRMWARE_REGISTER_WRITE (R423): The service firmware writes a register that has no row of its own, such as PLIMIT, TCYC or an error counter. -/
  | firmwareRegisterWrite (die reg : Nat) (value : Word)
  /-- HOST_WRITE (R406): A host writes 8 to 256 bytes into one QBODY slot. -/
  | hostWrite (h : HostAccess) (bytes : List Byte)
  /-- HOST_READ (R406): A host reads 8 to 256 bytes of a QBODY or SYNC region. -/
  | hostRead (h : HostAccess) (len : Nat)
  /-- HOST_ATOMIC_ADD (R406): A host atomic ADD on a sync cell. -/
  | hostAtomicAdd (h : HostAccess) (p : AtomicArgs)
  /-- HOST_ATOMIC_MAX (R406): A host atomic MAX on a sync cell. -/
  | hostAtomicMax (h : HostAccess) (p : AtomicArgs)
  /-- HOST_ATOMIC_OR (R406): A host atomic OR on a sync cell. -/
  | hostAtomicOr (h : HostAccess) (p : AtomicArgs)
  /-- HOST_ATOMIC_CAS (R406): A host atomic CAS on a sync cell. -/
  | hostAtomicCas (h : HostAccess) (p : AtomicArgs)
  /-- HOST_ATOMIC_SWAP (R406): A host atomic SWAP on a sync cell. -/
  | hostAtomicSwap (h : HostAccess) (p : AtomicArgs)
  /-- HOST_ATOMIC_LDA (R406): A host atomic load on a sync cell. -/
  | hostAtomicLda (h : HostAccess) (p : AtomicArgs)
  /-- ADD (R108): Writes s[a] + s[b] modulo 2^64. -/
  | add (g : BitVec 5) (d a b : BitVec 6)
  /-- SUB (R108): Writes s[a] − s[b]. -/
  | sub (g : BitVec 5) (d a b : BitVec 6)
  /-- ADDI (R110): Writes s[a] plus a sign-extended immediate. -/
  | addi (g : BitVec 5) (d a : BitVec 6) (imm : BitVec 8)
  /-- MUL (R108): Writes the low 64 bits of the product. -/
  | mul (g : BitVec 5) (d a b : BitVec 6)
  /-- MULHI (R108): Writes the high 64 bits of the signed product. -/
  | mulhi (g : BitVec 5) (d a b : BitVec 6)
  /-- MULHU (R108): Writes the high 64 bits of the unsigned product. -/
  | mulhu (g : BitVec 5) (d a b : BitVec 6)
  /-- DIV (R109): Signed division rounded toward zero, without faults. -/
  | div (g : BitVec 5) (d a b : BitVec 6)
  /-- DIVU (R109): Unsigned division. -/
  | divu (g : BitVec 5) (d a b : BitVec 6)
  /-- REM (R109): Signed remainder with the sign of the dividend. -/
  | rem (g : BitVec 5) (d a b : BitVec 6)
  /-- REMU (R109): Unsigned remainder. -/
  | remu (g : BitVec 5) (d a b : BitVec 6)
  /-- AND (R108): Bitwise AND. -/
  | and (g : BitVec 5) (d a b : BitVec 6)
  /-- OR (R108): Bitwise OR. -/
  | or (g : BitVec 5) (d a b : BitVec 6)
  /-- XOR (R108): Bitwise XOR. -/
  | xor (g : BitVec 5) (d a b : BitVec 6)
  /-- ANDN (R108): s[a] AND NOT s[b]. -/
  | andn (g : BitVec 5) (d a b : BitVec 6)
  /-- SHL (R108): Shifts left by the low six bits of s[b]. -/
  | shl (g : BitVec 5) (d a b : BitVec 6)
  /-- SHL_IMM (R108): Shifts left by the b field taken as a count. -/
  | shlImm (g : BitVec 5) (d a n : BitVec 6)
  /-- SHRL (R108): Logical right shift by the low six bits of s[b]. -/
  | shrl (g : BitVec 5) (d a b : BitVec 6)
  /-- SHRL_IMM (R108): Logical right shift by an immediate count. -/
  | shrlImm (g : BitVec 5) (d a n : BitVec 6)
  /-- SHRA (R108): Arithmetic right shift by the low six bits of s[b]. -/
  | shra (g : BitVec 5) (d a b : BitVec 6)
  /-- SHRA_IMM (R108): Arithmetic right shift by an immediate count. -/
  | shraImm (g : BitVec 5) (d a n : BitVec 6)
  /-- MIN (R108): Signed minimum. -/
  | min (g : BitVec 5) (d a b : BitVec 6)
  /-- MAX (R108): Signed maximum. -/
  | max (g : BitVec 5) (d a b : BitVec 6)
  /-- MINU (R108): Unsigned minimum. -/
  | minu (g : BitVec 5) (d a b : BitVec 6)
  /-- MAXU (R108): Unsigned maximum. -/
  | maxu (g : BitVec 5) (d a b : BitVec 6)
  /-- SETHI (R110): Sets the high 32 bits from the immediate and keeps the low 32 bits of s[a]. -/
  | sethi (g : BitVec 5) (d a : BitVec 6) (imm : BitVec 8)
  /-- CMP (R111): Compares two registers into a predicate. -/
  | cmp (g : BitVec 5) (c q : BitVec 4) (a b : BitVec 6)
  /-- CMPI (R111): Compares a register with an immediate into a predicate. -/
  | cmpi (g : BitVec 5) (c : BitVec 2) (q : BitVec 4) (a : BitVec 6) (imm : BitVec 8)
  /-- SEL (R112): Selects s[a] or s[b] by the old value of s[d]. -/
  | sel (g : BitVec 5) (neg : Bool) (d a b : BitVec 6)
  /-- PLOG (R113): Writes a logic combination of two predicates. -/
  | plog (g : BitVec 5) (op : BitVec 2) (q qa qb : BitVec 4)
  /-- BITC (R113): Population count, leading or trailing zeros, or bit reverse. -/
  | bitc (g : BitVec 5) (op : BitVec 2) (d a : BitVec 6)
  /-- FADD (R114): Floating-point add, rounded by RNE. -/
  | fadd (g : BitVec 5) (p : Bool) (d a b : BitVec 6)
  /-- FSUB (R114): Floating-point subtract. -/
  | fsub (g : BitVec 5) (p : Bool) (d a b : BitVec 6)
  /-- FMUL (R114): Floating-point multiply. -/
  | fmul (g : BitVec 5) (p : Bool) (d a b : BitVec 6)
  /-- FMA (R114): Fused multiply-add into s[d]. -/
  | fma (g : BitVec 5) (p : Bool) (d a b : BitVec 6)
  /-- FDIV (R114): Floating-point divide. -/
  | fdiv (g : BitVec 5) (p : Bool) (d a b : BitVec 6)
  /-- FSQRT (R114): Correctly rounded square root. -/
  | fsqrt (g : BitVec 5) (p : Bool) (d a : BitVec 6)
  /-- FMINMAX (R114): Floating-point minimum or maximum. -/
  | fminmax (g : BitVec 5) (mx p : Bool) (d a b : BitVec 6)
  /-- FCMP (R115): Floating-point compare into a predicate. -/
  | fcmp (g : BitVec 5) (c : BitVec 3) (p : Bool) (q : BitVec 4) (a b : BitVec 6)
  /-- FCVT (R116): Scalar format conversion selected by the code in the b field. -/
  | fcvt (g : BitVec 5) (kind d a : BitVec 6)
  /-- GETS (R106): Reads a system register into s[d]. -/
  | gets (g : BitVec 5) (d : BitVec 6) (num : BitVec 8)
  /-- SETS (R106): Writes a system register under its access rules, including the W1C, RW-low and loop-count rules. -/
  | sets (g : BitVec 5) (a : BitVec 6) (num : BitVec 8)
  /-- SLD (R117): Loads 8 raw bytes from the scratchpad. -/
  | sld (g : BitVec 5) (d a : BitVec 6) (imm : BitVec 8)
  /-- SST (R117): Stores 8 raw bytes to the scratchpad. -/
  | sst (g : BitVec 5) (d a : BitVec 6) (imm : BitVec 8)
  /-- VADD (R141): Element-wise add. -/
  | vadd (f : VF)
  /-- VSUB (R141): Element-wise subtract. -/
  | vsub (f : VF)
  /-- VMUL (R141): Element-wise multiply. -/
  | vmul (f : VF)
  /-- VFMA (R141): Fused multiply-add with vd. -/
  | vfma (f : VF)
  /-- VFMS (R141): Fused multiply minus vd. -/
  | vfms (f : VF)
  /-- VMIN (R141): Element-wise minimum. -/
  | vmin (f : VF)
  /-- VMAX (R141): Element-wise maximum. -/
  | vmax (f : VF)
  /-- VABS (R141): Element-wise absolute value. -/
  | vabs (f : VF)
  /-- VNEG (R141): Element-wise negation. -/
  | vneg (f : VF)
  /-- VABD (R141): Element-wise absolute difference. -/
  | vabd (f : VF)
  /-- VMULH (R141): High half of the integer product. -/
  | vmulh (f : VF)
  /-- VCLAMP (R141): Clamps vd between A and B. -/
  | vclamp (f : VF)
  /-- VAND (R142): Bitwise AND. -/
  | vand (f : VF)
  /-- VOR (R142): Bitwise OR. -/
  | vor (f : VF)
  /-- VXOR (R142): Bitwise XOR. -/
  | vxor (f : VF)
  /-- VNOT (R142): Bitwise NOT. -/
  | vnot (f : VF)
  /-- VSHL (R142): Element-wise left shift. -/
  | vshl (f : VF)
  /-- VSHR (R142): Element-wise right shift. -/
  | vshr (f : VF)
  /-- VCMP (R143): Compares lanes into a mask. -/
  | vcmp (f : VF)
  /-- VCLASS (R144): Classifies lanes into a mask. -/
  | vclass (f : VF)
  /-- VSEL (R145): Selects lanes by a select mask. -/
  | vsel (f : VF)
  /-- KLOG (R146): Mask logic. -/
  | klog (f : VF)
  /-- KPOP (R146): Counts bits of a mask, or finds its first or last set bit, into a scalar. -/
  | kpop (f : VF)
  /-- VCVT (R148): Element conversion within one width group. -/
  | vcvt (f : VF)
  /-- VSRND (R151): Stochastic rounding with noise. -/
  | vsrnd (f : VF)
  /-- VPACK (R149): Packs two vectors into narrower elements. -/
  | vpack (f : VF)
  /-- VUNPK (R150): Widens element j of each lane. -/
  | vunpk (f : VF)
  /-- VEXP2 (R152): Computes 2^A correctly rounded. -/
  | vexp2 (f : VF)
  /-- VLOG2 (R152): Computes log2 A. -/
  | vlog2 (f : VF)
  /-- VRCP (R152): Computes the reciprocal. -/
  | vrcp (f : VF)
  /-- VRSQ (R152): Computes the reciprocal square root. -/
  | vrsq (f : VF)
  /-- VSQRT (R152): Computes the square root. -/
  | vsqrt (f : VF)
  /-- VSCALE (R141): Computes A × 2^n. -/
  | vscale (f : VF)
  /-- VROUND (R141): Rounds to an integral value. -/
  | vround (f : VF)
  /-- VCPSGN (R141): Copies or combines signs. -/
  | vcpsgn (f : VF)
  /-- VREDSUM (R153): Tree sum reduction over the lanes. -/
  | vredsum (f : VF)
  /-- VREDMAX (R153): Maximum reduction. -/
  | vredmax (f : VF)
  /-- VREDMIN (R153): Minimum reduction. -/
  | vredmin (f : VF)
  /-- VMAXIDX (R154): Finds the maximum lane, with tie keys. -/
  | vmaxidx (f : VF)
  /-- VPREFIX (R155): Inclusive prefix sums. -/
  | vprefix (f : VF)
  /-- VPERM (R156): Permutes lanes within each lane group. -/
  | vperm (f : VF)
  /-- VXGRP (R157): Moves whole lane groups. -/
  | vxgrp (f : VF)
  /-- VBCAST (R156): Broadcasts one lane within each group. -/
  | vbcast (f : VF)
  /-- VSLIDE (R156): Slides or rotates lanes within each group. -/
  | vslide (f : VF)
  /-- VIOTA (R147): Counts set mask bits below each lane. -/
  | viota (f : VF)
  /-- VMOV (R158): Moves a vector, scalar or immediate. -/
  | vmov (f : VF)
  /-- VEXT (R158): Extracts an element to a scalar. -/
  | vext (f : VF)
  /-- VINS (R158): Inserts a scalar into an element. -/
  | vins (f : VF)
  /-- VMIX (R159): Applies the mixer function. -/
  | vmix (f : VF)
  /-- VDOT4 (R159): Dot product within each lane, added to vd. -/
  | vdot4 (f : VF)
  /-- VMADI (R159): Integer multiply-add. -/
  | vmadi (f : VF)
  /-- VBITC (R142): Element bit count or reverse. -/
  | vbitc (f : VF)
  /-- VFIN (R160): Sets sticky finiteness status, optionally cleaning non-finite elements. -/
  | vfin (f : VF)
  /-- VLUT (R159): Byte table lookup. -/
  | vlut (f : VF)
  /-- MMA (R174): Matrix product into a tile. -/
  | mma (f : MF)
  /-- MMAB (R175): Matrix product with B from the VRF. -/
  | mmab (f : MF)
  /-- MZERO (R177): Sets a tile region to a value and kind. -/
  | mzero (f : MF)
  /-- MLOAD (R178): Loads a tile from the scratchpad or the VRF. -/
  | mload (f : MF)
  /-- MDRAIN (R179): Converts a tile out to the scratchpad or the VRF. -/
  | mdrain (f : MF)
  /-- MADD (R180): Adds or subtracts tiles. -/
  | madd (f : MF)
  /-- MSCL (R180): Scales a tile by a scale entry. -/
  | mscl (f : MF)
  /-- MTRN (R180): Transposes a tile. -/
  | mtrn (f : MF)
  /-- MSTAT (R182): Clears tile status bits. -/
  | mstat (f : MF)
  /-- MSCAN (R190): State-space scan choosing its form by THRESH. -/
  | mscan (f : MF)
  /-- MSCANF (R188): State-space scan in the chunked form. -/
  | mscanf (f : MF)
  /-- MSCANR (R187): State-space scan in the recurrent form. -/
  | mscanr (f : MF)
  /-- CV_INIT (R197): Initialises cover-store entries. -/
  | cvInit (f : MF)
  /-- CV_PROBE (R198): Computes candidate gains against the cover store. -/
  | cvProbe (f : MF)
  /-- CV_COMMIT (R199): Raises entries to a candidate row. -/
  | cvCommit (f : MF)
  /-- CV_READ (R200): Copies entries to the VRF. -/
  | cvRead (f : MF)
  /-- SIG_FOLD (R345): Folds tile bytes into SIG by CRC-64. -/
  | sigFold (f : MF)
  /-- SIG_CHECK (R346): Compares SIG with SIGREF. -/
  | sigCheck (f : MF)
  /-- SIG_GET (R346): Reads SIG into a scalar. -/
  | sigGet (f : MF)
  /-- MRED (R181): Reduces tile rows into column 0. -/
  | mred (f : MF)
  /-- MGATE (R180): Multiplies tiles element-wise or by row. -/
  | mgate (f : MF)
  /-- MCOPY (R180): Copies a tile. -/
  | mcopy (f : MF)
  /-- CPY (R226): Copies rows between spaces with conversion. -/
  | cpy (c : DC) (f : CopyF)
  /-- STRM (R227): Streams converted rows into a flue. -/
  | strm (c : DC) (f : CopyF)
  /-- RING (R228): Takes part in a ring shift among cores. -/
  | ring (c : DC) (f : RingF)
  /-- WDEF (R231): Defines a window and fetches its first rows. -/
  | wdef (c : DC) (f : WdefF)
  /-- WADV (R232): Advances a window by n rows. -/
  | wadv (c : DC) (f : WadvF)
  /-- WREL (R233): Releases a window. -/
  | wrel (c : DC) (f : WrelF)
  /-- STOW (R258): Records source values into an open patch. -/
  | stow (c : DC) (f : StowF)
  /-- PATCH_OPEN (R257): Opens a patch record on a ray. -/
  | patchOpen (c : DC) (f : OpenF)
  /-- PATCH_SEAL (R260): Seals and publishes a patch at a scope. -/
  | patchSeal (c : DC) (f : SealF)
  /-- PATCH_APPLY (R261): Folds the lowest unapplied patch into the base. -/
  | patchApply (c : DC) (f : PatchF)
  /-- PATCH_INVERT (R263): Removes a patch's effect. -/
  | patchInvert (c : DC) (f : PatchF)
  /-- PATCH_COMMUTE (R264): Swaps two adjacent sealed records. -/
  | patchCommute (c : DC) (f : CommuteF)
  /-- PATCH_TRANSPLANT (R265): Moves a sealed patch to the top of another ray. -/
  | patchTransplant (c : DC) (f : TransplantF)
  /-- PATCH_SQUASH (R266): Merges a run of records into one. -/
  | patchSquash (c : DC) (f : TwoPatchF)
  /-- PATCH_DISCARD (R267): Removes an unapplied record exactly. -/
  | patchDiscard (c : DC) (f : PatchF)
  /-- RAY_FORK (R269): Creates a ray sharing the records below a height. -/
  | rayFork (c : DC) (f : ForkF)
  /-- PATCH_QUERY (R268): Reports whether two coverages overlap. -/
  | patchQuery (c : DC) (f : TwoPatchF)
  /-- SCAT (R229): Scatter-accumulates values by index into a bank. -/
  | scat (c : DC) (f : ScatF)
  /-- GATH (R229): Gathers bank elements by index into the VRF. -/
  | gath (c : DC) (f : GathF)
  /-- SYNC_ADD (R281): Atomic add on a sync cell. -/
  | syncAdd (c : DC) (f : SyncF)
  /-- SYNC_MAX (R281): Atomic maximum on a sync cell. -/
  | syncMax (c : DC) (f : SyncF)
  /-- SYNC_OR (R281): Atomic OR on a sync cell. -/
  | syncOr (c : DC) (f : SyncF)
  /-- SYNC_CAS (R281): Atomic compare-and-swap on a sync cell. -/
  | syncCas (c : DC) (f : SyncF)
  /-- SYNC_SWAP (R281): Atomic swap on a sync cell. -/
  | syncSwap (c : DC) (f : SyncF)
  /-- SYNC_LDA (R281): Sync load, with acquire when ordered. -/
  | syncLda (c : DC) (f : SyncF)
  /-- SYNC_STL (R281): Sync store, with release when ordered. -/
  | syncStl (c : DC) (f : SyncF)
  /-- QPUSH (R306): Pushes a record onto a work queue. -/
  | qpush (c : DC) (f : QueueF)
  /-- QPOP (R306): Pops a record from a work queue. -/
  | qpop (c : DC) (f : QueueF)
  /-- SEND (R311): Sends a message to a peer device's channel. -/
  | send (c : DC) (f : SendF)
  /-- RECV (R311): Receives a message, with an optional timeout. -/
  | recv (c : DC) (f : RecvF)
  /-- TJOIN (R235): Joins up to 12 tokens into one. -/
  | tjoin (c : DC) (f : JoinF)
  /-- LNCH (R308): Hands a launch record to a launch unit with release. -/
  | lnch (c : DC) (f : LnchF)
  /-- BTREE (R118): Multi-way short branch on up to four tests. -/
  | btree (shape : BitVec 3) (t0 : BitVec 5) (t1 : BitVec 5) (t2 : BitVec 5) (t3 : BitVec 5) (d0 : BitVec 9) (d1 : BitVec 9) (d2 : BitVec 9) (d3 : BitVec 9)
  /-- JUMP (R119): Relative branch. -/
  | jump (g : BitVec 5) (off : BitVec 40)
  /-- CALL (R119): Branch and link. -/
  | call (g : BitVec 5) (l : BitVec 6) (off : BitVec 40)
  /-- RET (R119): Branch to an address in a register. -/
  | ret (g : BitVec 5) (a : BitVec 6)
  /-- LOOP (R124): Starts a hardware loop level. -/
  | loop (g : BitVec 5) (lvl : BitVec 3) (b : BitVec 8) (s : Bool) (cnt : BitVec 24)
  /-- LEAVE (R127): Exits a loop level and the levels inside it. -/
  | leave (g : BitVec 5) (lvl : BitVec 3)
  /-- IMX (R68): Supplies a 48-bit immediate to the SC-I slot. -/
  | imx (imm : BitVec 48)
  /-- NXT (R309): Requests the next launch step into a landing bank. -/
  | nxt (g : BitVec 5)
  /-- WAIT (R120): Holds the bundle until a token, XDONE, flue, tile or all-engine condition holds. -/
  | wait (g : BitVec 5) (kind : BitVec 3) (opd : BitVec 6)
  /-- FENCE (R285): Release or acquire fence at a scope. -/
  | fence (g : BitVec 5) (scope : BitVec 3) (kind : BitVec 2)
  /-- VJOIN (R220): Makes completed scratchpad writes visible through both views. -/
  | vjoin (g : BitVec 5)
  /-- BAR (R287): Barrier arrive and/or wait on a chord or die slot. -/
  | bar (g : BitVec 5) (scope : BitVec 3) (slot : BitVec 4) (mode : BitVec 2)
  /-- EST_ADD (R335): Hands a sample to the partial estimator. -/
  | estAdd (g : BitVec 5) (a : BitVec 6) (f : Bool)
  /-- TRAP (R214): Raises the trap fault with a code. -/
  | trap (g : BitVec 5) (code : BitVec 16)
  /-- BKPT (R121): Raises the breakpoint fault with a code. -/
  | bkpt (g : BitVec 5) (code : BitVec 16)
  /-- HALT (R122): Ends the context's kernel. -/
  | halt (g : BitVec 5)
  /-- SCL_SET_IMM (R324): Sets one scale entry from an immediate. -/
  | sclSetImm (entry : BitVec 4) (value : BitVec 16)
  /-- SCL_SET_REG (R324): Sets one scale entry from a register. -/
  | sclSetReg (entry : BitVec 4) (a : BitVec 6)
  /-- SCL_LDV (R325): Loads all 16 scale entries from a vector. -/
  | sclLdv (v : BitVec 12)
  /-- BFMT (R221): Writes a bank format register. -/
  | bfmt (bank : BitVec 6) (scl : Bool) (fmt : BitVec 4)
  /-- SHAPE (R223): Writes a shape register from two scalars. -/
  | shape (h : BitVec 4) (a : BitVec 6) (b : BitVec 6)
  /-- XSET (R132): Sets an address register's base. -/
  | xset (x : BitVec 4) (a : BitVec 6)
  /-- XSTEP_REG (R132): Sets a loop-level stride from a register. -/
  | xstepReg (x : BitVec 4) (lvl : BitVec 3) (a : BitVec 6)
  /-- XSTEP_IMM (R132): Sets a loop-level stride from an immediate. -/
  | xstepImm (x : BitVec 4) (lvl : BitVec 3) (imm : BitVec 20)
  /-- CPAT (R172): Sets the cell-operation pattern register. -/
  | cpat (a : BitVec 6)
  /-- QBND_IMM (R205): Lowers the quiet bound to an immediate. -/
  | qbndImm (value : BitVec 24)
  /-- QBND_REG (R205): Lowers the quiet bound to a register value. -/
  | qbndReg (a : BitVec 6)
  /-- RMODE_IMM (R45): Sets the rounding mode from an immediate. -/
  | rmodeImm (mode : BitVec 3)
  /-- RMODE_REG (R45): Sets the rounding mode from a register. -/
  | rmodeReg (a : BitVec 6)
  /-- SSM_CFG_IMM (R191): Writes SSMCFG from an immediate. -/
  | ssmCfgImm (value : BitVec 9)
  /-- SSM_CFG_REG (R191): Writes SSMCFG from a register. -/
  | ssmCfgReg (a : BitVec 6)
  /-- SIG_SET (R343): Writes SIG or SIGREF from a register. -/
  | sigSet (t : Bool) (a : BitVec 6)
  /-- TKCLR (R236): Forgets the producers of the tokens in a mask. -/
  | tkclr (mask : BitVec 15)
  /-- HOST_ATOMIC_STL (R406): A host atomic store on a sync cell. -/
  | hostAtomicStl (h : HostAccess) (p : AtomicArgs)
  /-- FLIT_RETRY (R401): A flit that fails its CRC is retried by the link layer. -/
  | flitRetry
  /-- PULL_BACKGROUND_FETCH (R328): A background engine fetches the remaining lines of a pulled region at class C2 in ascending order. -/
  | pullBackgroundFetch
  /-- THERMAL_TRIP (R424): At 115 °C the root controller holds the device in reset. -/
  | thermalTrip
  /-- THERMAL_RECOVERY (R424): Below 95 °C the device leaves reset and repeats bring-up from step 2. -/
  | thermalRecovery
  /-- WATCHDOG_RESET (R420): The service firmware fails to answer for 1 s, so the device is reset, ending every launch and discarding unapplied patches. -/
  | watchdogReset
  /-- MAP (R410): The mailbox MAP request creates a region and returns its handle. -/
  | map
  /-- UNMAP (R410): The mailbox UNMAP request revokes a handle under R326. -/
  | unmap
  /-- CREATEQ (R410): The mailbox CREATEQ request creates a work queue and returns its number. -/
  | createq
  /-- DESTROYQ (R296): The mailbox DESTROYQ request puts a queue into DRAINING and drops its undispatched records as CLOSED. -/
  | destroyq
  /-- OPENCH (R409): The mailbox OPENCH request opens a link channel toward a peer and allocates its receive queue. -/
  | opench
  /-- CLOSECH (R409): The mailbox CLOSECH request closes a link channel, and is refused while a SEND or RECV on it is in flight. -/
  | closech
  /-- ATTEST (R418): The root controller writes a signed quote with the nonce and measurement chain into a QBODY slot. -/
  | attest
  /-- CREATEP (R410): The mailbox CREATEP request creates a new process with empty tables. -/
  | createp
  /-- DESTROYP (R410): The mailbox DESTROYP request revokes and frees every handle of an idle process. -/
  | destroyp
  /-- RMRAY (R319): The mailbox RMRAY request removes an unpinned ray with no children, adjusting record counts. -/
  | rmray
  /-- MIGRATE (R410): The mailbox MIGRATE request moves a region by stop-and-copy or pull-on-first-touch. -/
  | migrate
  /-- MALFORMED_MAILBOX_RECORD (R409): The service firmware takes a mailbox record whose CODE is not assigned, writes STATUS 0x03 and advances HEAD with release. -/
  | malformedMailboxRecord
  deriving DecidableEq, Repr

end Sys2Proof
end

