-- ==== Sys2Proof/WellFormed.lean ====
section
/-! DEFINITION. Well-formed instructions: the conditions on the bits of one slot that R85 refuses with the
illegal-field fault (a reserved code value, a type the operation does not take, a nonzero field it does not use) and
that R95 does not exempt. Reserved bits are no field of an instruction: the decoder refuses them by encoding again. -/

set_option Elab.async false

namespace Sys2Proof

/-- R104: the system register numbers of the table. GETS and SETS test theirs at issue, where an IMX may supply it (R84,
R106). -/
def sysNumOk (n : Nat) : Bool :=
  decide (n ≤ 0x0D) || (decide (0x10 ≤ n) && decide (n ≤ 0x25)) || (decide (0x28 ≤ n) && decide (n ≤ 0x2D)) ||
  (decide (0x30 ≤ n) && decide (n ≤ 0x37)) || (decide (0x40 ≤ n) && decide (n ≤ 0x4F))

/-- The sets F, I and U of R140, on type codes (R73). -/
def tyF (f : VF) : Bool := decide (f.ty.toNat < 3)
def tyI (f : VF) : Bool := f.ty == 3 || f.ty == 4 || f.ty == 5
def tyU (f : VF) : Bool := f.ty == 6 || f.ty == 7

/-- No modifier bit is set (R69). -/
def noMod (f : VF) : Bool := f.md == 0

/-- R139: the modifier holds S, and S is 0 for a floating-point type. -/
def satOk (f : VF) : Bool := decide (f.md.toNat < 2) && (!tyF f || f.md == 0)

/-- R140: a unary operation has vb = 0 and b-select 00. -/
def unary (f : VF) : Bool := f.vb == 0 && f.bs == 0

/-- R72: the second source, read as type `ty`: no b-select 11, a scalar's high bits zero, an 8-bit immediate
properly extended. -/
def srcOk (ty : BitVec 3) (f : VF) : Bool :=
  match f.bs.toNat with
  | 0 => true
  | 1 => decide (f.vb.toNat < 64)
  | 2 =>
    if ty == 5 then decide (f.vb.toNat < 128) || decide (0xF80 ≤ f.vb.toNat)
    else if ty == 7 then decide (f.vb.toNat < 256) else true
  | _ => false

/-- R140: a mask destination k1–k7 or k0 (which is a register fault) lies in vd bits [2:0]. -/
def maskDst (f : VF) : Bool := decide (f.vd.toNat < 8)

/-- R140: a scalar destination lies in vd bits [5:0]. -/
def scalarDst (f : VF) : Bool := decide (f.vd.toNat < 64)

/-- R153, R154: Z = 0, or ignored under k0 (R95). -/
def noZero (f : VF) : Bool := !f.z || f.mask == 0

/-- Elements per lane of a type code. -/
def perLane (ty : BitVec 3) : Nat :=
  match ty.toNat with
  | 1 | 2 | 4 => 2
  | 5 | 7 => 4
  | _ => 1

/-- R158: an immediate index lies below 128k. -/
def indexOk (f : VF) : Bool := f.bs != 2 || decide (f.vb.toNat < 128 * perLane f.ty)

/-- R148: VCVT's legal pairs keep the elements per lane and differ. -/
def cvtPair (f : VF) : Bool := f.md != f.ty && decide (perLane f.md = perLane f.ty)

/-- R149: VPACK's legal forms. -/
def packForm (f : VF) : Bool :=
  match f.ty.toNat, f.md.toNat with
  | 1, 0 | 2, 0 | 4, 0 => true
  | 5, 0 | 5, 4 => true
  | 7, _ => true
  | _, _ => false

/-- R150: VUNPK's legal forms. -/
def unpackForm (f : VF) : Bool :=
  match f.md.toNat with
  | 0 | 1 => f.ty == 0 && decide (f.vb.toNat < 2)
  | 2 => (f.ty == 0 || f.ty == 3) && decide (f.vb.toNat < 2)
  | 3 => f.ty == 0 || f.ty == 3
  | 4 => f.ty == 0 || f.ty == 3 || f.ty == 6
  | _ => f.ty == 0

/-- R74, R171: cell 0–3 or 7, acc mode not 11, MAXPLUS not in mode 10. -/
def cellOk (f : MF) : Bool :=
  (decide (f.cell.toNat < 4) || f.cell == 7) && f.mode != 3 && !(f.cell == 2 && f.mode == 2)

/-- R176: cell, KB − 1 and T are zero. -/
def plain (f : MF) : Bool := f.cell == 0 && f.kb == 0 && !f.t

/-- R195: cell, T, BS and N − 1 are zero. -/
def cover (f : MF) : Bool := f.cell == 0 && !f.t && !f.bs && f.n == 0

/-- R97: the spaces a copy reads and writes. -/
def srcSpace (s : BitVec 3) : Bool := decide (s.toNat ≤ 4) || s == 6
def dstSpace (s : BitVec 3) : Bool := decide (s.toNat ≤ 2) || s == 4

/-- The number of cores in a ring mask (R228). -/
def popMask (m : BitVec 8) : Nat := (List.range 8).countP (fun i => m.getLsbD i)

/-- R253: bits [5:3] of a name-register operand are zero. -/
def patchOk (p : BitVec 7) : Bool := p.getLsbD 6 || decide (p.toNat < 8)

/-- R96: scope codes 0 to 4. -/
def scopeOk (s : BitVec 3) : Bool := decide (s.toNat < 5)

/-- R279: the scope, which is 0 for a relaxed operation. -/
def syncOk (f : SyncF) : Bool := scopeOk f.scope && (f.ord || f.scope == 0)

/-- R120: WAIT's kinds and the operand bits [50:45] each uses. -/
def waitOk (kind opd : Nat) : Bool :=
  match kind with
  | 0 => decide (opd % 4 = 0) && decide (opd ≠ 0)
  | 1 | 2 => true
  | 3 => decide (opd % 8 = 0)
  | 4 => decide (opd % 4 = 0)
  | 5 => decide (opd = 0)
  | _ => false

/-- Whether an instruction's fields are ones its slot format allows; events are always well formed. -/
def wellFormed (i : Instr) : Bool :=
  match i with
  | .bundleIssue _ => true
  | .runSchedule _ => true
  | .runOverrun _ => true
  | .quietOverrun _ => true
  | .resultLanding _ _ _ => true
  | .mxOpStart _ _ => true
  | .mxOpCompletion _ _ => true
  | .dOperationStart _ _ => true
  | .copyCompletion _ _ => true
  | .strmVectorEntry _ _ => true
  | .ringShiftStart _ _ => true
  | .windowRowFetch _ _ => true
  | .scatterUpdate _ _ => true
  | .tokenJoinCompletion _ _ => true
  | .nameReserveRefill _ _ => true
  | .patchEngineOperation _ _ => true
  | .atomicUnitOperation _ _ => true
  | .launchDispatch _ => true
  | .dependenceTest _ _ => true
  | .codePageFill _ _ _ => true
  | .evictionSave _ _ => true
  | .evictionResume _ _ => true
  | .haltWaitEvent _ => true
  | .launchRetirement _ => true
  | .deferredAutoApply _ _ => true
  | .rollback _ => true
  | .faultResume _ _ _ => true
  | .faultResumeStepOver _ _ _ => true
  | .faultTerminate _ _ => true
  | .queueMissService _ _ => true
  | .intakeAcceptance _ _ => true
  | .nxtLanding _ _ => true
  | .stepBlockRefill _ _ => true
  | .sendQueueEntry _ _ => true
  | .flitArrival _ _ _ _ => true
  | .recvGrant _ _ => true
  | .linkReceiveTimeout _ _ => true
  | .remoteAccess _ _ => true
  | .remoteAccessAck _ _ => true
  | .revocationStorageFree _ _ => true
  | .migrationCopyDone _ _ => true
  | .pullLineFetch _ _ _ => true
  | .pullCompletion _ _ => true
  | .partialEstimatorSample _ => true
  | .batchMerge _ => true
  | .stopReceipt _ _ => true
  | .remainderMerge _ => true
  | .scrubRead _ => true
  | .powerEstimate _ _ _ => true
  | .powerGood _ => true
  | .firmwareRegisterWrite _ _ _ => true
  | .hostWrite _ _ => true
  | .hostRead _ _ => true
  | .hostAtomicAdd _ _ => true
  | .hostAtomicMax _ _ => true
  | .hostAtomicOr _ _ => true
  | .hostAtomicCas _ _ => true
  | .hostAtomicSwap _ _ => true
  | .hostAtomicLda _ _ => true
  | .hostAtomicStl _ _ => true
  | .add _ _ _ _ => true
  | .sub _ _ _ _ => true
  | .addi _ _ _ _ => true
  | .mul _ _ _ _ => true
  | .mulhi _ _ _ _ => true
  | .mulhu _ _ _ _ => true
  | .div _ _ _ _ => true
  | .divu _ _ _ _ => true
  | .rem _ _ _ _ => true
  | .remu _ _ _ _ => true
  | .and _ _ _ _ => true
  | .or _ _ _ _ => true
  | .xor _ _ _ _ => true
  | .andn _ _ _ _ => true
  | .shl _ _ _ _ => true
  | .shlImm _ _ _ _ => true
  | .shrl _ _ _ _ => true
  | .shrlImm _ _ _ _ => true
  | .shra _ _ _ _ => true
  | .shraImm _ _ _ _ => true
  | .min _ _ _ _ => true
  | .max _ _ _ _ => true
  | .minu _ _ _ _ => true
  | .maxu _ _ _ _ => true
  | .sethi _ _ _ _ => true
  | .cmp _ c _ _ _ => decide (c.toNat < 8)
  | .cmpi _ _ _ _ _ => true
  | .sel _ _ _ _ _ => true
  | .plog _ _ _ _ _ => true
  | .bitc _ _ _ _ => true
  | .fadd _ _ _ _ _ => true
  | .fsub _ _ _ _ _ => true
  | .fmul _ _ _ _ _ => true
  | .fma _ _ _ _ _ => true
  | .fdiv _ _ _ _ _ => true
  | .fsqrt _ _ _ _ => true
  | .fminmax _ _ _ _ _ _ => true
  | .fcmp _ _ _ _ _ _ => true
  | .fcvt _ kind _ _ => decide (kind.toNat < 12)
  | .gets _ _ _ => true
  | .sets _ _ _ => true
  | .sld _ _ _ _ => true
  | .sst _ _ _ _ => true
  | .vadd f => srcOk f.ty f && satOk f
  | .vsub f => srcOk f.ty f && satOk f
  | .vmul f => srcOk f.ty f && satOk f
  | .vfma f => tyF f && noMod f && srcOk f.ty f
  | .vfms f => tyF f && noMod f && srcOk f.ty f
  | .vmin f => noMod f && srcOk f.ty f
  | .vmax f => noMod f && srcOk f.ty f
  | .vabs f => (tyF f || tyI f) && satOk f && unary f
  | .vneg f => (tyF f || tyI f) && satOk f && unary f
  | .vabd f => srcOk f.ty f && satOk f
  | .vmulh f => (tyI f || tyU f) && noMod f && srcOk f.ty f
  | .vclamp f => noMod f && srcOk f.ty f
  | .vand f => noMod f && srcOk 6 f
  | .vor f => noMod f && srcOk 6 f
  | .vxor f => noMod f && srcOk 6 f
  | .vnot f => noMod f && unary f
  | .vshl f => (tyI f || tyU f) && noMod f && srcOk f.ty f
  | .vshr f => (tyI f || tyU f) && noMod f && srcOk f.ty f
  | .vcmp f => (f.ty == 0 || ((f.ty == 3 || f.ty == 6) && decide (f.md.toNat < 6))) && maskDst f && srcOk f.ty f
  | .vclass f => f.ty == 0 && noMod f && f.bs == 2 && decide (f.vb.toNat < 1024) && maskDst f
  | .vsel f => srcOk f.ty f
  | .klog f => f.mask == 0 && f.ty == 0 && f.bs == 0 && maskDst f && decide (f.va.toNat < 8) && decide (f.vb.toNat < 8) &&
    (decide (f.md.toNat < 4) || (f.md == 4 && f.vb == 0))
  | .kpop f => f.mask == 0 && f.ty == 0 && f.bs == 0 && f.vb == 0 && decide (f.va.toNat < 8) && scalarDst f && decide (f.md.toNat < 3)
  | .vcvt f => unary f && cvtPair f
  | .vsrnd f => f.ty == 0 && decide (f.md.toNat < 5) && srcOk 6 f
  | .vpack f => packForm f && srcOk (if f.ty == 1 || f.ty == 2 || (f.ty == 7 && f.md.extractLsb' 0 2 != 0) then 0 else 3) f
  | .vunpk f => f.bs == 2 && decide (f.vb.toNat < 4) && unpackForm f
  | .vexp2 f => tyF f && noMod f && unary f
  | .vlog2 f => tyF f && noMod f && unary f
  | .vrcp f => tyF f && noMod f && unary f
  | .vrsq f => tyF f && noMod f && unary f
  | .vsqrt f => tyF f && noMod f && unary f
  | .vscale f => tyF f && noMod f && srcOk 3 f
  | .vround f => tyF f && noMod f && unary f
  | .vcpsgn f => tyF f && decide (f.md.toNat < 3) && srcOk f.ty f
  | .vredsum f => noMod f && unary f && noZero f
  | .vredmax f => noMod f && unary f && noZero f
  | .vredmin f => noMod f && unary f && noZero f
  | .vmaxidx f => (f.ty == 0 || f.ty == 3 || f.ty == 6) && noMod f && noZero f && srcOk f.ty f
  | .vprefix f => noMod f && unary f
  | .vperm f => f.ty == 6 && noMod f && srcOk 6 f
  | .vxgrp f => f.ty == 6 && decide (f.md.toNat < 3) && f.bs != 0 && srcOk 6 f && (f.bs != 2 || decide (f.vb.toNat < 8))
  | .vbcast f => f.ty == 6 && noMod f && f.bs != 0 && srcOk 6 f && (f.bs != 2 || decide (f.vb.toNat < 16))
  | .vslide f => f.ty == 6 && decide (f.md.toNat < 3) && f.bs != 0 && srcOk 6 f
  | .viota f => f.ty == 3 && f.va == 0 && f.bs == 0 && f.vb == 0
  | .vmov f => f.va == 0 && noMod f && srcOk 6 f
  | .vext f => f.mask == 0 && noMod f && scalarDst f && f.bs != 0 && srcOk 6 f && indexOk f
  | .vins f => f.mask == 0 && noMod f && decide (f.va.toNat < 64) && f.bs != 0 && srcOk 6 f && indexOk f
  | .vmix f => f.ty == 6 && noMod f && srcOk 6 f
  | .vdot4 f => (f.ty == 1 || f.ty == 2 || f.ty == 4 || f.ty == 5 || f.ty == 7) && satOk f && srcOk f.ty f
  | .vmadi f => (tyI f || tyU f) && satOk f && srcOk f.ty f
  | .vbitc f => (tyI f || tyU f) && decide (f.md.toNat < 4) && unary f
  | .vfin f => tyF f && decide (f.md.toNat < 2) && unary f
  | .vlut f => (f.ty == 5 || f.ty == 7) && decide (f.md.toNat < 2) && f.bs == 0
  | .mma f => cellOk f && f.low == 0 && (!f.bs || decide (f.kb.toNat < 4))
  | .mmab f => cellOk f && !f.t && !f.bs && (decide (f.xb.toNat < 6) || f.xb == 8 || f.xb == 9)
  | .mzero f => decide (f.low.toNat < 4)
  | .mload f => plain f && f.mode == 0 && (if f.bs then f.xa == 0 && decide (f.xb.toNat < 11) else f.xb == 0 && f.low == 0)
  | .mdrain f => plain f && f.mode == 0 && (if f.bs then f.xa == 0 && decide (f.xb.toNat < 11) else f.xb == 0 && decide (f.low.toNat < 2))
  | .madd f => plain f && f.xb == 0 && !f.bs && f.low == 0 && (f.mode == 1 || f.mode == 2)
  | .mscl f => plain f && f.xb == 0 && !f.bs && f.low == 0 && f.mode == 0
  | .mtrn f => plain f && f.xb == 0 && !f.bs && f.low == 0 && f.mode == 0
  | .mstat f => plain f && f.xa == 0 && f.xb == 0 && !f.bs && f.m == 0 && f.n == 0 && f.mode == 0 && decide (f.low.toNat < 32)
  | .mscan f => decide (f.acc.toNat % 2 = 0) && f.cell == 0 && decide (f.kb.toNat < 128) && decide (f.mode.toNat < 2) && !f.bs
  | .mscanf f => decide (f.acc.toNat % 2 = 0) && f.cell == 0 && decide (f.kb.toNat < 128) && decide (f.mode.toNat < 2) && !f.bs
  | .mscanr f => decide (f.acc.toNat % 2 = 0) && f.cell == 0 && decide (f.kb.toNat < 128) && decide (f.mode.toNat < 2) && !f.bs
  | .cvInit f => cover f && f.acc == 0 && f.m == 0 && f.mode == 0 && decide (f.low.toNat < 3) && (f.low == 2 || f.xa == 0)
  | .cvProbe f => cover f && decide (f.mode.toNat < 2) && f.low == 0
  | .cvCommit f => cover f && f.acc == 0 && f.m == 0 && f.mode == 0 && f.low == 0
  | .cvRead f => cover f && f.xa == 0 && f.m == 0 && f.mode == 0 && decide ((f.kb.toNat + 1) % 4 = 0)
  | .sigFold f => f.xa == 0 && f.xb == 0 && plain f && f.mode == 0 && !f.bs && f.low == 0
  | .sigCheck f => f.xa == 0 && f.xb == 0 && plain f && f.mode == 0 && !f.bs && f.m == 0 && f.n == 0 && decide (f.low.toNat < 64)
  | .sigGet f => f.xa == 0 && f.xb == 0 && plain f && f.mode == 0 && !f.bs && f.m == 0 && f.n == 0 && decide (f.low.toNat < 64)
  | .mred f => plain f && f.xb == 0 && !f.bs && f.mode == 0 && decide (f.low.toNat < 8) && f.low.extractLsb' 0 2 != 3
  | .mgate f => plain f && f.xb == 0 && !f.bs && f.mode == 0 && decide (f.low.toNat < 2)
  | .mcopy f => plain f && f.xb == 0 && !f.bs && f.low == 0 && f.mode == 0
  | .cpy _ f => srcSpace f.ssp && dstSpace f.dsp && (f.ssp == 3 || f.sh == 0) && (f.ssp == 4 || f.dsp == 4 || f.peer == 0)
  | .strm _ f =>
    decide (1 ≤ f.ssp.toNat) && decide (f.ssp.toNat ≤ 4) && (f.ssp == 3 || f.sh == 0) && (f.ssp == 4 || f.peer == 0) &&
      f.xd == 0
  | .ring _ f => decide (2 ≤ popMask f.mask)
  | .wdef _ _ => true
  | .wadv _ f => if f.s then decide (f.n.toNat % 1024 = 0) else decide (f.n ≠ 0)
  | .wrel _ _ => true
  | .stow _ f => (decide (f.ssp.toNat ≤ 2) || f.ssp == 4) && (f.ssp == 4 || f.peer == 0) && patchOk f.p
  | .patchOpen _ f => f.kind || f.dfmt == 0
  | .patchSeal _ f => patchOk f.p && scopeOk f.scope
  | .patchApply _ f => patchOk f.p
  | .patchInvert _ f => patchOk f.p
  | .patchCommute _ f => patchOk f.p && patchOk f.q
  | .patchTransplant _ f => patchOk f.p
  | .patchSquash _ f => patchOk f.p && patchOk f.q
  | .patchDiscard _ f => patchOk f.p
  | .rayFork _ f => f.k != 0 && (!f.s || decide (f.h.toNat % 64 = 0))
  | .patchQuery _ f => patchOk f.p && patchOk f.q && f.status != 0xFF0
  | .scat _ f => f.ty == 0 || f.ty == 3 || f.ty == 6
  | .gath _ _ => true
  | .syncAdd _ f => syncOk f && f.n == 0
  | .syncMax _ f => syncOk f && f.n == 0
  | .syncOr _ f => syncOk f && f.n == 0
  | .syncCas _ f => syncOk f
  | .syncSwap _ f => syncOk f && f.n == 0
  | .syncLda _ f => syncOk f && f.v == 0 && f.n == 0
  | .syncStl _ f => syncOk f && f.n == 0 && f.d == 0 && !f.sgn
  | .qpush _ _ => true
  | .qpop _ _ => true
  | .send _ _ => true
  | .recv _ _ => true
  | .tjoin _ _ => true
  | .lnch _ _ => true
  | .btree shape _ _ _ _ _ _ _ _ => decide (shape.toNat < 6)
  | .jump _ _ => true
  | .call _ _ _ => true
  | .ret _ _ => true
  | .loop _ lvl _ s cnt => decide (lvl.toNat < 6) && (!s || decide (cnt.toNat % 2 ^ 18 = 0))
  | .leave _ lvl => decide (lvl.toNat < 6)
  | .imx _ => true
  | .nxt _ => true
  | .wait _ kind opd => waitOk kind.toNat opd.toNat
  | .fence _ scope kind => scopeOk scope && kind != 3
  | .vjoin _ => true
  | .bar _ scope _ mode => (scope == 1 || scope == 2) && mode != 3
  | .estAdd _ _ _ => true
  | .trap _ _ => true
  | .bkpt _ _ => true
  | .halt _ => true
  | .sclSetImm _ _ => true
  | .sclSetReg _ _ => true
  | .sclLdv _ => true
  | .bfmt _ scl fmt => decide (fmt.toNat ≤ 12) && (!scl || fmt == 3 || fmt == 4 || fmt == 5 || fmt == 8)
  | .shape _ _ _ => true
  | .xset _ _ => true
  | .xstepReg _ lvl _ => decide (lvl.toNat < 6)
  | .xstepImm _ lvl _ => decide (lvl.toNat < 6)
  | .cpat _ => true
  | .qbndImm _ => true
  | .qbndReg _ => true
  | .rmodeImm mode => decide (mode.toNat < 4)
  | .rmodeReg _ => true
  | .ssmCfgImm value => decide (value.toNat % 256 ≤ 128)
  | .ssmCfgReg _ => true
  | .sigSet _ _ => true
  | .tkclr _ => true
  | .coreCycle _ => true
  | .flitRetry => true
  | .pullBackgroundFetch => true
  | .thermalTrip => true
  | .thermalRecovery => true
  | .watchdogReset => true
  | .map => true
  | .unmap => true
  | .createq => true
  | .destroyq => true
  | .opench => true
  | .closech => true
  | .attest => true
  | .createp => true
  | .destroyp => true
  | .rmray => true
  | .migrate => true
  | .malformedMailboxRecord => true

end Sys2Proof
end

