-- ==== Sys2Proof/Decode.lean ====
section
/-! DEFINITION. Decoding and encoding of the six slot formats (spec/03 R58–R76, spec/04 R87–R97). A slot is decoded
by building the instruction its fields name and encoding it again: the slot is that instruction's only if the two
agree, so no bit is dropped and every reserved bit is checked. `decodeSlot` rejects by name: illegal-opcode or
illegal-field (R85). -/

set_option Elab.async false

namespace Sys2Proof

/-- How a slot is refused at decode (R85). -/
inductive DecErr where
  | illegalOpcode
  | illegalField
  deriving DecidableEq, Repr

/-- Bit n of a word. -/
def bit {w : Nat} (x : BitVec w) (n : Nat) : Bool := x.getLsbD n

/-- R61: the width of a slot in bits. -/
def slotBits (s : Slot) : Nat :=
  match s with
  | .sc | .cf => 32
  | .vx | .vy => 56
  | .mx | .da | .db | .ct => 64

/-! ### The fields of the shared formats -/

/-- R67: an SC-R word. -/
def scR (op : BitVec 7) (g : BitVec 5) (d a b : BitVec 6) (md : BitVec 2) : BitVec 32 := op ++ g ++ d ++ a ++ b ++ md

/-- R67: an SC-I word. -/
def scI (op : BitVec 7) (g : BitVec 5) (d a : BitVec 6) (imm : BitVec 8) : BitVec 32 := op ++ g ++ d ++ a ++ imm

/-- R69: a vector slot. -/
def encVF (op : BitVec 8) (f : VF) : BitVec 56 :=
  op ++ BitVec.ofBool f.z ++ f.mask ++ f.ty ++ f.md ++ f.vd ++ f.va ++ f.vb ++ f.bs

/-- R69: the fields of a vector slot. -/
def decVF (w : BitVec 56) : VF :=
  { z := bit w 47, mask := w.extractLsb' 44 3, ty := w.extractLsb' 41 3, md := w.extractLsb' 38 3,
    vd := w.extractLsb' 26 12, va := w.extractLsb' 14 12, vb := w.extractLsb' 2 12, bs := w.extractLsb' 0 2 }

/-- R74: an MX slot. -/
def encMF (op : BitVec 6) (f : MF) : BitVec 64 :=
  op ++ f.g ++ f.acc ++ f.xa ++ f.xb ++ f.cell ++ f.kb ++ f.m ++ f.n ++ f.mode ++ BitVec.ofBool f.t ++
    BitVec.ofBool f.bs ++ f.low

/-- R74: the fields of an MX slot. -/
def decMF (w : BitVec 64) : MF :=
  { g := w.extractLsb' 53 5, acc := w.extractLsb' 49 4, xa := w.extractLsb' 45 4, xb := w.extractLsb' 41 4,
    cell := w.extractLsb' 38 3, kb := w.extractLsb' 30 8, m := w.extractLsb' 23 7, n := w.extractLsb' 16 7,
    mode := w.extractLsb' 14 2, t := bit w 13, bs := bit w 12, low := w.extractLsb' 0 12 }

/-- R75: a D slot around its op-specific bits. -/
def encDC (op : BitVec 6) (c : DC) (f : BitVec 37) : BitVec 64 :=
  op ++ c.g ++ c.tkp ++ c.c0 ++ c.c1 ++ c.c2 ++ f

/-- R75: the common fields of a D slot. -/
def decDC (w : BitVec 64) : DC :=
  { g := w.extractLsb' 53 5, tkp := w.extractLsb' 49 4, c0 := w.extractLsb' 45 4, c1 := w.extractLsb' 41 4,
    c2 := w.extractLsb' 37 4 }

/-- The op-specific bits of CopyF. -/
def encCopy (f : CopyF) : BitVec 37 := f.ssp ++ f.dsp ++ f.h ++ f.xs ++ f.xd ++ f.sh ++ f.peer ++ 0#10

/-- The fields of CopyF. -/
def decCopy (w : BitVec 64) : CopyF :=
  { ssp := w.extractLsb' 34 3, dsp := w.extractLsb' 31 3, h := w.extractLsb' 27 4, xs := w.extractLsb' 23 4, xd := w.extractLsb' 19 4, sh := w.extractLsb' 13 6, peer := w.extractLsb' 10 3 }

/-- The op-specific bits of RingF. -/
def encRing (f : RingF) : BitVec 37 := f.h ++ f.xs ++ f.xd ++ f.mask ++ 0#17

/-- The fields of RingF. -/
def decRing (w : BitVec 64) : RingF :=
  { h := w.extractLsb' 33 4, xs := w.extractLsb' 29 4, xd := w.extractLsb' 25 4, mask := w.extractLsb' 17 8 }

/-- The op-specific bits of WdefF. -/
def encWdef (f : WdefF) : BitVec 37 := f.w ++ f.v ++ 0#21

/-- The fields of WdefF. -/
def decWdef (w : BitVec 64) : WdefF :=
  { w := w.extractLsb' 33 4, v := w.extractLsb' 21 12 }

/-- The op-specific bits of WadvF. -/
def encWadv (f : WadvF) : BitVec 37 := f.w ++ BitVec.ofBool f.s ++ f.n ++ 0#16

/-- The fields of WadvF. -/
def decWadv (w : BitVec 64) : WadvF :=
  { w := w.extractLsb' 33 4, s := bit w 32, n := w.extractLsb' 16 16 }

/-- The op-specific bits of WrelF. -/
def encWrel (f : WrelF) : BitVec 37 := f.w ++ 0#33

/-- The fields of WrelF. -/
def decWrel (w : BitVec 64) : WrelF :=
  { w := w.extractLsb' 33 4 }

/-- The op-specific bits of StowF. -/
def encStow (f : StowF) : BitVec 37 := f.ssp ++ f.h ++ f.xs ++ f.xd ++ f.peer ++ f.p ++ 0#12

/-- The fields of StowF. -/
def decStow (w : BitVec 64) : StowF :=
  { ssp := w.extractLsb' 34 3, h := w.extractLsb' 30 4, xs := w.extractLsb' 26 4, xd := w.extractLsb' 22 4, peer := w.extractLsb' 19 3, p := w.extractLsb' 12 7 }

/-- The op-specific bits of OpenF. -/
def encOpen (f : OpenF) : BitVec 37 := f.st ++ f.n ++ BitVec.ofBool f.kind ++ f.dfmt ++ BitVec.ofBool f.keep ++ f.status ++ 0#12

/-- The fields of OpenF. -/
def decOpen (w : BitVec 64) : OpenF :=
  { st := w.extractLsb' 31 6, n := w.extractLsb' 28 3, kind := bit w 27, dfmt := w.extractLsb' 25 2, keep := bit w 24, status := w.extractLsb' 12 12 }

/-- The op-specific bits of SealF. -/
def encSeal (f : SealF) : BitVec 37 := f.p ++ f.scope ++ 0#27

/-- The fields of SealF. -/
def decSeal (w : BitVec 64) : SealF :=
  { p := w.extractLsb' 30 7, scope := w.extractLsb' 27 3 }

/-- The op-specific bits of PatchF. -/
def encPatch (f : PatchF) : BitVec 37 := f.p ++ f.status ++ 0#18

/-- The fields of PatchF. -/
def decPatch (w : BitVec 64) : PatchF :=
  { p := w.extractLsb' 30 7, status := w.extractLsb' 18 12 }

/-- The op-specific bits of CommuteF. -/
def encCommute (f : CommuteF) : BitVec 37 := f.p ++ f.q ++ BitVec.ofBool f.loose ++ f.status ++ 0#10

/-- The fields of CommuteF. -/
def decCommute (w : BitVec 64) : CommuteF :=
  { p := w.extractLsb' 30 7, q := w.extractLsb' 23 7, loose := bit w 22, status := w.extractLsb' 10 12 }

/-- The op-specific bits of TransplantF. -/
def encTransplant (f : TransplantF) : BitVec 37 := f.p ++ f.st ++ BitVec.ofBool f.loose ++ f.status ++ f.so ++ 0#5

/-- The fields of TransplantF. -/
def decTransplant (w : BitVec 64) : TransplantF :=
  { p := w.extractLsb' 30 7, st := w.extractLsb' 24 6, loose := bit w 23, status := w.extractLsb' 11 12, so := w.extractLsb' 5 6 }

/-- The op-specific bits of TwoPatchF. -/
def encTwoPatch (f : TwoPatchF) : BitVec 37 := f.p ++ f.q ++ f.status ++ 0#11

/-- The fields of TwoPatchF. -/
def decTwoPatch (w : BitVec 64) : TwoPatchF :=
  { p := w.extractLsb' 30 7, q := w.extractLsb' 23 7, status := w.extractLsb' 11 12 }

/-- The op-specific bits of ForkF. -/
def encFork (f : ForkF) : BitVec 37 := f.st ++ f.k ++ f.status ++ BitVec.ofBool f.s ++ f.h

/-- The fields of ForkF. -/
def decFork (w : BitVec 64) : ForkF :=
  { st := w.extractLsb' 31 6, k := w.extractLsb' 25 6, status := w.extractLsb' 13 12, s := bit w 12, h := w.extractLsb' 0 12 }

/-- The op-specific bits of ScatF. -/
def encScat (f : ScatF) : BitVec 37 := f.vi ++ f.vv ++ f.xd ++ f.op ++ f.ty ++ BitVec.ofBool f.v ++ f.nv

/-- The fields of ScatF. -/
def decScat (w : BitVec 64) : ScatF :=
  { vi := w.extractLsb' 25 12, vv := w.extractLsb' 13 12, xd := w.extractLsb' 9 4, op := w.extractLsb' 7 2, ty := w.extractLsb' 4 3, v := bit w 3, nv := w.extractLsb' 0 3 }

/-- The op-specific bits of GathF. -/
def encGath (f : GathF) : BitVec 37 := f.vi ++ f.vd ++ f.xs ++ BitVec.ofBool f.v ++ 0#5 ++ f.nv

/-- The fields of GathF. -/
def decGath (w : BitVec 64) : GathF :=
  { vi := w.extractLsb' 25 12, vd := w.extractLsb' 13 12, xs := w.extractLsb' 9 4, v := bit w 8, nv := w.extractLsb' 0 3 }

/-- The op-specific bits of SyncF. -/
def encSync (f : SyncF) : BitVec 37 := f.h ++ f.o ++ f.v ++ f.n ++ f.d ++ f.scope ++ f.size ++ BitVec.ofBool f.ord ++ BitVec.ofBool f.sgn

/-- The fields of SyncF. -/
def decSync (w : BitVec 64) : SyncF :=
  { h := w.extractLsb' 31 6, o := w.extractLsb' 25 6, v := w.extractLsb' 19 6, n := w.extractLsb' 13 6, d := w.extractLsb' 7 6, scope := w.extractLsb' 4 3, size := w.extractLsb' 2 2, ord := bit w 1, sgn := bit w 0 }

/-- The op-specific bits of QueueF. -/
def encQueue (f : QueueF) : BitVec 37 := f.q ++ f.v ++ f.d ++ 0#13

/-- The fields of QueueF. -/
def decQueue (w : BitVec 64) : QueueF :=
  { q := w.extractLsb' 31 6, v := w.extractLsb' 19 12, d := w.extractLsb' 13 6 }

/-- The op-specific bits of SendF. -/
def encSend (f : SendF) : BitVec 37 := BitVec.ofBool f.v ++ f.h ++ f.x ++ f.p ++ 0#22

/-- The fields of SendF. -/
def decSend (w : BitVec 64) : SendF :=
  { v := bit w 36, h := w.extractLsb' 32 4, x := w.extractLsb' 28 4, p := w.extractLsb' 22 6 }

/-- The op-specific bits of RecvF. -/
def encRecv (f : RecvF) : BitVec 37 := BitVec.ofBool f.v ++ f.h ++ f.x ++ f.p ++ f.d ++ f.t ++ 0#10

/-- The fields of RecvF. -/
def decRecv (w : BitVec 64) : RecvF :=
  { v := bit w 36, h := w.extractLsb' 32 4, x := w.extractLsb' 28 4, p := w.extractLsb' 22 6, d := w.extractLsb' 16 6, t := w.extractLsb' 10 6 }

/-- The op-specific bits of JoinF. -/
def encJoin (f : JoinF) : BitVec 37 := f.t3 ++ f.t4 ++ f.t5 ++ f.t6 ++ f.t7 ++ f.t8 ++ f.t9 ++ f.t10 ++ f.t11 ++ 0#1

/-- The fields of JoinF. -/
def decJoin (w : BitVec 64) : JoinF :=
  { t3 := w.extractLsb' 33 4, t4 := w.extractLsb' 29 4, t5 := w.extractLsb' 25 4, t6 := w.extractLsb' 21 4, t7 := w.extractLsb' 17 4, t8 := w.extractLsb' 13 4, t9 := w.extractLsb' 9 4, t10 := w.extractLsb' 5 4, t11 := w.extractLsb' 1 4 }

/-- The op-specific bits of LnchF. -/
def encLnch (f : LnchF) : BitVec 37 := f.v ++ f.d ++ 0#19

/-- The fields of LnchF. -/
def decLnch (w : BitVec 64) : LnchF :=
  { v := w.extractLsb' 25 12, d := w.extractLsb' 19 6 }

/-! ### The SC slot (R87) -/

/-- The word of an SC operation; 0 for any other instruction. -/
def encodeSc (i : Instr) : BitVec 32 :=
  match i with
  | .add g d a b => scR 0x00#7 g d a b 0#2
  | .sub g d a b => scR 0x01#7 g d a b 0#2
  | .addi g d a imm => scI 0x02#7 g d a imm
  | .mul g d a b => scR 0x03#7 g d a b 0#2
  | .mulhi g d a b => scR 0x04#7 g d a b 0#2
  | .mulhu g d a b => scR 0x05#7 g d a b 0#2
  | .div g d a b => scR 0x06#7 g d a b 0#2
  | .divu g d a b => scR 0x07#7 g d a b 0#2
  | .rem g d a b => scR 0x08#7 g d a b 0#2
  | .remu g d a b => scR 0x09#7 g d a b 0#2
  | .and g d a b => scR 0x0A#7 g d a b 0#2
  | .or g d a b => scR 0x0B#7 g d a b 0#2
  | .xor g d a b => scR 0x0C#7 g d a b 0#2
  | .andn g d a b => scR 0x0D#7 g d a b 0#2
  | .shl g d a b => scR 0x0E#7 g d a b 0#2
  | .shlImm g d a n => scR 0x0E#7 g d a n 1#2
  | .shrl g d a b => scR 0x0F#7 g d a b 0#2
  | .shrlImm g d a n => scR 0x0F#7 g d a n 1#2
  | .shra g d a b => scR 0x10#7 g d a b 0#2
  | .shraImm g d a n => scR 0x10#7 g d a n 1#2
  | .min g d a b => scR 0x11#7 g d a b 0#2
  | .max g d a b => scR 0x12#7 g d a b 0#2
  | .minu g d a b => scR 0x13#7 g d a b 0#2
  | .maxu g d a b => scR 0x14#7 g d a b 0#2
  | .sethi g d a imm => scI 0x15#7 g d a imm
  | .cmp g c q a b => scR 0x16#7 g (c.extractLsb' 2 2 ++ q) a b (c.extractLsb' 0 2)
  | .cmpi g c q a imm => scI 0x17#7 g (c ++ q) a imm
  | .sel g neg d a b => scR 0x18#7 g d a b (0#1 ++ BitVec.ofBool neg)
  | .plog g op q qa qb => scR 0x19#7 g (0#2 ++ q) (0#2 ++ qa) (0#2 ++ qb) op
  | .bitc g op d a => scR 0x1A#7 g d a 0#6 op
  | .fadd g p d a b => scR 0x1B#7 g d a b (0#1 ++ BitVec.ofBool p)
  | .fsub g p d a b => scR 0x1C#7 g d a b (0#1 ++ BitVec.ofBool p)
  | .fmul g p d a b => scR 0x1D#7 g d a b (0#1 ++ BitVec.ofBool p)
  | .fma g p d a b => scR 0x1E#7 g d a b (0#1 ++ BitVec.ofBool p)
  | .fdiv g p d a b => scR 0x1F#7 g d a b (0#1 ++ BitVec.ofBool p)
  | .fsqrt g p d a => scR 0x20#7 g d a 0#6 (0#1 ++ BitVec.ofBool p)
  | .fminmax g mx p d a b => scR 0x21#7 g d a b (BitVec.ofBool mx ++ BitVec.ofBool p)
  | .fcmp g c p q a b => scR 0x22#7 g (c.extractLsb' 1 2 ++ q) a b (c.extractLsb' 0 1 ++ BitVec.ofBool p)
  | .fcvt g kind d a => scR 0x23#7 g d a kind 0#2
  | .gets g d num => scI 0x24#7 g d 0#6 num
  | .sets g a num => scI 0x25#7 g 0#6 a num
  | .sld g d a imm => scI 0x26#7 g d a imm
  | .sst g d a imm => scI 0x27#7 g d a imm
  | _ => 0

/-- The SC operation whose opcode and fields a word holds; none for an unassigned opcode (R93). -/
def buildSc (w : BitVec 32) : Option Instr :=
  let g := w.extractLsb' 20 5
  let d := w.extractLsb' 14 6
  let a := w.extractLsb' 8 6
  let b := w.extractLsb' 2 6
  let imm := w.extractLsb' 0 8
  let q := w.extractLsb' 14 4
  let p := bit w 0
  match (w.extractLsb' 25 7).toNat with
  | 0x00 => some (.add g d a b)
  | 0x01 => some (.sub g d a b)
  | 0x02 => some (.addi g d a imm)
  | 0x03 => some (.mul g d a b)
  | 0x04 => some (.mulhi g d a b)
  | 0x05 => some (.mulhu g d a b)
  | 0x06 => some (.div g d a b)
  | 0x07 => some (.divu g d a b)
  | 0x08 => some (.rem g d a b)
  | 0x09 => some (.remu g d a b)
  | 0x0A => some (.and g d a b)
  | 0x0B => some (.or g d a b)
  | 0x0C => some (.xor g d a b)
  | 0x0D => some (.andn g d a b)
  | 0x0E => if w.extractLsb' 0 2 = 1#2 then some (.shlImm g d a b) else some (.shl g d a b)
  | 0x0F => if w.extractLsb' 0 2 = 1#2 then some (.shrlImm g d a b) else some (.shrl g d a b)
  | 0x10 => if w.extractLsb' 0 2 = 1#2 then some (.shraImm g d a b) else some (.shra g d a b)
  | 0x11 => some (.min g d a b)
  | 0x12 => some (.max g d a b)
  | 0x13 => some (.minu g d a b)
  | 0x14 => some (.maxu g d a b)
  | 0x15 => some (.sethi g d a imm)
  | 0x16 => some (.cmp g (w.extractLsb' 18 2 ++ w.extractLsb' 0 2) q a b)
  | 0x17 => some (.cmpi g (w.extractLsb' 18 2) q a imm)
  | 0x18 => some (.sel g (bit w 0) d a b)
  | 0x19 => some (.plog g (w.extractLsb' 0 2) q (w.extractLsb' 8 4) (w.extractLsb' 2 4))
  | 0x1A => some (.bitc g (w.extractLsb' 0 2) d a)
  | 0x1B => some (.fadd g p d a b)
  | 0x1C => some (.fsub g p d a b)
  | 0x1D => some (.fmul g p d a b)
  | 0x1E => some (.fma g p d a b)
  | 0x1F => some (.fdiv g p d a b)
  | 0x20 => some (.fsqrt g p d a)
  | 0x21 => some (.fminmax g (bit w 1) p d a b)
  | 0x22 => some (.fcmp g (w.extractLsb' 18 2 ++ w.extractLsb' 1 1) p q a b)
  | 0x23 => some (.fcvt g b d a)
  | 0x24 => some (.gets g d imm)
  | 0x25 => some (.sets g a imm)
  | 0x26 => some (.sld g d a imm)
  | 0x27 => some (.sst g d a imm)
  | _ => none

/-! ### The vector slots (R88) -/

/-- The word of a vector operation; 0 for any other instruction. -/
def encodeV (i : Instr) : BitVec 56 :=
  match i with
  | .vadd f => encVF 0x00#8 f
  | .vsub f => encVF 0x01#8 f
  | .vmul f => encVF 0x02#8 f
  | .vfma f => encVF 0x03#8 f
  | .vfms f => encVF 0x04#8 f
  | .vmin f => encVF 0x05#8 f
  | .vmax f => encVF 0x06#8 f
  | .vabs f => encVF 0x07#8 f
  | .vneg f => encVF 0x08#8 f
  | .vabd f => encVF 0x09#8 f
  | .vmulh f => encVF 0x0A#8 f
  | .vclamp f => encVF 0x0B#8 f
  | .vand f => encVF 0x0C#8 f
  | .vor f => encVF 0x0D#8 f
  | .vxor f => encVF 0x0E#8 f
  | .vnot f => encVF 0x0F#8 f
  | .vshl f => encVF 0x10#8 f
  | .vshr f => encVF 0x11#8 f
  | .vcmp f => encVF 0x12#8 f
  | .vclass f => encVF 0x13#8 f
  | .vsel f => encVF 0x14#8 f
  | .klog f => encVF 0x15#8 f
  | .kpop f => encVF 0x16#8 f
  | .vcvt f => encVF 0x17#8 f
  | .vsrnd f => encVF 0x18#8 f
  | .vpack f => encVF 0x19#8 f
  | .vunpk f => encVF 0x1A#8 f
  | .vexp2 f => encVF 0x1B#8 f
  | .vlog2 f => encVF 0x1C#8 f
  | .vrcp f => encVF 0x1D#8 f
  | .vrsq f => encVF 0x1E#8 f
  | .vsqrt f => encVF 0x1F#8 f
  | .vscale f => encVF 0x20#8 f
  | .vround f => encVF 0x21#8 f
  | .vcpsgn f => encVF 0x22#8 f
  | .vredsum f => encVF 0x23#8 f
  | .vredmax f => encVF 0x24#8 f
  | .vredmin f => encVF 0x25#8 f
  | .vmaxidx f => encVF 0x26#8 f
  | .vprefix f => encVF 0x27#8 f
  | .vperm f => encVF 0x28#8 f
  | .vxgrp f => encVF 0x29#8 f
  | .vbcast f => encVF 0x2A#8 f
  | .vslide f => encVF 0x2B#8 f
  | .viota f => encVF 0x2C#8 f
  | .vmov f => encVF 0x2D#8 f
  | .vext f => encVF 0x2E#8 f
  | .vins f => encVF 0x2F#8 f
  | .vmix f => encVF 0x30#8 f
  | .vdot4 f => encVF 0x31#8 f
  | .vmadi f => encVF 0x32#8 f
  | .vbitc f => encVF 0x33#8 f
  | .vfin f => encVF 0x34#8 f
  | .vlut f => encVF 0x35#8 f
  | _ => 0

/-- The vector operation that a slot holds; none for an unassigned opcode (R93). -/
def buildV (w : BitVec 56) : Option Instr :=
  let f := decVF w
  match (w.extractLsb' 48 8).toNat with
  | 0x00 => some (.vadd f)
  | 0x01 => some (.vsub f)
  | 0x02 => some (.vmul f)
  | 0x03 => some (.vfma f)
  | 0x04 => some (.vfms f)
  | 0x05 => some (.vmin f)
  | 0x06 => some (.vmax f)
  | 0x07 => some (.vabs f)
  | 0x08 => some (.vneg f)
  | 0x09 => some (.vabd f)
  | 0x0A => some (.vmulh f)
  | 0x0B => some (.vclamp f)
  | 0x0C => some (.vand f)
  | 0x0D => some (.vor f)
  | 0x0E => some (.vxor f)
  | 0x0F => some (.vnot f)
  | 0x10 => some (.vshl f)
  | 0x11 => some (.vshr f)
  | 0x12 => some (.vcmp f)
  | 0x13 => some (.vclass f)
  | 0x14 => some (.vsel f)
  | 0x15 => some (.klog f)
  | 0x16 => some (.kpop f)
  | 0x17 => some (.vcvt f)
  | 0x18 => some (.vsrnd f)
  | 0x19 => some (.vpack f)
  | 0x1A => some (.vunpk f)
  | 0x1B => some (.vexp2 f)
  | 0x1C => some (.vlog2 f)
  | 0x1D => some (.vrcp f)
  | 0x1E => some (.vrsq f)
  | 0x1F => some (.vsqrt f)
  | 0x20 => some (.vscale f)
  | 0x21 => some (.vround f)
  | 0x22 => some (.vcpsgn f)
  | 0x23 => some (.vredsum f)
  | 0x24 => some (.vredmax f)
  | 0x25 => some (.vredmin f)
  | 0x26 => some (.vmaxidx f)
  | 0x27 => some (.vprefix f)
  | 0x28 => some (.vperm f)
  | 0x29 => some (.vxgrp f)
  | 0x2A => some (.vbcast f)
  | 0x2B => some (.vslide f)
  | 0x2C => some (.viota f)
  | 0x2D => some (.vmov f)
  | 0x2E => some (.vext f)
  | 0x2F => some (.vins f)
  | 0x30 => some (.vmix f)
  | 0x31 => some (.vdot4 f)
  | 0x32 => some (.vmadi f)
  | 0x33 => some (.vbitc f)
  | 0x34 => some (.vfin f)
  | 0x35 => some (.vlut f)
  | _ => none

/-! ### The MX slot (R89) -/

/-- The word of an MX operation; 0 for any other instruction. -/
def encodeMx (i : Instr) : BitVec 64 :=
  match i with
  | .mma f => encMF 0x00#6 f
  | .mmab f => encMF 0x01#6 f
  | .mzero f => encMF 0x02#6 f
  | .mload f => encMF 0x03#6 f
  | .mdrain f => encMF 0x04#6 f
  | .madd f => encMF 0x05#6 f
  | .mscl f => encMF 0x06#6 f
  | .mtrn f => encMF 0x07#6 f
  | .mstat f => encMF 0x08#6 f
  | .mscan f => encMF 0x09#6 f
  | .mscanf f => encMF 0x0A#6 f
  | .mscanr f => encMF 0x0B#6 f
  | .cvInit f => encMF 0x0C#6 f
  | .cvProbe f => encMF 0x0D#6 f
  | .cvCommit f => encMF 0x0E#6 f
  | .cvRead f => encMF 0x0F#6 f
  | .sigFold f => encMF 0x10#6 f
  | .sigCheck f => encMF 0x11#6 f
  | .sigGet f => encMF 0x12#6 f
  | .mred f => encMF 0x13#6 f
  | .mgate f => encMF 0x14#6 f
  | .mcopy f => encMF 0x15#6 f
  | _ => 0

/-- The MX operation that a slot holds; none for an unassigned opcode (R93). -/
def buildMx (w : BitVec 64) : Option Instr :=
  let f := decMF w
  match (w.extractLsb' 58 6).toNat with
  | 0x00 => some (.mma f)
  | 0x01 => some (.mmab f)
  | 0x02 => some (.mzero f)
  | 0x03 => some (.mload f)
  | 0x04 => some (.mdrain f)
  | 0x05 => some (.madd f)
  | 0x06 => some (.mscl f)
  | 0x07 => some (.mtrn f)
  | 0x08 => some (.mstat f)
  | 0x09 => some (.mscan f)
  | 0x0A => some (.mscanf f)
  | 0x0B => some (.mscanr f)
  | 0x0C => some (.cvInit f)
  | 0x0D => some (.cvProbe f)
  | 0x0E => some (.cvCommit f)
  | 0x0F => some (.cvRead f)
  | 0x10 => some (.sigFold f)
  | 0x11 => some (.sigCheck f)
  | 0x12 => some (.sigGet f)
  | 0x13 => some (.mred f)
  | 0x14 => some (.mgate f)
  | 0x15 => some (.mcopy f)
  | _ => none

/-! ### The D slots (R90) -/

/-- The word of a D operation; 0 for any other instruction. -/
def encodeD (i : Instr) : BitVec 64 :=
  match i with
  | .cpy c f => encDC 0x00#6 c (encCopy f)
  | .strm c f => encDC 0x01#6 c (encCopy f)
  | .ring c f => encDC 0x02#6 c (encRing f)
  | .wdef c f => encDC 0x03#6 c (encWdef f)
  | .wadv c f => encDC 0x04#6 c (encWadv f)
  | .wrel c f => encDC 0x05#6 c (encWrel f)
  | .stow c f => encDC 0x06#6 c (encStow f)
  | .patchOpen c f => encDC 0x07#6 c (encOpen f)
  | .patchSeal c f => encDC 0x08#6 c (encSeal f)
  | .patchApply c f => encDC 0x09#6 c (encPatch f)
  | .patchInvert c f => encDC 0x0A#6 c (encPatch f)
  | .patchCommute c f => encDC 0x0B#6 c (encCommute f)
  | .patchTransplant c f => encDC 0x0C#6 c (encTransplant f)
  | .patchSquash c f => encDC 0x0D#6 c (encTwoPatch f)
  | .patchDiscard c f => encDC 0x0E#6 c (encPatch f)
  | .rayFork c f => encDC 0x0F#6 c (encFork f)
  | .patchQuery c f => encDC 0x10#6 c (encTwoPatch f)
  | .scat c f => encDC 0x11#6 c (encScat f)
  | .gath c f => encDC 0x12#6 c (encGath f)
  | .syncAdd c f => encDC 0x13#6 c (encSync f)
  | .syncMax c f => encDC 0x14#6 c (encSync f)
  | .syncOr c f => encDC 0x15#6 c (encSync f)
  | .syncCas c f => encDC 0x16#6 c (encSync f)
  | .syncSwap c f => encDC 0x17#6 c (encSync f)
  | .syncLda c f => encDC 0x18#6 c (encSync f)
  | .syncStl c f => encDC 0x19#6 c (encSync f)
  | .qpush c f => encDC 0x1A#6 c (encQueue f)
  | .qpop c f => encDC 0x1B#6 c (encQueue f)
  | .send c f => encDC 0x1C#6 c (encSend f)
  | .recv c f => encDC 0x1D#6 c (encRecv f)
  | .tjoin c f => encDC 0x1E#6 c (encJoin f)
  | .lnch c f => encDC 0x1F#6 c (encLnch f)
  | _ => 0

/-- The D operation that a slot holds; none for an unassigned opcode (R93). -/
def buildD (w : BitVec 64) : Option Instr :=
  let c := decDC w
  match (w.extractLsb' 58 6).toNat with
  | 0x00 => some (.cpy c (decCopy w))
  | 0x01 => some (.strm c (decCopy w))
  | 0x02 => some (.ring c (decRing w))
  | 0x03 => some (.wdef c (decWdef w))
  | 0x04 => some (.wadv c (decWadv w))
  | 0x05 => some (.wrel c (decWrel w))
  | 0x06 => some (.stow c (decStow w))
  | 0x07 => some (.patchOpen c (decOpen w))
  | 0x08 => some (.patchSeal c (decSeal w))
  | 0x09 => some (.patchApply c (decPatch w))
  | 0x0A => some (.patchInvert c (decPatch w))
  | 0x0B => some (.patchCommute c (decCommute w))
  | 0x0C => some (.patchTransplant c (decTransplant w))
  | 0x0D => some (.patchSquash c (decTwoPatch w))
  | 0x0E => some (.patchDiscard c (decPatch w))
  | 0x0F => some (.rayFork c (decFork w))
  | 0x10 => some (.patchQuery c (decTwoPatch w))
  | 0x11 => some (.scat c (decScat w))
  | 0x12 => some (.gath c (decGath w))
  | 0x13 => some (.syncAdd c (decSync w))
  | 0x14 => some (.syncMax c (decSync w))
  | 0x15 => some (.syncOr c (decSync w))
  | 0x16 => some (.syncCas c (decSync w))
  | 0x17 => some (.syncSwap c (decSync w))
  | 0x18 => some (.syncLda c (decSync w))
  | 0x19 => some (.syncStl c (decSync w))
  | 0x1A => some (.qpush c (decQueue w))
  | 0x1B => some (.qpop c (decQueue w))
  | 0x1C => some (.send c (decSend w))
  | 0x1D => some (.recv c (decRecv w))
  | 0x1E => some (.tjoin c (decJoin w))
  | 0x1F => some (.lnch c (decLnch w))
  | _ => none

/-! ### The CT slot (R91) -/

/-- The word of a CT operation; 0 for any other instruction. -/
def encodeCt (i : Instr) : BitVec 64 :=
  match i with
  | .btree shape t0 t1 t2 t3 d0 d1 d2 d3 => 0x00#5 ++ shape ++ t0 ++ t1 ++ t2 ++ t3 ++ d0 ++ d1 ++ d2 ++ d3
  | .jump g off => 0x01#5 ++ g ++ 0#14 ++ off
  | .call g l off => 0x02#5 ++ g ++ l ++ 0#8 ++ off
  | .ret g a => 0x03#5 ++ g ++ a ++ 0#48
  | .loop g lvl b s cnt => 0x04#5 ++ g ++ lvl ++ b ++ BitVec.ofBool s ++ cnt ++ 0#18
  | .leave g lvl => 0x05#5 ++ g ++ lvl ++ 0#51
  | .imx imm => 0x06#5 ++ 0#11 ++ imm
  | .nxt g => 0x07#5 ++ g ++ 0#54
  | .wait g kind opd => 0x08#5 ++ g ++ kind ++ opd ++ 0#45
  | .fence g scope kind => 0x09#5 ++ g ++ scope ++ kind ++ 0#49
  | .vjoin g => 0x0A#5 ++ g ++ 0#54
  | .bar g scope slot mode => 0x0B#5 ++ g ++ scope ++ slot ++ mode ++ 0#45
  | .estAdd g a f => 0x0C#5 ++ g ++ a ++ BitVec.ofBool f ++ 0#47
  | .trap g code => 0x0D#5 ++ g ++ code ++ 0#38
  | .bkpt g code => 0x0E#5 ++ g ++ code ++ 0#38
  | .halt g => 0x0F#5 ++ g ++ 0#54
  | _ => 0

/-- The CT operation that a slot holds; none for an unassigned opcode (R93). -/
def buildCt (w : BitVec 64) : Option Instr :=
  match (w.extractLsb' 59 5).toNat with
  | 0x00 => some (.btree (w.extractLsb' 56 3) (w.extractLsb' 51 5) (w.extractLsb' 46 5) (w.extractLsb' 41 5) (w.extractLsb' 36 5) (w.extractLsb' 27 9) (w.extractLsb' 18 9) (w.extractLsb' 9 9) (w.extractLsb' 0 9))
  | 0x01 => some (.jump (w.extractLsb' 54 5) (w.extractLsb' 0 40))
  | 0x02 => some (.call (w.extractLsb' 54 5) (w.extractLsb' 48 6) (w.extractLsb' 0 40))
  | 0x03 => some (.ret (w.extractLsb' 54 5) (w.extractLsb' 48 6))
  | 0x04 => some (.loop (w.extractLsb' 54 5) (w.extractLsb' 51 3) (w.extractLsb' 43 8) (bit w 42) (w.extractLsb' 18 24))
  | 0x05 => some (.leave (w.extractLsb' 54 5) (w.extractLsb' 51 3))
  | 0x06 => some (.imx (w.extractLsb' 0 48))
  | 0x07 => some (.nxt (w.extractLsb' 54 5))
  | 0x08 => some (.wait (w.extractLsb' 54 5) (w.extractLsb' 51 3) (w.extractLsb' 45 6))
  | 0x09 => some (.fence (w.extractLsb' 54 5) (w.extractLsb' 51 3) (w.extractLsb' 49 2))
  | 0x0A => some (.vjoin (w.extractLsb' 54 5))
  | 0x0B => some (.bar (w.extractLsb' 54 5) (w.extractLsb' 51 3) (w.extractLsb' 47 4) (w.extractLsb' 45 2))
  | 0x0C => some (.estAdd (w.extractLsb' 54 5) (w.extractLsb' 48 6) (bit w 47))
  | 0x0D => some (.trap (w.extractLsb' 54 5) (w.extractLsb' 38 16))
  | 0x0E => some (.bkpt (w.extractLsb' 54 5) (w.extractLsb' 38 16))
  | 0x0F => some (.halt (w.extractLsb' 54 5))
  | _ => none

/-! ### The CF slot (R92) -/

/-- The word of a CF operation; 0 for any other instruction. -/
def encodeCf (i : Instr) : BitVec 32 :=
  match i with
  | .sclSetImm entry value => 0x0#4 ++ entry ++ 1#1 ++ 0#7 ++ value
  | .sclSetReg entry a => 0x0#4 ++ entry ++ 0#1 ++ a ++ 0#17
  | .sclLdv v => 0x1#4 ++ v ++ 0#16
  | .bfmt bank scl fmt => 0x2#4 ++ bank ++ BitVec.ofBool scl ++ fmt ++ 0#17
  | .shape h a b => 0x3#4 ++ h ++ a ++ b ++ 0#12
  | .xset x a => 0x4#4 ++ x ++ a ++ 0#18
  | .xstepReg x lvl a => 0x5#4 ++ x ++ lvl ++ 0#1 ++ a ++ 0#14
  | .xstepImm x lvl imm => 0x5#4 ++ x ++ lvl ++ 1#1 ++ imm
  | .cpat a => 0x6#4 ++ a ++ 0#22
  | .qbndImm value => 0x7#4 ++ 1#1 ++ 0#3 ++ value
  | .qbndReg a => 0x7#4 ++ 0#4 ++ a ++ 0#18
  | .rmodeImm mode => 0x8#4 ++ mode ++ 0#25
  | .rmodeReg a => 0x8#4 ++ 0#3 ++ 1#1 ++ a ++ 0#18
  | .ssmCfgImm value => 0x9#4 ++ 1#1 ++ 0#18 ++ value
  | .ssmCfgReg a => 0x9#4 ++ 0#1 ++ a ++ 0#21
  | .sigSet t a => 0xA#4 ++ BitVec.ofBool t ++ a ++ 0#21
  | .tkclr mask => 0xB#4 ++ mask ++ 0#13
  | _ => 0

/-- The CF operation that a slot holds; none for an unassigned opcode (R93). -/
def buildCf (w : BitVec 32) : Option Instr :=
  match (w.extractLsb' 28 4).toNat with
  | 0x0 => if bit w 23 then some (.sclSetImm (w.extractLsb' 24 4) (w.extractLsb' 0 16)) else some (.sclSetReg (w.extractLsb' 24 4) (w.extractLsb' 17 6))
  | 0x1 => some (.sclLdv (w.extractLsb' 16 12))
  | 0x2 => some (.bfmt (w.extractLsb' 22 6) (bit w 21) (w.extractLsb' 17 4))
  | 0x3 => some (.shape (w.extractLsb' 24 4) (w.extractLsb' 18 6) (w.extractLsb' 12 6))
  | 0x4 => some (.xset (w.extractLsb' 24 4) (w.extractLsb' 18 6))
  | 0x5 => if bit w 20 then some (.xstepImm (w.extractLsb' 24 4) (w.extractLsb' 21 3) (w.extractLsb' 0 20)) else some (.xstepReg (w.extractLsb' 24 4) (w.extractLsb' 21 3) (w.extractLsb' 14 6))
  | 0x6 => some (.cpat (w.extractLsb' 22 6))
  | 0x7 => if bit w 27 then some (.qbndImm (w.extractLsb' 0 24)) else some (.qbndReg (w.extractLsb' 18 6))
  | 0x8 => if bit w 24 then some (.rmodeReg (w.extractLsb' 18 6)) else some (.rmodeImm (w.extractLsb' 25 3))
  | 0x9 => if bit w 27 then some (.ssmCfgImm (w.extractLsb' 0 9)) else some (.ssmCfgReg (w.extractLsb' 21 6))
  | 0xA => some (.sigSet (bit w 27) (w.extractLsb' 21 6))
  | 0xB => some (.tkclr (w.extractLsb' 13 15))
  | _ => none

/-! ### Decoding one slot, and the bytes of an instruction -/

/-- R84 steps 3 and 4 for the bits of one slot: the instruction is taken only if encoding it gives the slot back
(so every reserved bit is zero) and its fields are well formed. -/
def checkBuilt {n : Nat} (enc : Instr → BitVec n) (w : BitVec n) (b : Option Instr) : Except DecErr Instr :=
  match b with
  | none => .error .illegalOpcode
  | some i => if enc i = w ∧ wellFormed i then .ok i else .error .illegalField

/-- Decode a slot, its bits given as an integer (R58). -/
def decodeSlot (s : Slot) (w : Nat) : Except DecErr Instr :=
  match s with
  | .sc => checkBuilt encodeSc (BitVec.ofNat 32 w) (buildSc (BitVec.ofNat 32 w))
  | .vx | .vy => checkBuilt encodeV (BitVec.ofNat 56 w) (buildV (BitVec.ofNat 56 w))
  | .mx => checkBuilt encodeMx (BitVec.ofNat 64 w) (buildMx (BitVec.ofNat 64 w))
  | .da | .db => checkBuilt encodeD (BitVec.ofNat 64 w) (buildD (BitVec.ofNat 64 w))
  | .ct => checkBuilt encodeCt (BitVec.ofNat 64 w) (buildCt (BitVec.ofNat 64 w))
  | .cf => checkBuilt encodeCf (BitVec.ofNat 32 w) (buildCf (BitVec.ofNat 32 w))

/-- The slot an instruction stands in: the first of the two for a vector or a D operation; none for an event. -/
def slotOf (i : Instr) : Option Slot :=
  match i with
  | .bundleIssue _ => none
  | .runSchedule _ => none
  | .runOverrun _ => none
  | .quietOverrun _ => none
  | .resultLanding _ _ _ => none
  | .mxOpStart _ _ => none
  | .mxOpCompletion _ _ => none
  | .dOperationStart _ _ => none
  | .copyCompletion _ _ => none
  | .strmVectorEntry _ _ => none
  | .ringShiftStart _ _ => none
  | .windowRowFetch _ _ => none
  | .scatterUpdate _ _ => none
  | .tokenJoinCompletion _ _ => none
  | .nameReserveRefill _ _ => none
  | .patchEngineOperation _ _ => none
  | .atomicUnitOperation _ _ => none
  | .launchDispatch _ => none
  | .dependenceTest _ _ => none
  | .codePageFill _ _ _ => none
  | .evictionSave _ _ => none
  | .evictionResume _ _ => none
  | .haltWaitEvent _ => none
  | .launchRetirement _ => none
  | .deferredAutoApply _ _ => none
  | .rollback _ => none
  | .faultResume _ _ _ => none
  | .faultResumeStepOver _ _ _ => none
  | .faultTerminate _ _ => none
  | .queueMissService _ _ => none
  | .intakeAcceptance _ _ => none
  | .nxtLanding _ _ => none
  | .stepBlockRefill _ _ => none
  | .sendQueueEntry _ _ => none
  | .flitArrival _ _ _ _ => none
  | .recvGrant _ _ => none
  | .linkReceiveTimeout _ _ => none
  | .remoteAccess _ _ => none
  | .remoteAccessAck _ _ => none
  | .revocationStorageFree _ _ => none
  | .migrationCopyDone _ _ => none
  | .pullLineFetch _ _ _ => none
  | .pullCompletion _ _ => none
  | .partialEstimatorSample _ => none
  | .batchMerge _ => none
  | .stopReceipt _ _ => none
  | .remainderMerge _ => none
  | .scrubRead _ => none
  | .powerEstimate _ _ _ => none
  | .powerGood _ => none
  | .firmwareRegisterWrite _ _ _ => none
  | .hostWrite _ _ => none
  | .hostRead _ _ => none
  | .hostAtomicAdd _ _ => none
  | .hostAtomicMax _ _ => none
  | .hostAtomicOr _ _ => none
  | .hostAtomicCas _ _ => none
  | .hostAtomicSwap _ _ => none
  | .hostAtomicLda _ _ => none
  | .hostAtomicStl _ _ => none
  | .add _ _ _ _ => some .sc
  | .sub _ _ _ _ => some .sc
  | .addi _ _ _ _ => some .sc
  | .mul _ _ _ _ => some .sc
  | .mulhi _ _ _ _ => some .sc
  | .mulhu _ _ _ _ => some .sc
  | .div _ _ _ _ => some .sc
  | .divu _ _ _ _ => some .sc
  | .rem _ _ _ _ => some .sc
  | .remu _ _ _ _ => some .sc
  | .and _ _ _ _ => some .sc
  | .or _ _ _ _ => some .sc
  | .xor _ _ _ _ => some .sc
  | .andn _ _ _ _ => some .sc
  | .shl _ _ _ _ => some .sc
  | .shlImm _ _ _ _ => some .sc
  | .shrl _ _ _ _ => some .sc
  | .shrlImm _ _ _ _ => some .sc
  | .shra _ _ _ _ => some .sc
  | .shraImm _ _ _ _ => some .sc
  | .min _ _ _ _ => some .sc
  | .max _ _ _ _ => some .sc
  | .minu _ _ _ _ => some .sc
  | .maxu _ _ _ _ => some .sc
  | .sethi _ _ _ _ => some .sc
  | .cmp _ _ _ _ _ => some .sc
  | .cmpi _ _ _ _ _ => some .sc
  | .sel _ _ _ _ _ => some .sc
  | .plog _ _ _ _ _ => some .sc
  | .bitc _ _ _ _ => some .sc
  | .fadd _ _ _ _ _ => some .sc
  | .fsub _ _ _ _ _ => some .sc
  | .fmul _ _ _ _ _ => some .sc
  | .fma _ _ _ _ _ => some .sc
  | .fdiv _ _ _ _ _ => some .sc
  | .fsqrt _ _ _ _ => some .sc
  | .fminmax _ _ _ _ _ _ => some .sc
  | .fcmp _ _ _ _ _ _ => some .sc
  | .fcvt _ _ _ _ => some .sc
  | .gets _ _ _ => some .sc
  | .sets _ _ _ => some .sc
  | .sld _ _ _ _ => some .sc
  | .sst _ _ _ _ => some .sc
  | .vadd _ => some .vx
  | .vsub _ => some .vx
  | .vmul _ => some .vx
  | .vfma _ => some .vx
  | .vfms _ => some .vx
  | .vmin _ => some .vx
  | .vmax _ => some .vx
  | .vabs _ => some .vx
  | .vneg _ => some .vx
  | .vabd _ => some .vx
  | .vmulh _ => some .vx
  | .vclamp _ => some .vx
  | .vand _ => some .vx
  | .vor _ => some .vx
  | .vxor _ => some .vx
  | .vnot _ => some .vx
  | .vshl _ => some .vx
  | .vshr _ => some .vx
  | .vcmp _ => some .vx
  | .vclass _ => some .vx
  | .vsel _ => some .vx
  | .klog _ => some .vx
  | .kpop _ => some .vx
  | .vcvt _ => some .vx
  | .vsrnd _ => some .vx
  | .vpack _ => some .vx
  | .vunpk _ => some .vx
  | .vexp2 _ => some .vx
  | .vlog2 _ => some .vx
  | .vrcp _ => some .vx
  | .vrsq _ => some .vx
  | .vsqrt _ => some .vx
  | .vscale _ => some .vx
  | .vround _ => some .vx
  | .vcpsgn _ => some .vx
  | .vredsum _ => some .vx
  | .vredmax _ => some .vx
  | .vredmin _ => some .vx
  | .vmaxidx _ => some .vx
  | .vprefix _ => some .vx
  | .vperm _ => some .vx
  | .vxgrp _ => some .vx
  | .vbcast _ => some .vx
  | .vslide _ => some .vx
  | .viota _ => some .vx
  | .vmov _ => some .vx
  | .vext _ => some .vx
  | .vins _ => some .vx
  | .vmix _ => some .vx
  | .vdot4 _ => some .vx
  | .vmadi _ => some .vx
  | .vbitc _ => some .vx
  | .vfin _ => some .vx
  | .vlut _ => some .vx
  | .mma _ => some .mx
  | .mmab _ => some .mx
  | .mzero _ => some .mx
  | .mload _ => some .mx
  | .mdrain _ => some .mx
  | .madd _ => some .mx
  | .mscl _ => some .mx
  | .mtrn _ => some .mx
  | .mstat _ => some .mx
  | .mscan _ => some .mx
  | .mscanf _ => some .mx
  | .mscanr _ => some .mx
  | .cvInit _ => some .mx
  | .cvProbe _ => some .mx
  | .cvCommit _ => some .mx
  | .cvRead _ => some .mx
  | .sigFold _ => some .mx
  | .sigCheck _ => some .mx
  | .sigGet _ => some .mx
  | .mred _ => some .mx
  | .mgate _ => some .mx
  | .mcopy _ => some .mx
  | .cpy _ _ => some .da
  | .strm _ _ => some .da
  | .ring _ _ => some .da
  | .wdef _ _ => some .da
  | .wadv _ _ => some .da
  | .wrel _ _ => some .da
  | .stow _ _ => some .da
  | .patchOpen _ _ => some .da
  | .patchSeal _ _ => some .da
  | .patchApply _ _ => some .da
  | .patchInvert _ _ => some .da
  | .patchCommute _ _ => some .da
  | .patchTransplant _ _ => some .da
  | .patchSquash _ _ => some .da
  | .patchDiscard _ _ => some .da
  | .rayFork _ _ => some .da
  | .patchQuery _ _ => some .da
  | .scat _ _ => some .da
  | .gath _ _ => some .da
  | .syncAdd _ _ => some .da
  | .syncMax _ _ => some .da
  | .syncOr _ _ => some .da
  | .syncCas _ _ => some .da
  | .syncSwap _ _ => some .da
  | .syncLda _ _ => some .da
  | .syncStl _ _ => some .da
  | .qpush _ _ => some .da
  | .qpop _ _ => some .da
  | .send _ _ => some .da
  | .recv _ _ => some .da
  | .tjoin _ _ => some .da
  | .lnch _ _ => some .da
  | .btree _ _ _ _ _ _ _ _ _ => some .ct
  | .jump _ _ => some .ct
  | .call _ _ _ => some .ct
  | .ret _ _ => some .ct
  | .loop _ _ _ _ _ => some .ct
  | .leave _ _ => some .ct
  | .imx _ => some .ct
  | .nxt _ => some .ct
  | .wait _ _ _ => some .ct
  | .fence _ _ _ => some .ct
  | .vjoin _ => some .ct
  | .bar _ _ _ _ => some .ct
  | .estAdd _ _ _ => some .ct
  | .trap _ _ => some .ct
  | .bkpt _ _ => some .ct
  | .halt _ => some .ct
  | .sclSetImm _ _ => some .cf
  | .sclSetReg _ _ => some .cf
  | .sclLdv _ => some .cf
  | .bfmt _ _ _ => some .cf
  | .shape _ _ _ => some .cf
  | .xset _ _ => some .cf
  | .xstepReg _ _ _ => some .cf
  | .xstepImm _ _ _ => some .cf
  | .cpat _ => some .cf
  | .qbndImm _ => some .cf
  | .qbndReg _ => some .cf
  | .rmodeImm _ => some .cf
  | .rmodeReg _ => some .cf
  | .ssmCfgImm _ => some .cf
  | .ssmCfgReg _ => some .cf
  | .sigSet _ _ => some .cf
  | .tkclr _ => some .cf
  | .coreCycle _ => none
  | .flitRetry => none
  | .pullBackgroundFetch => none
  | .thermalTrip => none
  | .thermalRecovery => none
  | .watchdogReset => none
  | .map => none
  | .unmap => none
  | .createq => none
  | .destroyq => none
  | .opench => none
  | .closech => none
  | .attest => none
  | .createp => none
  | .destroyp => none
  | .rmray => none
  | .migrate => none
  | .malformedMailboxRecord => none

/-- The bits of an instruction in its slot; 0 for an event. -/
def encodeBits (i : Instr) : Nat :=
  match slotOf i with
  | some .sc => (encodeSc i).toNat
  | some .vx | some .vy => (encodeV i).toNat
  | some .mx => (encodeMx i).toNat
  | some .da | some .db => (encodeD i).toNat
  | some .ct => (encodeCt i).toNat
  | some .cf => (encodeCf i).toNat
  | none => 0

/-- The n low bytes of an integer, little-endian (R1). -/
def leBytes (w : Nat) : Nat → List Byte
  | 0 => []
  | n + 1 => BitVec.ofNat 8 w :: leBytes (w / 256) n

/-- The integer whose little-endian bytes are given (R1). -/
def leNat : List Byte → Nat
  | [] => 0
  | b :: bs => b.toNat + 256 * leNat bs

/-- The words of an instruction: the bytes of its slot as memory holds them (R58); none for an event. -/
def encode (i : Instr) : List Byte :=
  match slotOf i with
  | some s => leBytes (encodeBits i) (slotBits s / 8)
  | none => []

/-- R59: the header's presence bit of a slot. -/
def slotBit (s : Slot) : Nat :=
  match s with
  | .sc => 0
  | .vx => 1
  | .vy => 2
  | .mx => 3
  | .da => 4
  | .db => 5
  | .ct => 6
  | .cf => 7

/-- The slots in the order of R61. -/
def slotOrder : List Slot := [.sc, .vx, .vy, .mx, .da, .db, .ct, .cf]

/-- R58, R61: the slots that a header's presence bits announce, in order. -/
def slotsOf (h : BitVec 16) : List Slot := slotOrder.filter (fun s => h.getLsbD (slotBit s))

/-- R58: the bytes of a bundle, header and pad byte included. -/
def bundleLen (h : BitVec 16) : Nat :=
  let n := 2 + ((slotsOf h).map (fun s => slotBits s / 8)).sum
  n + n % 2

/-- A header halfword (R59, R60). -/
inductive Header where
  | fill
  | bad
  | bundle (h : BitVec 16)
  deriving DecidableEq, Repr

/-- R60: 0xE000 is a fill halfword; any other halfword with [15:13] nonzero is an illegal bundle. -/
def header (h : BitVec 16) : Header :=
  if h = 0xE000#16 then .fill else if h.extractLsb' 13 3 = 0 then .bundle h else .bad

/-- A bundle as decoded: its header, its slots' raw bits in order, and its pad byte (0 when it has none). -/
structure RawBundle where
  hdr : BitVec 16
  slots : List (Slot × Nat)
  pad : Byte
  deriving DecidableEq, Repr

/-- Cut the bytes after a header into the slots announced (R58). -/
def cutSlots : List Slot → List Byte → List (Slot × Nat) × List Byte
  | [], bs => ([], bs)
  | s :: ss, bs =>
    let n := slotBits s / 8
    let r := cutSlots ss (bs.drop n)
    ((s, leNat (bs.take n)) :: r.1, r.2)

/-- R58: the raw bundle whose header is `h` and whose further bytes are `bs`. -/
def rawBundle (h : BitVec 16) (bs : List Byte) : RawBundle :=
  let r := cutSlots (slotsOf h) bs
  let odd := (2 + ((slotsOf h).map (fun s => slotBits s / 8)).sum) % 2 = 1
  { hdr := h, slots := r.1, pad := if odd then r.2.headD 0 else 0 }

/-- The instruction of a table row's bits. The table numbers only 32-bit rows, the SC and the CF slot; a word is read
as an SC operation where the SC decoder takes it, else as a CF operation (assumption log 5, DESIGN CHOICE). -/
def decodeTableWord (nbits w : Nat) : Option Instr :=
  if nbits = 32 then
    match decodeSlot .sc w with
    | .ok i => some i
    | .error _ =>
      match decodeSlot .cf w with
      | .ok i => some i
      | .error _ => none
  else none

end Sys2Proof
end

