-- ==== Sys2Proof/Machine/State.lean ====
section
/-! DEFINITION. The state of the machine: every item of the catalogues R99, R216, R288, R313 and R330, with what the
events of spec/95 need, as plain data. -/

set_option Elab.async false

namespace Sys2Proof.Machine

/-- A sparse table: keys strictly rising; an unlisted key reads as its table's default (Tab.get). -/
abbrev Tab (α : Type) := List (Nat × α)

/-- A byte-addressed memory: addresses strictly rising, no byte zero; an unlisted byte reads zero, as R216, R277 and
R419 steps 3 and 4 leave it. -/
abbrev Memory := List Host.Cell

/-! ### Registers of a context (R99, R203) -/

/-- An address register (R131): a base and one stride for each loop level. -/
structure XReg where
  base : Word
  strides : Tab Word
  deriving DecidableEq, Repr

/-- One loop level (R99, R123–R130): count, index, activity, the body's first byte and the byte after it. -/
structure Loop where
  lc : BitVec 32
  li : BitVec 32
  active : Bool
  first : Nat
  stop : Nat
  deriving DecidableEq, Repr

/-- The state of a patch that a name register's summary or a record holds (R244). -/
inductive PState where
  | opened | sealed | applied | discarded
  deriving DecidableEq, Repr

/-- The summary that the D-slot front end keeps for a name register (R211): the kind, the state, KEEP, whether an
undo image is held, and the tensor's handle, format code and scale presence as the OPEN found them (R426). -/
structure Summary where
  isAdd : Bool
  st : PState
  keep : Bool
  undo : Bool
  handle : BitVec 32
  fmt : Option (Nat × Bool)
  deriving DecidableEq, Repr

/-- A name register n0–n7 (R246): the name held and its summary. -/
structure NameReg where
  name : Nat
  sum : Summary
  deriving DecidableEq, Repr

/-- The state of a token tk1–tk15 (R99, R120, R210): naming an operation in flight, or poisoned with the fault of an
operation. An unlisted token reads as complete. -/
inductive Tok where
  | pending (id : Nat)
  | poisoned (fault : Nat)
  deriving DecidableEq, Repr

/-- A word in which an error stands (R421): a scalar register, a predicate, a mask, a vector lane, a scratchpad word of
8 bytes, a sidecar entry, a tile element, a cover-store entry, a page of a code store, a bundle of a loop buffer; and a beat
of 32 bytes of device memory: of a region, by its byte offset; of a granule's storage in a tensor's base, in a patch or in
its undo image; of a message of a receive queue, counted from the opening of its channel. A vector word of 64 bits is the
two lanes it spans, each damaged, counted, zeroed and healed by itself. Assumption log 10 (DESIGN CHOICE). -/
inductive Damage where
  | sreg (core ctx r : Nat)
  | pred (core ctx q : Nat)
  | mask (core ctx k : Nat)
  | lane (core vec lane : Nat)
  | spl (cluster word : Nat)
  | side (cluster entry : Nat)
  | tile (core t i j : Nat)
  | cov (core e : Nat)
  | cell (proc index off : Nat)
  | code (core proc : Nat) (handle : BitVec 32) (page : Nat)
  | loop (core addr : Nat)
  | base (proc index granule beat : Nat)
  | store (proc name granule beat : Nat)
  | undo (proc name granule beat : Nat)
  | link (proc peer chan msg beat : Nat)
  deriving DecidableEq, Repr

/-- The fields of a fault record (R212, R213), and the word of device memory in which an error was met. -/
structure FaultRec where
  code : Nat
  slot : Option Nat
  arg : Nat
  pa : Word
  pb : Word
  elem : Word
  handle : BitVec 32
  offset : Nat
  line : Nat
  word : Option Damage
  deriving DecidableEq, Repr

/-- An asynchronous fault not yet taken (R210): the operation that met it (operations are numbered in issue order),
its record, the token that operation produced into at its issue, and whether it is one that carries no token. -/
structure AFault where
  id : Nat
  info : FaultRec
  token : Nat
  bare : Bool
  deriving DecidableEq, Repr

/-- A window w0–w15 (R230, R322): lanes 0 to 8 of its descriptor, rows fetched since WDEF, oldest row, the transfer
identifier of the latest fetch, and the rows whose fetch has completed. -/
structure Win where
  desc : List Lane
  next : Nat
  oldest : Nat
  lastId : Nat
  landed : Nat
  deriving DecidableEq, Repr

/-- A barrier arrival not yet passed (R287): the unit (true for a die), the slot and the pending phase. -/
structure BarPend where
  die : Bool
  slot : Nat
  phase : Bool
  deriving DecidableEq, Repr

/-- A pending NXT (R309): its bank (true for B), the cycles until it lands, and the answer of the launch unit. -/
structure NxtPend where
  bankB : Bool
  left : Nat
  row : Word
  col : Word
  item : Word
  flags : Word
  deriving DecidableEq, Repr

/-- Where a context stands (R16, R122, R206, R209): free; ready; halted with operations or a retirement to come;
faulted; evicting after its quiet bundle; stopped by a termination or a rollback of its launch. -/
inductive CtxSt where
  | free | ready | halted | faulted | evicting | stopped
  deriving DecidableEq, Repr

/-- A context (R203): everything it owns, in the core or in its save area. -/
structure Ctx where
  st : CtxSt
  launch : Nat
  pc : BitVec 48
  s : Tab Word
  q : BitVec 16
  k : Tab LaneMask
  x : Tab XReg
  h : Tab (BitVec 128)
  n : Tab NameReg
  tk : Tab Tok
  /-- The operations, in flight or with a fault untaken, whose token a TKCLR has made forget them (R236). -/
  loose : List Nat
  loops : Tab Loop
  sc : Tab (BitVec 16)
  rmode : BitVec 3
  qb : BitVec 24
  rb : BitVec 24
  cpat : BitVec 48
  ssm : BitVec 32
  sig : Word
  /-- SIG as GETS sees it (R347). -/
  sigVis : Word
  sigref : Word
  vfs : BitVec 3
  nextA : Nat
  nextB : Nat
  flues : Tab (List Vec)
  wins : Tab Win
  fr : Tab Word
  runCount : Nat
  quietCount : Nat
  untaken : List AFault
  vbase : Nat
  vunits : Nat
  tiles : BitVec 16
  cov : Bool
  marked : Bool
  nxt : List NxtPend
  nextBankB : Bool
  bars : List BarPend
  /-- The order in which contexts of the core last ended a run; 0 for a context that has never run (R16). -/
  lastRun : Nat
  /-- A fault of an operation taken after the HALT bundle has issued: a resume returns to the halted state (R122). -/
  afterHalt : Bool
  /-- Cycles for which the halted context has waited on another party (R207). -/
  haltWait : Nat
  /-- The code pages that its dispatch or its resumption has still to fill (R304, R208). -/
  fills : List Nat
  /-- Whether the pages of its latest fill are those of a bundle at which it resumed, which displace others (R398). -/
  refetch : Bool
  /-- The cycles left to the last bound of its stores by SST and of its vector writes (R355). -/
  stores : Nat
  deriving DecidableEq, Repr

/-! ### A core -/

/-- A tile accumulator (R162, R165): 128 rows of 128 elements, kind (true for INT32), and status bits [4:0]. -/
structure Tile where
  rows : Tab Vec
  int : Bool
  stat : BitVec 5
  deriving DecidableEq, Repr

/-- Where an exposed-latency result lands (R80, R81, R117, R160, R166). A vector result names the parts it writes and
the bits of its elements, which land each as a whole. -/
inductive Land where
  | sreg (r : Nat) (v : Word)
  | vreg (phys : Nat) (parts : PartMask) (v : Vec) (el : Nat)
  | sys (num : Nat) (v : Word)
  | vfs (bits : BitVec 3)
  | vfsClear (bits : BitVec 3)
  | mem (addr : Nat) (v : Word)
  | tstat (tile : Nat) (v : BitVec 32)
  | sigv (v : Word)
  deriving DecidableEq, Repr

/-- A result not yet landed: its context, where it lands, and the cycles left to its bound. -/
structure Pend where
  ctx : Nat
  land : Land
  left : Nat
  deriving DecidableEq, Repr

/-- A resident code page (R78, R304): process, code handle, page number, and its bytes by offset in the page. -/
structure CodePage where
  proc : Nat
  handle : BitVec 32
  page : Nat
  data : Memory
  deriving DecidableEq, Repr

/-- The loop buffer of a core (R126): the context and the body (first byte and the byte after it) of the outermost
active level that it holds, and the bundles captured, each by its address with the address after it. -/
structure LoopBuf where
  ctx : Option Nat
  first : Nat
  stop : Nat
  bundles : Tab (Nat × RawBundle)
  deriving DecidableEq, Repr

/-- A tensor reference (R226): handle and ray. -/
structure TRef where
  handle : BitVec 32
  ray : Nat
  deriving DecidableEq, Repr

/-- One side of a copy, with its address as the address register gave it at issue (R225, R226). -/
inductive Side where
  | vrf (addr : Nat)
  | spl (addr : Nat) (swz : Bool)
  | ten (ref : TRef) (row col : Int)
  | peer (core addr : Nat)
  | cov (addr : Nat)
  deriving DecidableEq, Repr

/-- What a D operation reads at its issue and keeps (R41, R44, R222, R323): the shape, RMODE, the scale table and the
cluster's bank formats. -/
structure Sample where
  shape : BitVec 128
  rmode : BitVec 3
  sc : Tab (BitVec 16)
  bfmt : Tab (BitVec 16)
  deriving DecidableEq, Repr

/-- A patch operand as read at issue: the name and the name register it came from, if any (R253). -/
structure PArg where
  name : Nat
  reg : Option Nat
  deriving DecidableEq, Repr

/-- The operations that the patch engine carries out (R256–R269), with their operands read at issue. -/
inductive PatchOp where
  | openRec (name : Nat) (reg : Nat) (ref : TRef) (isAdd : Bool) (dfmt : Nat) (keep : Bool)
  | stow (p : PArg) (src : Side) (row col : Int)
  | seal (p : PArg) (scope : Nat) (after : List Nat)
  | apply (p : PArg)
  | invert (p : PArg)
  | commute (p q : PArg) (loose : Bool)
  | transplant (p : PArg) (ref : TRef) (loose : Bool) (row col : Int)
  | squash (p q : PArg)
  | discard (p : PArg)
  | query (p q : PArg)
  | fork (ref : TRef) (k h : Nat)
  deriving DecidableEq, Repr

/-- The kinds of D operation in flight, with their operands read at issue. An LNCH keeps the vector of a source that is no
register of the file (R70, R71). -/
inductive DKind where
  | copy (src dst : Side)
  | strm (src : Side) (flue done : Nat)
  | ring (mask : Nat) (k : Nat) (xs xd : Nat) (shifted : Bool)
  | gath (vi vd nv : Nat) (addr : Nat) (swz : Bool)
  | scat (vi vv nv : Nat) (addr : Nat) (swz : Bool) (op ty : Nat)
  | fetch (w : Nat) (first count : Nat) (desc : List Lane)
  | release (w : Nat) (after : List Nat)
  | patch (op : PatchOp) (status : Nat)
  | sync (op : Nat) (handle : BitVec 32) (off size : Nat) (ord sgn : Bool) (scope : Nat) (v n : Word) (d : Nat)
      (after : List Nat)
  | qpush (q : Nat) (v : Nat) (d : Nat) (after : List Nat)
  | qpop (q : Nat) (v : Nat) (d : Nat)
  | lnch (v : Nat) (kept : Option Vec) (d : Nat) (after : List Nat)
  | send (vrf : Bool) (addr : Nat) (peer chan : Nat)
  | recv (vrf : Bool) (addr : Nat) (peer chan : Nat) (d : Nat) (timeout : Nat)
  | join
  deriving DecidableEq, Repr

/-- A D operation in flight (R25, R26, R75): its number in issue order, context, channel (true for B), the issuing
bundle, the token produced, the producers consumed, its transfer identifier, its kind and sampled state; whether an
engine has started it, whether it waits for a queue miss, whether its accesses are remote, whether they have been
performed and wait for their acknowledgement (R405), the cycles since its producers completed (R311), the cycles left to the bounds of the
writes that a release awaits (R355), the row of its source that a stream has read and converted (R252), and the poison it
carries. -/
structure DOp where
  id : Nat
  ctx : Nat
  chanB : Bool
  pc : Nat
  tkp : Nat
  waits : List Nat
  xfer : Option Nat
  kind : DKind
  smp : Sample
  started : Bool
  held : Bool
  remote : Bool
  performed : Bool
  waited : Nat
  bound : Nat
  line : Option (Nat × List Nat)
  poison : Option AFault
  deriving DecidableEq, Repr

/-- The MX operations (R89). -/
inductive MxKind where
  | mma | mmab | mzero | mload | mdrain | madd | mscl | mtrn | mstat | mscan | mscanf | mscanr
  | cvInit | cvProbe | cvCommit | cvRead | sigFold | sigCheck | sigGet | mred | mgate | mcopy
  deriving DecidableEq, Repr

/-- An MX operation in flight (R163, R164): what it read at issue, whether it has started, and the cycles left of its
occupancy and of its depth. -/
structure MxOp where
  id : Nat
  ctx : Nat
  pc : Nat
  kind : MxKind
  f : MF
  xa : Nat
  xb : Nat
  smp : Sample
  shapeB : BitVec 128
  cpat : BitVec 48
  ssm : BitVec 32
  sigref : Word
  vbase : Nat
  started : Bool
  occ : Nat
  deep : Nat
  /-- What a CV.READ has read in the cover store (R201). -/
  got : List Vec
  deriving DecidableEq, Repr

/-- A context that an eviction has saved (R203, R206, R207): its core and number, the context, its vectors, tiles and
cover store, and the operations withdrawn with it. Assumption log 54 (DESIGN CHOICE). -/
structure Saved where
  core : Nat
  num : Nat
  ctx : Ctx
  vrf : Tab Vec
  tiles : Tab Tile
  tvis : Tab (BitVec 32)
  cov : Tab Vec
  ops : List DOp
  deriving DecidableEq, Repr

/-- A core (R10). -/
structure Core where
  ctxs : Tab Ctx
  vrf : Tab Vec
  tiles : Tab Tile
  cov : Tab Vec
  pages : List CodePage
  loopBuf : LoopBuf
  /-- The handle entries that each copy channel caches, latest first: process and index (R317). -/
  hcA : List (Nat × Nat)
  hcB : List (Nat × Nat)
  cycle : Word
  running : Option Nat
  /-- Cycles, this one included, that the bundle issued last still occupies (R62). -/
  busy : Nat
  /-- The run in progress has issued its first bundle (R204). -/
  runOn : Bool
  /-- The run in progress ends when its IDLE cycles have passed: a yield, a HALT or a quiet bundle of a marked context. -/
  ending : Bool
  /-- The bundle that issued last was quiet: the quiet count is set to 0 at the end of its IDLE cycles (R204). -/
  quieted : Bool
  /-- The quiet bound that governs to the end of the bundle that issued last, where that bundle lowered it (R205). -/
  qbOld : Option (BitVec 24)
  /-- The number of runs that have ended on the core, which dates Ctx.lastRun. -/
  runs : Nat
  pend : List Pend
  /-- TSTAT as GETS sees it (R166). -/
  tvis : Tab (BitVec 32)
  dops : List DOp
  mxs : List MxOp
  /-- The names each process's reserve holds in this front end (R245). -/
  names : Tab (List Nat)
  deriving DecidableEq, Repr

/-! ### Cluster and die units -/

/-- A barrier slot (R286): owner launch (0 for none), COUNT, ARRIVED and PHASE. -/
structure BarSlot where
  owner : Nat
  count : Nat
  arrived : Nat
  phase : Bool
  deriving DecidableEq, Repr

/-- The partial estimator of a cluster (R333, R336): its launch, n, mean, M2, whether it has received the stop, and
the samples handed to it in their order. -/
structure PartEst where
  launch : Nat
  n : Nat
  mean : Word
  m2 : Word
  stopped : Bool
  samples : List Word
  deriving DecidableEq, Repr

/-- A cluster (R11): scratchpad, the elements that a window marked as fill (R51, R173; each by the bit address of its
first bit), sidecars (16,384 indices per bank), bank formats, chord, partial estimator, and the handle entries that it
caches, latest first (R317). -/
structure Cluster where
  spl : Memory
  marks : List Nat
  side : Tab (BitVec 4)
  bfmt : Tab (BitVec 16)
  chord : Tab BarSlot
  est : PartEst
  hc : List (Nat × Nat)
  deriving DecidableEq, Repr

/-- Where a launch record came from (R292, R308): a work queue, or a launch unit's intake. -/
inductive Source where
  | queue (q : Nat)
  | intake
  deriving DecidableEq, Repr

/-- A record that a launch unit considers (R301, R302): its source, its bytes, the dependences found satisfied, and
when it became visible. -/
structure Cand where
  proc : Nat
  src : Source
  bytes : List Byte
  deps : List Nat
  since : Nat
  deriving DecidableEq, Repr

/-- A die (R9): barrier slots, power registers, error counters, resident queues, and the records that its launch unit
considers: the head records of its resident LAUNCH queues and its intake. -/
structure Die where
  bars : Tab BarSlot
  tl : Nat
  hot : Bool
  plimit : Nat
  tcyc : Nat
  errs : Tab Nat
  resident : List (Nat × Nat)
  cands : List Cand
  deriving DecidableEq, Repr

/-! ### Device memory and the tables of a process -/

/-- The states of a handle entry (R315). -/
inductive HSt where
  | free | valid | migrating | revoked
  deriving DecidableEq, Repr

/-- A place in device memory (R315, R318): byte address, device, and the stack of that device. -/
structure Loc where
  addr : BitVec 48
  node : Nat
  stack : Nat
  deriving DecidableEq, Repr

/-- Where a region's storage lies (R238, R315, R318): the device; the stacks on which its pages or granules lie, in their
order, each with how many of them; the draw behind the addresses that the firmware chose; and the granules that an APPLY
has remapped since (R261). Pages and granules not remapped lie where Config.pageAddr puts them on their stacks. -/
structure Place where
  node : Nat
  runs : List (Nat × Nat)
  born : Nat
  moved : Tab Loc
  deriving DecidableEq, Repr

/-- A ray (R242, R319): existence, parent, fork height, launches pinning it, the names of its records in position
order, and the draw behind the locations RECS and STACKS. -/
structure Ray where
  alive : Bool
  parent : Nat
  forkH : Nat
  pins : Nat
  recs : List Nat
  born : Nat
  deriving DecidableEq, Repr

/-- A handle-table entry with what it leads to (R239, R315–R319). For a TENSOR: rows and columns, the base elements'
own bits by row-major element number, the scale indices by row-major group number, the poisoned granules and the
rays. For other classes: the length in bytes and the region's bytes. `place` is where the storage lies (the granule
map or the page list, MAP), `old` the place that a migration leaves (OLD), `plan` the place to which a stop-and-copy
moves it, `present` the lines fetched of a pull or the mapped pages of a CODE region (PRESENT), `born` the draw behind
the locations of the tables. `held` says that the storage is held: from MAP until a revocation frees it. `live` are the
operations in flight at the revocation point of a revoked entry (R326). -/
structure Handle where
  cls : Nat
  st : HSt
  pull : Bool
  gen : Nat
  fmt : Nat
  scl : Bool
  auto : Bool
  rows : Nat
  cols : Nat
  len : Nat
  place : Place
  old : Option Place
  plan : Option Place
  born : Nat
  present : List Nat
  host : Option Nat
  base : Tab Nat
  idx : Tab Nat
  poison : List Nat
  rays : Tab Ray
  data : Memory
  held : Bool
  live : List (Nat × Nat)
  deriving DecidableEq, Repr

/-- A patch record (R243, R320), owned by a context of a device, its home tensor by index and generation: values and indices
by row-major element number of its home tensor (an element is covered when it has a value), the undo images by element (bits
and index), the storage that it holds by granule (DATA), that of its masks (COVER), the old storage of the granules it has
remapped and that of the images it has copied (UNDOLOC), the draw behind its tables' locations, the granules whose storage
is poisoned, those whose undo image is, and whether the record below it has been applied or removed since its launch retired
(R270). -/
structure Patch where
  isAdd : Bool
  dfmt : Nat
  st : PState
  keep : Bool
  dev : Nat
  launch : Nat
  core : Nat
  ctx : Nat
  home : Nat
  homeGen : Nat
  ray : Nat
  scope : Nat
  vals : Tab Nat
  idxs : Tab Nat
  undo : Tab (Nat × Nat)
  locs : Tab Loc
  masks : Tab Loc
  undoLocs : Tab Loc
  imgs : Tab Loc
  born : Nat
  bad : List Nat
  undoBad : List Nat
  due : Bool
  deriving DecidableEq, Repr

/-- A queue-table entry (R321); a listed entry is ACTIVE, or DRAINING. `since` dates the records from HEAD on: when
each became visible to the launch unit (R302). `deps` are the dependences of the head record that its launch unit had
found satisfied when the queue was displaced (R301). -/
structure Queue where
  draining : Bool
  c : Nat
  push : Bool
  work : Bool
  home : Nat
  resident : Bool
  bodyH : BitVec 32
  cellH : BitVec 32
  headOff : Nat
  tailOff : Nat
  since : List Nat
  deps : List Nat
  deriving DecidableEq, Repr

/-- An open channel (R310): its peer and number, the messages in the receive queue in order of entry, the messages that
have left toward the peer, the RECVs that have reached the link engine (core and number), in order, where the receive queue
lies, and how many messages RECVs have been granted. -/
structure Chan where
  peer : Nat
  chan : Nat
  rx : List (List Byte)
  tx : List (List Byte)
  recvs : List (Nat × Nat)
  loc : Loc
  granted : Nat
  deriving DecidableEq, Repr

/-- A process (R313): handle table by index, patch records by name, queue table, open channels. -/
structure Process where
  alive : Bool
  handles : Tab Handle
  patches : Tab Patch
  queues : Tab Queue
  chans : List Chan
  deriving DecidableEq, Repr

/-! ### Launches -/

/-- The device estimator (R330, R337, R338): n, mean, M2, h of the last test, LATE, NONFIN, stopped, and whether all
steps had been answered at the stop. -/
structure DevEst where
  n : Nat
  mean : Word
  m2 : Word
  half : Word
  late : Nat
  nonfin : Nat
  stopped : Bool
  exhausted : Bool
  merged : Bool
  deriving DecidableEq, Repr

/-- The state of a launch: live, or ended by the firmware with the code, context and core of a fault (R215). -/
inductive LaunchSt where
  | live
  | ended (code ctx core : Nat)
  deriving DecidableEq, Repr

/-- A launch (R297–R309): its process, record, source, dispatching die, state, step counter, estimator with the
batches on their way, blocks of steps held by other launch units, the units that have the stop, relaunch and
replayability marks (R271, R272), an uncorrectable error to roll back for, the order of its start, its evicted
contexts, and the number of RINGs that each of its cores has issued under each mask (R228), keyed by 256 × core + mask. A
launch that has completed is no longer listed. -/
structure Launch where
  proc : Nat
  bytes : List Byte
  src : Source
  die : Nat
  st : LaunchSt
  step : Nat
  est : DevEst
  batches : List (Nat × Word × Word)
  blocks : Tab (Nat × Nat)
  stops : List Nat
  relaunched : Bool
  once : Bool
  rollback : Bool
  seq : Nat
  saved : List Saved
  rings : Tab Nat
  deriving DecidableEq, Repr

/-! ### The host, the firmware and the device -/

/-- What a host or a remote device was last answered (R407): status and bytes. -/
structure Resp where
  status : Nat
  bytes : List Byte
  deriving DecidableEq, Repr

/-- The events that the launch units and the service firmware receive (R23). -/
inductive Notice where
  | fault (core ctx : Nat) (code : Word)
  | queueMiss (proc q : Nat)
  | sigMismatch (core ctx : Nat)
  | estStop (launch : Nat)
  | haltWait (launch : Nat)
  | migrated (proc index : Nat)
  | training (port : Nat)
  deriving DecidableEq, Repr

/-- An access that a replay queue holds (R327): a D operation of a core, an access of a host (with its opcode for an
atomic) or one of another device; or one that a launch unit makes: the fill of a code page, a look at a queue, the test of
a record's dependences, a retirement, a save or a restore, a deferred apply, the read of an entry of a launch's list. -/
inductive HeldWhat where
  | op (core id : Nat)
  | hostWrite (a : HostAccess) (bytes : List Byte)
  | hostRead (a : HostAccess) (len : Nat)
  | hostAtomic (op : Nat) (a : HostAccess) (q : AtomicArgs)
  | remote (dev : Nat) (r : RemoteReq)
  | fill (core ctx page : Nat)
  | queue (proc q : Nat)
  | deps (proc die : Nat) (src : Source)
  | retire (launch : Nat)
  | save (core ctx : Nat)
  | auto (proc name : Nat)
  | list (launch die : Nat)
  deriving DecidableEq, Repr

/-- An entry of a replay queue (R327): the handle entry that it names, by process and index, and the access. -/
structure HeldAcc where
  proc : Nat
  idx : Nat
  what : HeldWhat
  deriving DecidableEq, Repr

/-- For which core, context and slot a slot operation acts, with what fetch found about its bundle: its address and
the address after it, and the IMX immediate beside an SC operation. -/
structure Focus where
  core : Nat
  ctx : Nat
  slot : Nat
  pc : Nat
  next : Nat
  imm : Option Word
  deriving DecidableEq, Repr

/-- The device. `agenda`, `foc`, `draws` and `stamp` are the model's own: which agents move next, for which context a
slot operation acts, the counter behind the free values, and the count that numbers operations and records. -/
structure State where
  agenda : List Instr
  foc : Focus
  draws : Nat
  stamp : Nat
  /-- The bring-up step completed, 0 to 7 (R419). -/
  step : Nat
  /-- The device number, 0 until the ports train (R403). -/
  node : Nat
  /-- The measurement chain's last link (R417), images accepted, and FAILED (R418). -/
  chain : List Byte
  accepted : Nat
  failed : Bool
  /-- The images and port reports that bring-up meets. -/
  boot : BringUp
  /-- Held by the root controller until the temperature falls (R424). -/
  tripped : Bool
  cores : Tab Core
  clusters : Tab Cluster
  dies : Tab Die
  procs : Tab Process
  launches : Tab Launch
  resp : Tab Resp
  notices : List Notice
  /-- The replay queue of each stack, oldest access first (R9, R327). -/
  replays : Tab (List HeldAcc)
  /-- The granule-map entries that the patch-engine slice of each stack caches, latest first: process, index and granule
  (R9, R313, R317). -/
  gmaps : Tab (List (Nat × Nat × Nat))
  /-- Words damaged beyond correction, and words that SECDED or ECC corrects at each read (R421). -/
  damaged : List Damage
  weak : List Damage
  deriving DecidableEq, Repr

/-- Why a step stops. No step of this model ends in a fault: every fault of the spec is taken by a context (R209) or
refused to a host (R407). -/
inductive Fault where
  /-- Raised by no meaning; it stands for a device that is absent. Safe: a stop. -/
  | absent
  deriving DecidableEq, Repr

/-- Why an instruction is refused. -/
inductive Refusal where
  /-- An arm of exec whose instruction has no meaning yet, by its mnemonic. Safe: a stop. -/
  | notModelled (mnemonic : String)
  deriving DecidableEq, Repr

/-! ### Reset -/

/-- A context that nothing has launched (R100: every register zero). -/
def Ctx.reset : Ctx :=
  { st := .free, launch := 0, pc := 0, s := [], q := 0, k := [], x := [], h := [], n := [], tk := [], loose := [], loops := [],
    sc := [], rmode := 0, qb := 0, rb := 0, cpat := 0, ssm := 0, sig := 0, sigVis := 0, sigref := 0, vfs := 0, nextA := 0,
    nextB := 0, flues := [], wins := [], fr := [], runCount := 0, quietCount := 0, untaken := [], vbase := 0,
    vunits := 0, tiles := 0, cov := false, marked := false, nxt := [], nextBankB := false, bars := [], lastRun := 0,
    afterHalt := false, haltWait := 0, fills := [], refetch := false, stores := 0 }

/-- A tile as R419 leaves it: +0, kind FP32. -/
def Tile.reset : Tile := { rows := [], int := false, stat := 0 }

/-- A loop buffer that holds no body. -/
def LoopBuf.empty : LoopBuf := { ctx := none, first := 0, stop := 0, bundles := [] }

/-- A core as R419 step 4 leaves it. -/
def Core.reset : Core :=
  { ctxs := [], vrf := [], tiles := [], cov := [], pages := [], loopBuf := LoopBuf.empty, hcA := [], hcB := [], cycle := 0,
    running := none, busy := 0,
    runOn := false, ending := false, quieted := false, qbOld := none, runs := 0, pend := [], tvis := [], dops := [], mxs := [],
    names := [] }

/-- A partial estimator that serves no launch. -/
def PartEst.reset : PartEst := { launch := 0, n := 0, mean := 0, m2 := 0, stopped := false, samples := [] }

/-- A cluster as R419 step 4 leaves it. -/
def Cluster.reset : Cluster :=
  { spl := [], marks := [], side := [], bfmt := [], chord := [], est := PartEst.reset, hc := [] }

/-- A die at reset (R350, R423: PLIMIT is 2,400 W). -/
def Die.reset : Die :=
  { bars := [], tl := 0, hot := false, plimit := 2400, tcyc := 0, errs := [], resident := [], cands := [] }

/-- A process number that CREATEP has not given. -/
def Process.reset : Process := { alive := false, handles := [], patches := [], queues := [], chans := [] }

/-- A ray that does not exist. -/
def Ray.reset : Ray := { alive := false, parent := 0, forkH := 0, pins := 0, recs := [], born := 0 }

/-- Stack 0 of device 0. -/
def Place.reset : Place := { node := 0, runs := [], born := 0, moved := [] }

/-- A free handle entry (R315). -/
def Handle.reset : Handle :=
  { cls := 0, st := .free, pull := false, gen := 0, fmt := 0, scl := false, auto := false, rows := 0, cols := 0,
    len := 0, place := Place.reset, old := none, plan := none, born := 0, present := [], host := none, base := [],
    idx := [], poison := [], rays := [], data := [], held := false, live := [] }

/-- The estimator of a launch at its start (R333). -/
def DevEst.reset : DevEst :=
  { n := 0, mean := 0, m2 := 0, half := 0x7FF8000000000000#64, late := 0, nonfin := 0, stopped := false,
    exhausted := false, merged := false }

/-- No bring-up input: no image and no port report. -/
def BringUp.none : BringUp := { images := [], reports := [], temp := 0 }

/-- The machine right after reset, before power is good: bring-up has completed no step (R419), nothing is mapped or
launched, every memory reads zero, the chain is M0 (R417). Assumption log 1 (DESIGN CHOICE).
Assumption log 2 (DESIGN CHOICE). -/
def State.reset : State :=
  { agenda := [], foc := { core := 0, ctx := 0, slot := 0, pc := 0, next := 0, imm := none }, draws := 0, stamp := 1,
    step := 0, node := 0, chain := List.replicate 32 0, accepted := 0, failed := false, boot := BringUp.none,
    tripped := false, cores := [], clusters := [], dies := [], procs := [], launches := [], resp := [],
    notices := [], replays := [], gmaps := [], damaged := [], weak := [] }

end Sys2Proof.Machine
end

