-- ==== Sys2Proof/Machine/Tab.lean ====
section
/-! DEFINITION. Sparse tables and byte memories: reading, writing, and the canonical form. -/

set_option Elab.async false

namespace Sys2Proof.Machine

/-- The entry at a key, or the default. -/
def Tab.get {α : Type} (t : Tab α) (k : Nat) (d : α) : α :=
  match t with
  | [] => d
  | (k', v) :: rest => if k' = k then v else Tab.get rest k d

/-- The entry at a key, if listed. -/
def Tab.find {α : Type} (t : Tab α) (k : Nat) : Option α :=
  match t with
  | [] => none
  | (k', v) :: rest => if k' = k then some v else Tab.find rest k

/-- Remove the entry at a key. -/
def Tab.erase {α : Type} (t : Tab α) (k : Nat) : Tab α :=
  match t with
  | [] => []
  | (k', v) :: rest => if k' = k then rest else if k < k' then (k', v) :: rest else (k', v) :: Tab.erase rest k

/-- List an entry at a key, keeping keys rising. -/
def Tab.put {α : Type} (t : Tab α) (k : Nat) (v : α) : Tab α :=
  match t with
  | [] => [(k, v)]
  | (k', v') :: rest =>
    if k' = k then (k, v) :: rest else if k < k' then (k, v) :: (k', v') :: rest else (k', v') :: Tab.put rest k v

/-- Keys strictly rising. -/
def Tab.wf {α : Type} (t : Tab α) : Bool :=
  match t with
  | [] => true
  | [_] => true
  | (k, _) :: (k', v') :: rest => decide (k < k') && Tab.wf ((k', v') :: rest)

/-! ### Byte memories -/

/-- The byte at an address; an unlisted byte reads zero. Assumption log 6 (DEDUCED). -/
def Memory.read (m : Memory) (a : Nat) : Byte :=
  match m with
  | [] => 0
  | (a', b) :: rest => if a' = a then b else Memory.read rest a

/-- Write one byte; a zero byte is not listed. -/
def Memory.write (m : Memory) (a : Nat) (b : Byte) : Memory :=
  match m with
  | [] => if b = 0 then [] else [(a, b)]
  | (a', b') :: rest =>
    if a' = a then (if b = 0 then rest else (a, b) :: rest)
    else if a < a' then (if b = 0 then (a', b') :: rest else (a, b) :: (a', b') :: rest)
    else (a', b') :: Memory.write rest a b

/-- The listed bytes of a memory from address `a` on. -/
def Memory.above (m : Memory) (a : Nat) : Memory :=
  match m with
  | [] => []
  | (a', b) :: rest => if a' < a then Memory.above rest a else (a', b) :: rest

/-- A run of bytes laid from address `a` over the memory `m`, all of whose cells lie at `a` or above. -/
def Memory.lay (a : Nat) (bs : List Byte) (m : Memory) : Memory :=
  match bs with
  | [] => Memory.above m a
  | b :: rest => if b = 0 then Memory.lay (a + 1) rest m else (a, b) :: Memory.lay (a + 1) rest m

/-- Write a run of bytes from an address on. -/
def Memory.writeRun (m : Memory) (a : Nat) (bs : List Byte) : Memory :=
  match m with
  | [] => Memory.lay a bs []
  | (a', b) :: rest => if a' < a then (a', b) :: Memory.writeRun rest a bs else Memory.lay a bs ((a', b) :: rest)

/-- Read n bytes from an address on. -/
def Memory.readRun (m : Memory) (a : Nat) : Nat → List Byte
  | 0 => []
  | n + 1 => Memory.read m a :: Memory.readRun m (a + 1) n

/-- Addresses strictly rising above `lo`, no byte zero. -/
def Memory.wfFrom (lo : Nat) (m : Memory) : Bool :=
  match m with
  | [] => true
  | (a, b) :: rest => decide (lo ≤ a) && decide (b ≠ 0) && Memory.wfFrom (a + 1) rest

/-- The canonical form: addresses strictly rising, no entry equal to what an unlisted address reads as. -/
def Memory.wf (m : Memory) : Bool := Memory.wfFrom 0 m

/-- The little-endian integer in n bytes at an address (R1). -/
def Memory.readNat (m : Memory) (a n : Nat) : Nat := leNat (Memory.readRun m a n)

/-- Store an integer little-endian in n bytes at an address (R1). -/
def Memory.writeNat (m : Memory) (a n v : Nat) : Memory := Memory.writeRun m a (leBytes v n)

end Sys2Proof.Machine
end

