-- ==== Sys2Proof/Machine/Num.lean ====
section
/-! DEFINITION. Number formats, rounding and exact arithmetic (spec/02 R29–R56, R425). Values are exact:
a sign, a natural mantissa and a binary exponent; every rounding is one function. -/

set_option Elab.async false

namespace Sys2Proof.Machine

/-- The rounding modes of R43. -/
inductive Rmode where
  | rne | rtz | rdn | rup
  deriving DecidableEq, Repr

/-- R43: mode codes 0 to 3. -/
def Rmode.ofCode (n : Nat) : Rmode :=
  match n with
  | 0 => .rne
  | 1 => .rtz
  | 2 => .rdn
  | _ => .rup

/-- An exact value: `fin s m e` is (−1)^s × m × 2^e; `nan s p` holds a payload left-aligned in 52 bits. -/
inductive Fv where
  | fin (neg : Bool) (mant : Nat) (exp : Int)
  | inf (neg : Bool)
  | nan (neg : Bool) (pay : Nat)
  deriving DecidableEq, Repr

/-- A binary floating-point layout: exponent bits and fraction bits. -/
structure Ffmt where
  eb : Nat
  mb : Nat
  deriving DecidableEq, Repr

def fp32 : Ffmt := ⟨8, 23⟩
def fp16 : Ffmt := ⟨5, 10⟩
def bf16 : Ffmt := ⟨8, 7⟩
def fp64 : Ffmt := ⟨11, 52⟩
def fp8e5 : Ffmt := ⟨5, 2⟩
def fp8e4 : Ffmt := ⟨4, 3⟩

/-- The exponent bias of a layout. -/
def Ffmt.bias (f : Ffmt) : Nat := 2 ^ (f.eb - 1) - 1
/-- The bits of +∞ in an IEEE layout. -/
def Ffmt.infBits (f : Ffmt) : Nat := (2 ^ f.eb - 1) * 2 ^ f.mb
/-- The sign bit's weight. -/
def Ffmt.signBit (f : Ffmt) : Nat := 2 ^ (f.eb + f.mb)
/-- R36: the canonical NaN. -/
def Ffmt.canonNan (f : Ffmt) : Nat := f.infBits + 2 ^ (f.mb - 1)

/-- The canonical NaN as an exact value. -/
def Fv.cnan : Fv := .nan false (2 ^ 51)
def Fv.zero : Fv := .fin false 0 0
def Fv.one : Fv := .fin false 1 0

/-- R34, R36: the value of the bits of an IEEE-shaped layout. -/
def decodeFf (f : Ffmt) (w : Nat) : Fv :=
  let s := (w / f.signBit) % 2 == 1
  let ex := (w / 2 ^ f.mb) % 2 ^ f.eb
  let fr := w % 2 ^ f.mb
  if ex = 2 ^ f.eb - 1 then
    if fr = 0 then .inf s else .nan s (fr * 2 ^ (52 - f.mb))
  else if ex = 0 then .fin s fr (1 - (f.bias : Int) - f.mb)
  else .fin s (fr + 2 ^ f.mb) ((ex : Int) - f.bias - f.mb)

/-- R34, R36: E4M3 has no infinity; S.1111.111 is NaN, whose fraction is its payload. Assumption log 81 (DEDUCED). -/
def decodeE4 (w : Nat) : Fv :=
  let s := (w / 128) % 2 == 1
  let ex := (w / 8) % 16
  let fr := w % 8
  if ex = 15 ∧ fr = 7 then .nan s (7 * 2 ^ 49)
  else if ex = 0 then .fin s fr (-9)
  else .fin s (fr + 8) ((ex : Int) - 10)

/-- R43: the exact m ÷ 2^d rounded to an integer under a mode, for a value of sign `s`. -/
def roundShift (mode : Rmode) (s : Bool) (m d : Nat) : Nat :=
  let far := d > m.log2 + 2
  let q := if far then 0 else m / 2 ^ d
  let r := if far then m else m % 2 ^ d
  let up : Bool :=
    match mode with
    | .rne => if far then false
              else decide (2 * r > 2 ^ d) || (decide (2 * r = 2 ^ d) && q % 2 == 1)
    | .rtz => false
    | .rdn => s && decide (r ≠ 0)
    | .rup => !s && decide (r ≠ 0)
  if up then q + 1 else q

/-- The magnitude m × 2^e rounded to an integer under a mode; magnitudes of 2^80 or more answer 2^80. -/
def roundMag (mode : Rmode) (s : Bool) (m : Nat) (e : Int) : Nat :=
  if m = 0 then 0
  else if (m.log2 : Int) + e ≥ 80 then 2 ^ 80
  else if e ≥ 0 then m * 2 ^ e.toNat
  else roundShift mode s m (-e).toNat

/-- R36, R35: round a finite value into a layout. `sat`: overflow gives the largest finite magnitude
`maxRaw` in every mode (FP8 conversions); otherwise IEEE overflow for the mode. -/
def roundFf (f : Ffmt) (maxRaw : Nat) (sat : Bool) (mode : Rmode) (s : Bool) (m : Nat) (e : Int) : Nat :=
  let sb := if s then f.signBit else 0
  if m = 0 then sb
  else
    let top : Int := e + m.log2
    let emin : Int := 1 - f.bias
    let q : Int := max top emin - f.mb
    if top > (f.bias : Int) + 4 then
      -- far above the range
      if sat then sb + maxRaw
      else match mode, s with
        | .rne, _ => sb + f.infBits
        | .rtz, _ => sb + maxRaw
        | .rdn, true => sb + f.infBits
        | .rdn, false => sb + maxRaw
        | .rup, true => sb + maxRaw
        | .rup, false => sb + f.infBits
    else
      let n := if e ≥ q then m * 2 ^ (e - q).toNat else roundShift mode s m (q - e).toNat
      let raw := ((q + f.mb + f.bias - 1).toNat) * 2 ^ f.mb + n
      if raw > maxRaw then
        if sat then sb + maxRaw
        else match mode, s with
          | .rne, _ => sb + f.infBits
          | .rtz, _ => sb + maxRaw
          | .rdn, true => sb + f.infBits
          | .rdn, false => sb + maxRaw
          | .rup, true => sb + maxRaw
          | .rup, false => sb + f.infBits
      else sb + raw

/-- R36: encode an exact value into an IEEE layout; a NaN keeps sign and high payload, quieted. -/
def encodeFf (f : Ffmt) (mode : Rmode) (v : Fv) : Nat :=
  match v with
  | .nan s p =>
    (if s then f.signBit else 0) + f.infBits + ((p / 2 ^ (52 - f.mb)) % 2 ^ (f.mb - 1) + 2 ^ (f.mb - 1))
  | .inf s => (if s then f.signBit else 0) + f.infBits
  | .fin s m e => roundFf f (f.infBits - 1) false mode s m e

/-- R35: conversion into E4M3. -/
def encodeE4 (mode : Rmode) (v : Fv) : Nat :=
  match v with
  | .nan _ _ => 0x7F
  | .inf s => (if s then 0x80 else 0) + 0x7E
  | .fin s m e => roundFf fp8e4 0x7E true mode s m e

/-- R35: conversion into E5M2. -/
def encodeE5 (mode : Rmode) (v : Fv) : Nat :=
  match v with
  | .nan _ _ => 0x7E
  | .inf s => (if s then 0x80 else 0) + 0x7C
  | .fin s m e => roundFf fp8e5 0x7B true mode s m e

/-! ### LNS6 (R30–R33) -/

/-- R30: the significand table T, Q1.15. -/
def lnsT (f : Nat) : Nat :=
  match f with
  | 0 => 0x8000
  | 1 => 0x9838
  | 2 => 0xB505
  | _ => 0xD745

/-- R30, R32: T[f] × 2^(i − 15) for an exponent e in quarter octaves. -/
def lnsOfQuarter (s : Bool) (e : Int) : Fv :=
  .fin s (lnsT (e % 4).toNat) (e / 4 - 15)

/-- R30, R56 LNSLIN: the exact value of a 6-bit code. -/
def lnslin (c : Nat) : Fv :=
  let m := c % 32
  let s := (c / 32) % 2 == 1
  if m = 0 then (if s then .cnan else .zero)
  else lnsOfQuarter s ((m : Int) - 16)

/-- R32: the exact product of two LNS6 codes; a zero product takes its sign as IEEE 754-2019 gives it (R425). -/
def lnsMul (a b : Nat) : Fv :=
  let ma := a % 32
  let mb := b % 32
  let sa := (a / 32) % 2 == 1
  let sb := (b / 32) % 2 == 1
  if (ma = 0 ∧ sa) ∨ (mb = 0 ∧ sb) then .cnan
  else if ma = 0 ∨ mb = 0 then .fin (xor sa sb) 0 0
  else lnsOfQuarter (xor sa sb) (((ma : Int) - 16) + ((mb : Int) - 16))

/-- The magnitude of code m in units of 2^−19; code 0 is zero. -/
def lnsMag (m : Nat) : Nat :=
  if m = 0 then 0 else lnsT ((m + 0) % 4) * 2 ^ (m / 4)

/-- R33 step 2: how many codes a magnitude `x` (in units of 2^−20−k) climbs: above the midpoint, or at the
midpoint with an odd code below. -/
def lnsClimb (x k : Nat) : Nat → Nat
  | 0 => 0
  | n + 1 =>
    let mid := (lnsMag n + lnsMag (n + 1)) * 2 ^ k
    if x > mid ∨ (x = mid ∧ n % 2 = 1) then n + 1 else lnsClimb x k n

/-- R33: conversion into LNS6, the same in every rounding mode. -/
def encodeLns (v : Fv) : Nat :=
  match v with
  | .nan _ _ => 0x20
  | .inf s => (if s then 0x20 else 0) + 31
  | .fin s m e =>
    let top : Int := e + m.log2
    let code :=
      if m = 0 ∨ top < -8 then 0
      else if top > 8 then 31
      else
        let sh : Int := e + 20
        if sh ≥ 0 then lnsClimb (m * 2 ^ sh.toNat) 0 31
        else lnsClimb m (-sh).toNat 31
    if code = 0 then 0 else (if s then 0x20 else 0) + code

/-! ### The storage formats (R29) -/

/-- R29: the storage formats, in the order of their codes. -/
inductive Sfmt where
  | fp32 | fp16 | bf16 | e4m3 | e5m2 | lns6 | int32 | int16 | int8 | ui8 | ui32 | fp64 | int64
  deriving DecidableEq, Repr

/-- R29: the format of a 4-bit code; codes 0xD–0xF are reserved. -/
def Sfmt.ofCode (c : Nat) : Option Sfmt :=
  match c with
  | 0 => some .fp32
  | 1 => some .fp16
  | 2 => some .bf16
  | 3 => some .e4m3
  | 4 => some .e5m2
  | 5 => some .lns6
  | 6 => some .int32
  | 7 => some .int16
  | 8 => some .int8
  | 9 => some .ui8
  | 10 => some .ui32
  | 11 => some .fp64
  | 12 => some .int64
  | _ => none

/-- R29: the 4-bit code of a format. -/
def Sfmt.code (f : Sfmt) : Nat :=
  match f with
  | .fp32 => 0
  | .fp16 => 1
  | .bf16 => 2
  | .e4m3 => 3
  | .e5m2 => 4
  | .lns6 => 5
  | .int32 => 6
  | .int16 => 7
  | .int8 => 8
  | .ui8 => 9
  | .ui32 => 10
  | .fp64 => 11
  | .int64 => 12

/-- R29: bits per element. -/
def Sfmt.bits (f : Sfmt) : Nat :=
  match f with
  | .fp32 => 32
  | .fp16 => 16
  | .bf16 => 16
  | .e4m3 => 8
  | .e5m2 => 8
  | .lns6 => 6
  | .int32 => 32
  | .int16 => 16
  | .int8 => 8
  | .ui8 => 8
  | .ui32 => 32
  | .fp64 => 64
  | .int64 => 64

/-- Whether a format holds integers. -/
def Sfmt.isInt (f : Sfmt) : Bool :=
  match f with
  | .int32 | .int16 | .int8 | .ui8 | .ui32 | .int64 => true
  | _ => false

/-- Whether an integer format is signed. -/
def Sfmt.isSigned (f : Sfmt) : Bool :=
  match f with
  | .ui8 | .ui32 => false
  | _ => true

/-- R38, R41: the formats that may carry block scales. -/
def Sfmt.mayScale (f : Sfmt) : Bool :=
  match f with
  | .lns6 | .e4m3 | .e5m2 | .int8 => true
  | _ => false

/-- The value of raw bits read as a two's-complement integer of width w. -/
def intOfBits (w n : Nat) : Int :=
  let u := n % 2 ^ w
  if u ≥ 2 ^ (w - 1) then (u : Int) - 2 ^ w else u

/-- The low w bits of an integer. -/
def bitsOfInt (w : Nat) (i : Int) : Nat := (i % (2 ^ w : Int)).toNat

/-- An integer as an exact value. -/
def Fv.ofInt (i : Int) : Fv := .fin (decide (i < 0)) i.natAbs 0

/-- The smallest and the largest value of an integer type of width w. -/
def intLo (signed : Bool) (w : Nat) : Int := if signed then -(2 ^ (w - 1) : Int) else 0
def intHi (signed : Bool) (w : Nat) : Int := if signed then (2 ^ (w - 1) : Int) - 1 else (2 ^ w : Int) - 1

/-- Clamp to a range. -/
def clampInt (lo hi i : Int) : Int := if i < lo then lo else if i > hi then hi else i

/-- R37, R56 SAT: an exact value rounded to an integer under a mode, then clamped; NaN gives 0. -/
def Fv.toIntSat (mode : Rmode) (signed : Bool) (w : Nat) (v : Fv) : Int :=
  match v with
  | .nan _ _ => 0
  | .inf s => if s then intLo signed w else intHi signed w
  | .fin s m e =>
    let r : Int := roundMag mode s m e
    clampInt (intLo signed w) (intHi signed w) (if s then -r else r)

/-- R29–R37: the exact value of an element's own bits. -/
def decodeElem (f : Sfmt) (w : Nat) : Fv :=
  match f with
  | .fp32 => decodeFf Machine.fp32 w
  | .fp16 => decodeFf Machine.fp16 w
  | .bf16 => decodeFf Machine.bf16 w
  | .fp64 => decodeFf Machine.fp64 w
  | .e5m2 => decodeFf fp8e5 w
  | .e4m3 => decodeE4 w
  | .lns6 => lnslin w
  | .int32 => .ofInt (intOfBits 32 w)
  | .int16 => .ofInt (intOfBits 16 w)
  | .int8 => .ofInt (intOfBits 8 w)
  | .int64 => .ofInt (intOfBits 64 w)
  | .ui8 => .ofInt (w % 2 ^ 8 : Nat)
  | .ui32 => .ofInt (w % 2 ^ 32 : Nat)

/-- R33, R35, R36, R37: conversion of an exact value into a format under a mode. -/
def encodeElem (f : Sfmt) (mode : Rmode) (v : Fv) : Nat :=
  match f with
  | .fp32 => encodeFf Machine.fp32 mode v
  | .fp16 => encodeFf Machine.fp16 mode v
  | .bf16 => encodeFf Machine.bf16 mode v
  | .fp64 => encodeFf Machine.fp64 mode v
  | .e5m2 => encodeE5 mode v
  | .e4m3 => encodeE4 mode v
  | .lns6 => encodeLns v
  | .int32 => bitsOfInt 32 (v.toIntSat mode true 32)
  | .int16 => bitsOfInt 16 (v.toIntSat mode true 16)
  | .int8 => bitsOfInt 8 (v.toIntSat mode true 8)
  | .int64 => bitsOfInt 64 (v.toIntSat mode true 64)
  | .ui8 => bitsOfInt 8 (v.toIntSat mode false 8)
  | .ui32 => bitsOfInt 32 (v.toIntSat mode false 32)

/-- R56 RNEF: RNE into a format; E5M2 overflow gives an infinity and a NaN is canonical. -/
def rnef (f : Sfmt) (v : Fv) : Nat :=
  match f, v with
  | .e5m2, .fin s m e => roundFf fp8e5 0x7B false .rne s m e
  | .e5m2, .nan _ _ => 0x7E
  | .e4m3, .nan _ _ => 0x7F
  | .lns6, .nan _ _ => 0x20
  | .fp32, .nan _ _ => Machine.fp32.canonNan
  | .fp16, .nan _ _ => Machine.fp16.canonNan
  | .bf16, .nan _ _ => Machine.bf16.canonNan
  | .fp64, .nan _ _ => Machine.fp64.canonNan
  | f, v => encodeElem f .rne v

/-- R56 RNE32. -/
def rne32 (v : Fv) : Nat := rnef .fp32 v
/-- R56 RNE64. -/
def rne64 (v : Fv) : Nat := rnef .fp64 v

/-! ### Exact arithmetic on values -/

def Fv.neg (v : Fv) : Fv :=
  match v with
  | .fin s m e => .fin (!s) m e
  | .inf s => .inf (!s)
  | .nan s p => .nan s p

def Fv.abs (v : Fv) : Fv :=
  match v with
  | .fin _ m e => .fin false m e
  | .inf _ => .inf false
  | .nan s p => .nan s p

def Fv.isNan (v : Fv) : Bool :=
  match v with
  | .nan _ _ => true
  | _ => false

def Fv.isInf (v : Fv) : Bool :=
  match v with
  | .inf _ => true
  | _ => false

def Fv.isZero (v : Fv) : Bool :=
  match v with
  | .fin _ 0 _ => true
  | _ => false

def Fv.sign (v : Fv) : Bool :=
  match v with
  | .fin s _ _ => s
  | .inf s => s
  | .nan s _ => s

/-- A signed mantissa m × 2^e brought to exponent e0 ≤ e. -/
def alignTo (s : Bool) (m : Nat) (e e0 : Int) : Int :=
  let n : Int := (m * 2 ^ (e - e0).toNat : Nat)
  if s then -n else n

/-- The product; 0 × ∞ is the canonical NaN (R48), a zero product takes the sign of IEEE 754-2019. -/
def Fv.mul (a b : Fv) : Fv :=
  match a, b with
  | .nan s p, _ => .nan s p
  | _, .nan s p => .nan s p
  | .inf s, .inf t => .inf (xor s t)
  | .inf s, .fin t m _ => if m = 0 then .cnan else .inf (xor s t)
  | .fin t m _, .inf s => if m = 0 then .cnan else .inf (xor s t)
  | .fin s m e, .fin t n g => .fin (xor s t) (m * n) (e + g)

/-- R425, R48: the exact sum of two values, a zero sum signed for the rounding mode that follows. Equal zeros
keep their sign, as IEEE 754-2019 gives. -/
def Fv.add (mode : Rmode) (a b : Fv) : Fv :=
  match a, b with
  | .nan s p, _ => .nan s p
  | _, .nan s p => .nan s p
  | .inf s, .inf t => if s = t then .inf s else .cnan
  | .inf s, .fin _ _ _ => .inf s
  | .fin _ _ _, .inf s => .inf s
  | .fin s m e, .fin t n g =>
    if m = 0 ∧ n = 0 then .fin (if s = t then s else decide (mode = .rdn)) 0 0
    else if m = 0 then .fin t n g
    else if n = 0 then .fin s m e
    else
      let e0 := min e g
      let x := alignTo s m e e0 + alignTo t n g e0
      if x = 0 then .fin (decide (mode = .rdn)) 0 0 else .fin (decide (x < 0)) x.natAbs e0

/-- The smallest exponent among the nonzero finite terms. -/
def minExp (ts : List Fv) : Option Int :=
  ts.foldl (fun acc t =>
    match t, acc with
    | .fin _ (_ + 1) e, none => some e
    | .fin _ (_ + 1) e, some g => some (min e g)
    | _, acc => acc) none

/-- The exact sum of finite terms at a common exponent. -/
def sumAt (e0 : Int) (ts : List Fv) : Int :=
  ts.foldl (fun acc t =>
    match t with
    | .fin s m e => if m = 0 then acc else acc + alignTo s m e e0
    | _ => acc) 0

/-- R51: whether a term is a positive or a negative infinity. -/
def hasInf (neg : Bool) (ts : List Fv) : Bool := ts.any (fun t => decide (t = .inf neg))

/-- R425, R51: the exact sum of any number of terms, signed for the rounding that follows: a NaN term or
infinities of both signs give the canonical NaN; no terms give +0. Assumption log 19 (DEDUCED). -/
def sumTerms (mode : Rmode) (ts : List Fv) : Fv :=
  if ts.any Fv.isNan || (hasInf true ts && hasInf false ts) then .cnan
  else if hasInf true ts then .inf true
  else if hasInf false ts then .inf false
  else
    match minExp ts with
    | none =>
      -- every term is a zero
      if ts.isEmpty then .zero
      else if ts.all Fv.sign then .fin true 0 0
      else if ts.all (fun t => !t.sign) then .fin false 0 0
      else .fin (decide (mode = .rdn)) 0 0
    | some e0 =>
      let x := sumAt e0 ts
      if x = 0 then .fin (decide (mode = .rdn)) 0 0 else .fin (decide (x < 0)) x.natAbs e0

/-- The exact quotient, kept to 80 bits and a sticky bit. -/
def Fv.div (a b : Fv) : Fv :=
  match a, b with
  | .nan s p, _ => .nan s p
  | _, .nan s p => .nan s p
  | .inf _, .inf _ => .cnan
  | .inf s, .fin t _ _ => .inf (xor s t)
  | .fin s _ _, .inf t => .fin (xor s t) 0 0
  | .fin s m e, .fin t n g =>
    if n = 0 then (if m = 0 then .cnan else .inf (xor s t))
    else if m = 0 then .fin (xor s t) 0 0
    else
      let k := 80 + n.log2 - m.log2
      let q := m * 2 ^ k / n
      let r := m * 2 ^ k % n
      .fin (xor s t) (2 * q + (if r = 0 then 0 else 1)) (e - g - k - 1)

/-- The integer square root, bit by bit from bit k − 1 down. -/
def isqrtBits (n : Nat) : Nat → Nat → Nat
  | 0, r => r
  | k + 1, r => isqrtBits n k (if (r + 2 ^ k) * (r + 2 ^ k) ≤ n then r + 2 ^ k else r)

/-- ⌊√n⌋. -/
def isqrt (n : Nat) : Nat := isqrtBits n (n.log2 / 2 + 1) 0

/-- The exact square root, kept to 80 bits and a sticky bit; √(−0) = −0 and a negative gives NaN. -/
def Fv.sqrt (a : Fv) : Fv :=
  match a with
  | .nan s p => .nan s p
  | .inf s => if s then .cnan else .inf false
  | .fin s m e =>
    if m = 0 then .fin s 0 0
    else if s then .cnan
    else
      let odd := (e % 2).toNat
      let k := 160 - m.log2
      let k2 := k + k % 2
      let n := m * 2 ^ (odd + k2)
      let r := isqrt n
      .fin false (2 * r + (if r * r = n then 0 else 1)) ((e - odd - k2) / 2 - 1)

/-- Compare two values that are not NaN. -/
def Fv.cmp (a b : Fv) : Ordering :=
  match a, b with
  | .inf s, .inf t => if s = t then .eq else if s then .lt else .gt
  | .inf s, _ => if s then .lt else .gt
  | _, .inf t => if t then .gt else .lt
  | .fin s m e, .fin t n g =>
    if m = 0 ∧ n = 0 then .eq
    else
      let e0 := if m = 0 then g else if n = 0 then e else min e g
      let x := if m = 0 then 0 else alignTo s m e e0
      let y := if n = 0 then 0 else alignTo t n g e0
      compare x y
  | _, _ => .eq

/-! ### Operations on raw elements of one layout (R47, R48, R114, R141) -/

/-- Whether raw bits are a NaN of the layout. -/
def isNanRaw (f : Ffmt) (w : Nat) : Bool := decide (w % f.signBit > f.infBits)

/-- R48: a NaN operand quieted. -/
def quietRaw (f : Ffmt) (w : Nat) : Nat := w ||| 2 ^ (f.mb - 1)

/-- R48: the first NaN operand quieted, else the value encoded, a generated NaN canonical. -/
def nanFirst (f : Ffmt) (mode : Rmode) (ops : List Nat) (v : Fv) : Nat :=
  match ops.find? (isNanRaw f) with
  | some w => quietRaw f w
  | none => if v.isNan then f.canonNan else encodeFf f mode v

def fAdd (f : Ffmt) (mode : Rmode) (a b : Nat) : Nat :=
  nanFirst f mode [a, b] (Fv.add mode (decodeFf f a) (decodeFf f b))

def fSub (f : Ffmt) (mode : Rmode) (a b : Nat) : Nat :=
  nanFirst f mode [a, b] (Fv.add mode (decodeFf f a) (decodeFf f b).neg)

def fMul (f : Ffmt) (mode : Rmode) (a b : Nat) : Nat :=
  nanFirst f mode [a, b] (Fv.mul (decodeFf f a) (decodeFf f b))

/-- a × b + d with one rounding (R114 FMA, R141 VFMA). -/
def fFma (f : Ffmt) (mode : Rmode) (a b d : Nat) : Nat :=
  nanFirst f mode [a, b, d] (Fv.add mode (Fv.mul (decodeFf f a) (decodeFf f b)) (decodeFf f d))

/-- a × b − d with one rounding (R141 VFMS). -/
def fFms (f : Ffmt) (mode : Rmode) (a b d : Nat) : Nat :=
  nanFirst f mode [a, b, d] (Fv.add mode (Fv.mul (decodeFf f a) (decodeFf f b)) (decodeFf f d).neg)

def fDiv (f : Ffmt) (mode : Rmode) (a b : Nat) : Nat :=
  nanFirst f mode [a, b] (Fv.div (decodeFf f a) (decodeFf f b))

def fSqrt (f : Ffmt) (mode : Rmode) (a : Nat) : Nat :=
  nanFirst f mode [a] (Fv.sqrt (decodeFf f a))

/-- Raw bits of a layout as an order key in which −0 is below +0 (R47). -/
def orderKey (f : Ffmt) (w : Nat) : Int :=
  let m : Int := (w % f.signBit : Nat)
  if (w / f.signBit) % 2 = 1 then -m - 1 else m

/-- R47, R48: minimum, −0 below +0, NaN first operand quieted. -/
def fMin (f : Ffmt) (a b : Nat) : Nat :=
  if isNanRaw f a then quietRaw f a
  else if isNanRaw f b then quietRaw f b
  else if orderKey f a ≤ orderKey f b then a else b

def fMax (f : Ffmt) (a b : Nat) : Nat :=
  if isNanRaw f a then quietRaw f a
  else if isNanRaw f b then quietRaw f b
  else if orderKey f b ≤ orderKey f a then a else b

/-- R141 VABD: the exact |A − B| rounded by the mode. -/
def fAbd (f : Ffmt) (mode : Rmode) (a b : Nat) : Nat :=
  nanFirst f mode [a, b] (Fv.add mode (decodeFf f a) (decodeFf f b).neg).abs

/-- R115: the eight conditions of FCMP and of VCMP on f32; −0 equals +0. -/
def fCond (f : Ffmt) (cond a b : Nat) : Bool :=
  let un := isNanRaw f a || isNanRaw f b
  let c := Fv.cmp (decodeFf f a) (decodeFf f b)
  match cond with
  | 0 => !un && decide (c = .eq)
  | 1 => un || decide (c ≠ .eq)
  | 2 => !un && decide (c = .lt)
  | 3 => !un && decide (c ≠ .gt)
  | 4 => !un && decide (c = .gt)
  | 5 => !un && decide (c ≠ .lt)
  | 6 => un
  | _ => !un

/-- R116, R148, R36: conversion between two layouts. -/
def fConv (src dst : Ffmt) (mode : Rmode) (a : Nat) : Nat := encodeFf dst mode (decodeFf src a)

/-- R141 VROUND: an integral value in the same layout. -/
def fRound (f : Ffmt) (mode : Rmode) (a : Nat) : Nat :=
  if isNanRaw f a then quietRaw f a
  else
    match decodeFf f a with
    | .fin s m e =>
      if e ≥ 0 ∨ m = 0 then a
      else encodeFf f .rne (.fin s (roundShift mode s m (-e).toNat) 0)
    | _ => a

/-- R141 VSCALE: A × 2^n rounded by the mode. Beyond ±4,096 the result no longer changes. -/
def fScale (f : Ffmt) (mode : Rmode) (a : Nat) (n : Int) : Nat :=
  let n' := clampInt (-4096) 4096 n
  nanFirst f mode [a]
    (match decodeFf f a with
     | .fin s m e => .fin s m (e + n')
     | v => v)

/-- R144: the class of raw f32 bits, as the bit number of VCLASS's set. -/
def fClass (f : Ffmt) (w : Nat) : Nat :=
  let s := (w / f.signBit) % 2 == 1
  let m := w % f.signBit
  if m > f.infBits then (if (m / 2 ^ (f.mb - 1)) % 2 = 1 then 9 else 8)
  else if m = f.infBits then (if s then 0 else 7)
  else if m = 0 then (if s then 3 else 4)
  else if m < 2 ^ f.mb then (if s then 2 else 5)
  else (if s then 1 else 6)

/-! ### Block scales (R38, R42) -/

/-- R38: whether a scale entry decodes its group to NaN. -/
def scaleBad (sc : BitVec 16) : Bool := sc.msb || decide ((sc.toNat / 128) % 256 = 255)

/-- R38: an element's value times its scale entry. -/
def scaleVal (sc : BitVec 16) (v : Fv) : Fv :=
  if scaleBad sc then .cnan
  else if sc = 0 then .zero
  else Fv.mul v (decodeFf bf16 sc.toNat)

/-- R42: an unscaled value divided by sc0, exactly, for a scaled destination. -/
def unscaleVal (sc0 : BitVec 16) (v : Fv) : Fv :=
  if scaleBad sc0 || sc0 = 0 then .cnan else Fv.div v (decodeFf bf16 sc0.toNat)

/-! ### Stochastic rounding (R46), the mixer and uniforms (R54, R55) -/

/-- R46's targets: FP16, BF16, E4M3, E5M2 and LNS6. -/
inductive SrTarget where
  | fp16 | bf16 | e4m3 | e5m2 | lns6
  deriving DecidableEq, Repr

/-- The target's storage format. -/
def SrTarget.fmt (t : SrTarget) : Sfmt :=
  match t with
  | .fp16 => .fp16
  | .bf16 => .bf16
  | .e4m3 => .e4m3
  | .e5m2 => .e5m2
  | .lns6 => .lns6

/-- The raw magnitude code of the largest finite value of a target. -/
def SrTarget.maxCode (t : SrTarget) : Nat :=
  match t with
  | .fp16 => 0x7BFF
  | .bf16 => 0x7F7F
  | .e4m3 => 0x7E
  | .e5m2 => 0x7B
  | .lns6 => 31

/-- The largest magnitude code whose value is at or below |x|, by bisection over codes 0 to max. -/
def srFloor (t : SrTarget) (x : Fv) : Nat → Nat → Nat
  | 0, lo => lo
  | k + 1, lo =>
    let c := lo + 2 ^ k
    if c ≤ t.maxCode ∧ Fv.cmp (decodeElem t.fmt c) x ≠ .gt then srFloor t x k c else srFloor t x k lo

/-- R46: stochastic rounding of an FP32 value with noise n; the exact value of the result. -/
def srnd (t : SrTarget) (x : Fv) (n : Nat) : Fv :=
  match x with
  | .nan _ _ => .cnan
  | .inf s =>
    match t with
    | .fp16 | .bf16 | .e5m2 => .inf s
    | .e4m3 => decodeElem .e4m3 ((if s then 0x80 else 0) + 0x7E)
    | .lns6 => lnslin ((if s then 0x20 else 0) + 31)
  | .fin s _ _ =>
    let ax := x.abs
    let lc := srFloor t ax 16 0
    let lo := decodeElem t.fmt lc
    let mag :=
      if Fv.cmp lo ax = .eq ∨ lc = t.maxCode then lo
      else
        let hi := decodeElem t.fmt (lc + 1)
        -- n < frac × 2^32, that is n × (hi − lo) < (|x| − lo) × 2^32
        let gap := Fv.add .rne hi lo.neg
        let off := Fv.add .rne ax lo.neg
        if Fv.cmp (Fv.mul (.fin false n 0) gap) (Fv.mul off (.fin false 1 32)) = .lt then hi else lo
    match mag with
    | .fin _ m e => if m = 0 ∧ t = .lns6 then .zero else .fin s m e
    | v => v

/-- R54: the mixer on 32-bit values. -/
def vmix (x key : BitVec 32) : BitVec 32 :=
  let y := x ^^^ key
  let y := (y ^^^ (y >>> 16)) * 0x6B43A9B5#32
  let y := (y ^^^ (y >>> 13)) * 0xD9F17C37#32
  y ^^^ (y >>> 16)

/-- R55: the uniform drawn from a mixer value, as FP32 bits. -/
def uniformOf (y : BitVec 32) : Nat :=
  encodeFf fp32 .rtz (.fin false (2 * (y >>> 8).toNat + 1) (-25))

end Sys2Proof.Machine
end

