-- ==== Sys2Proof/Machine/Fmath.lean ====
section
/-! DEFINITION. The special functions of spec/06 R152, correctly rounded: the exact value is bracketed to more
than 200 binary places by integer arithmetic and rounded once. A result that is not exactly representable carries
a sticky last bit, so the one rounding that follows is that of the exact function value. -/

set_option Elab.async false

namespace Sys2Proof.Machine

/-- ⌊ln 2 × 2^256⌋. -/
def ln2Fix : Nat := 80260960185991308862233904206310070533990667611589946606122867505419956976171

/-- The terms y^k ÷ k! of the exponential series from term k on, at 256 binary places. -/
def expSeries (y : Nat) : Nat → Nat → Nat → Nat
  | 0, _, _ => 0
  | n + 1, k, term => term + expSeries y n (k + 1) (term * y / 2 ^ 256 / (k + 1))

/-- ⌊2^f × 2^256⌋ to within 2^−240, for f = x ÷ 2^256 in [0, 1). -/
def exp2Frac (x : Nat) : Nat := expSeries (x * ln2Fix / 2 ^ 256) 64 0 (2 ^ 256)

/-- 2^v as an exact value with a sticky bit; exact for an integral v (R152). -/
def Fv.exp2 (v : Fv) : Fv :=
  match v with
  | .nan s p => .nan s p
  | .inf s => if s then .zero else .inf false
  | .fin s m e =>
    if m = 0 then .one
    else if e + m.log2 ≥ 14 then (if s then .fin false 1 (-16384) else .fin false 1 16384)
    else if e ≥ 0 then .fin false 1 (alignTo s m e 0)
    else if e + m.log2 < -250 then .fin false (2 ^ 252 + (if s then 0 else 1) * 2 - 1) (-252)
    else
      let d := (-e).toNat
      -- v × 2^256, floored, with the part below kept in the sticky bit
      let x : Int := if d ≤ 256 then alignTo s m 0 0 * 2 ^ (256 - d) else alignTo s m 0 0 / 2 ^ (d - 256)
      let i := x / 2 ^ 256
      let f := (x % 2 ^ 256).toNat
      let exact : Bool := f = 0 ∧ m % 2 ^ d = 0
      if exact then .fin false 1 i else .fin false (2 * exp2Frac f + 1) (i - 257)

/-- The terms t^(2k+1) ÷ (2k + 1) of the inverse hyperbolic tangent from term k on, at 256 binary places. -/
def atanhSeries (t2 : Nat) : Nat → Nat → Nat → Nat
  | 0, _, _ => 0
  | n + 1, k, term => term / (2 * k + 1) + atanhSeries t2 n (k + 1) (term * t2 / 2 ^ 256)

/-- log2 of z = n ÷ 2^b in [1, 2), at 256 binary places. -/
def log2Frac (n b : Nat) : Nat :=
  let t := (n - 2 ^ b) * 2 ^ 256 / (n + 2 ^ b)
  let l := 2 * atanhSeries (t * t / 2 ^ 256) 84 0 t
  l * 2 ^ 256 / ln2Fix

/-- log2 v as an exact value with a sticky bit; exact for a power of two (R152). -/
def Fv.logTwo (v : Fv) : Fv :=
  match v with
  | .nan s p => .nan s p
  | .inf s => if s then .cnan else .inf false
  | .fin s m e =>
    if m = 0 then .inf true
    else if s then .cnan
    else
      let b := m.log2
      let i : Int := e + b
      if m = 2 ^ b then .ofInt i
      else
        let x : Int := i * 2 ^ 256 + log2Frac m b
        -- x is floored, so a negative value lies between x and x + 1
        if x < 0 then .fin true (2 * (x.natAbs - 1) + 1) (-257) else .fin false (2 * x.natAbs + 1) (-257)

/-- 1 ÷ v (R152). -/
def Fv.rcp (v : Fv) : Fv := Fv.div .one v

/-- 1 ÷ √v: the square root of the reciprocal of the mantissa, to 80 bits and a sticky bit (R152). -/
def Fv.rsq (v : Fv) : Fv :=
  match v with
  | .nan s p => .nan s p
  | .inf s => if s then .cnan else .zero
  | .fin s m e =>
    if m = 0 then .inf s
    else if s then .cnan
    else
      let odd := (e % 2).toNat
      let m' := m * 2 ^ odd
      let k := 100 + m'.log2 / 2 + 1
      let n := 2 ^ (2 * k)
      let q := n / m'
      let r := isqrt q
      .fin false (2 * r + (if n % m' = 0 ∧ r * r = q then 0 else 1)) (-((e - odd) / 2) - k - 1)

/-- R152: a unary function of a value on raw bits of a layout, rounded by RNE; a NaN operand is quieted. -/
def fUnary (f : Ffmt) (g : Fv → Fv) (a : Nat) : Nat := nanFirst f .rne [a] (g (decodeFf f a))

end Sys2Proof.Machine
end

