-- ==== Sys2Proof/Machine/VecFn.lean ====
section
/-! DEFINITION. What the vector operations compute on whole vectors (spec/06 R139–R160, spec/02 R52–R54), with
no state: elements are numbered as LANE of R56 numbers them, and every operation answers all 128 lanes, of which
the mask then selects those written. -/

set_option Elab.async false

namespace Sys2Proof.Machine

/-- Lane `i` of a vector (R56 LANE). -/
def vlane (v : Vec) (i : Nat) : Nat := v.toNat / 2 ^ (32 * i) % 2 ^ 32

/-- Element `e` of width `w` of a vector (R56): the element numbers run through the lanes in order. -/
def velem (v : Vec) (w e : Nat) : Nat := v.toNat / 2 ^ (w * e) % 2 ^ w

/-- The number made of n elements of width w. -/
def packElems (w : Nat) (f : Nat → Nat) : Nat → Nat
  | 0 => 0
  | n + 1 => packElems w f n + f n % 2 ^ w * 2 ^ (w * n)

/-- The vector whose element e of width w is f e. -/
def vecOfElems (w : Nat) (f : Nat → Nat) : Vec := BitVec.ofNat 4096 (packElems w f (4096 / w))

/-- The vector whose lane i is f i. -/
def vecOfLanes (f : Nat → Nat) : Vec := vecOfElems 32 f

/-- Lane i from `a` where the mask bit is 1, else from `b`. -/
def vecSelect (m : LaneMask) (a b : Vec) : Vec :=
  vecOfLanes (fun i => if m.getLsbD i then vlane a i else vlane b i)

/-- All 128 lanes (k0, R137). -/
def allLanes : LaneMask := BitVec.allOnes 128

/-- A mask from a test on lane numbers. -/
def maskOf (f : Nat → Bool) : LaneMask := BitVec.ofNat 128 (packElems 1 (fun i => (f i).toNat) 128)

/-- The vector element types of R73, in the order of their codes. -/
inductive VT where
  | f32 | f16 | b16 | i32 | i16 | i8 | ui32 | ui8
  deriving DecidableEq, Repr

/-- R73. -/
def vtOfCode (c : BitVec 3) : VT :=
  match c.toNat with
  | 0 => .f32
  | 1 => .f16
  | 2 => .b16
  | 3 => .i32
  | 4 => .i16
  | 5 => .i8
  | 6 => .ui32
  | _ => .ui8

/-- Element width in bits. -/
def VT.w (t : VT) : Nat :=
  match t with
  | .f32 | .i32 | .ui32 => 32
  | .f16 | .b16 | .i16 => 16
  | .i8 | .ui8 => 8

/-- Elements per lane. -/
def VT.k (t : VT) : Nat := 32 / t.w

/-- The set F of R140. -/
def VT.isF (t : VT) : Bool :=
  match t with
  | .f32 | .f16 | .b16 => true
  | _ => false

/-- The set I of R140. -/
def VT.isI (t : VT) : Bool :=
  match t with
  | .i32 | .i16 | .i8 => true
  | _ => false

/-- The set U of R140. -/
def VT.isU (t : VT) : Bool :=
  match t with
  | .ui32 | .ui8 => true
  | _ => false

/-- The layout of a floating-point type. -/
def VT.ff (t : VT) : Ffmt :=
  match t with
  | .f16 => fp16
  | .b16 => bf16
  | _ => fp32

/-- The integer value of an element. -/
def VT.int (t : VT) (n : Nat) : Int := if t.isI then intOfBits t.w n else (n % 2 ^ t.w : Nat)

/-- R139: wrap (S = 0) or saturate (S = 1) an exact integer into a type. -/
def VT.fit (t : VT) (sat : Bool) (i : Int) : Nat :=
  bitsOfInt t.w (if sat then clampInt (intLo t.isI t.w) (intHi t.isI t.w) i else i)

/-- R139: an element-wise operation. -/
def elementwise (t : VT) (op : Nat → Nat → Nat → Nat) (a b d : Vec) : Vec :=
  vecOfElems t.w (fun e => op (velem a t.w e) (velem b t.w e) (velem d t.w e))

/-- R72: one element of a 12-bit immediate. -/
def immElem (t : VT) (imm : BitVec 12) : Nat :=
  match t with
  | .f32 => imm.toNat * 2 ^ 20
  | .f16 | .b16 => imm.toNat * 2 ^ 4
  | .i32 | .i16 => bitsOfInt t.w imm.toInt
  | .ui32 => imm.toNat
  | .i8 | .ui8 => imm.toNat % 256

/-- R72: a scalar or an immediate element replicated into every element of width w. -/
def splat (w n : Nat) : Vec := vecOfElems w (fun _ => n)

/-! ### Arithmetic (R141) -/

def eAdd (t : VT) (s : Bool) (m : Rmode) (a b _d : Nat) : Nat :=
  if t.isF then fAdd t.ff m a b else t.fit s (t.int a + t.int b)

def eSub (t : VT) (s : Bool) (m : Rmode) (a b _d : Nat) : Nat :=
  if t.isF then fSub t.ff m a b else t.fit s (t.int a - t.int b)

def eMul (t : VT) (s : Bool) (m : Rmode) (a b _d : Nat) : Nat :=
  if t.isF then fMul t.ff m a b else t.fit s (t.int a * t.int b)

def eFma (t : VT) (m : Rmode) (a b d : Nat) : Nat := fFma t.ff m a b d

def eFms (t : VT) (m : Rmode) (a b d : Nat) : Nat := fFms t.ff m a b d

def eMin (t : VT) (a b _d : Nat) : Nat :=
  if t.isF then fMin t.ff a b else if t.int a ≤ t.int b then a else b

def eMax (t : VT) (a b _d : Nat) : Nat :=
  if t.isF then fMax t.ff a b else if t.int b ≤ t.int a then a else b

/-- VABS: the sign bit cleared, a NaN kept; integers by |A|. -/
def eAbs (t : VT) (s : Bool) (a _b _d : Nat) : Nat :=
  if t.isF then a % t.ff.signBit else t.fit s (t.int a).natAbs

/-- VNEG: the sign bit inverted, a NaN kept; integers by 0 − A. -/
def eNeg (t : VT) (s : Bool) (a _b _d : Nat) : Nat :=
  if t.isF then a ^^^ t.ff.signBit else t.fit s (-(t.int a))

/-- VABD: |A − B|; with S = 1 it saturates to the unsigned range. -/
def eAbd (t : VT) (s : Bool) (m : Rmode) (a b _d : Nat) : Nat :=
  if t.isF then fAbd t.ff m a b
  else
    let x := (t.int a - t.int b).natAbs
    if s then min x (2 ^ t.w - 1) else x % 2 ^ t.w

def eMulh (t : VT) (a b _d : Nat) : Nat := bitsOfInt t.w (t.int a * t.int b / 2 ^ t.w)

/-- VCLAMP: VMIN(VMAX(D, A), B); of several NaN operands the nesting keeps D's, then A's. Assumption log 82 (DEDUCED). -/
def eClamp (t : VT) (a b d : Nat) : Nat := eMin t (eMax t d a d) b d

/-- VSCALE: A × 2^n, n the signed integer B of the element's width. -/
def eScale (t : VT) (m : Rmode) (a b _d : Nat) : Nat := fScale t.ff m a (intOfBits t.w b)

def eRound (t : VT) (m : Rmode) (a _b _d : Nat) : Nat := fRound t.ff m a

/-- VCPSGN: A's magnitude with the sign that the mode calls for. -/
def eCpsgn (t : VT) (mode : Nat) (a b _d : Nat) : Nat :=
  let sb := t.ff.signBit
  let sa := (a / sb) % 2
  let sB := (b / sb) % 2
  let s := match mode with
    | 0 => sB
    | 1 => 1 - sB
    | _ => (sa + sB) % 2
  a % sb + s * sb

/-! ### Logic, shifts and bit counts (R142) -/

def eShl (t : VT) (a b _d : Nat) : Nat := if b ≥ t.w then 0 else a * 2 ^ b % 2 ^ t.w

def eShr (t : VT) (a b _d : Nat) : Nat :=
  if t.isI then bitsOfInt t.w (t.int a / 2 ^ (min b t.w))
  else if b ≥ t.w then 0 else a / 2 ^ b

/-- The number of one bits among the low n bits. -/
def popBits (a : Nat) : Nat → Nat
  | 0 => 0
  | n + 1 => popBits a n + (a / 2 ^ n % 2)

/-- The lowest set bit at or above position p, or p + n when none of n positions is set. -/
def lowBit (a : Nat) (p : Nat) : Nat → Nat
  | 0 => p
  | n + 1 => if (a / 2 ^ p) % 2 = 1 then p else lowBit a (p + 1) n

/-- The low n bits in reverse order. -/
def revBits (a : Nat) : Nat → Nat
  | 0 => 0
  | n + 1 => (a % 2) * 2 ^ n + revBits (a / 2) n

/-- The leading zeros of a value of n bits. -/
def clzBits (a n : Nat) : Nat := lowBit (revBits a n) 0 n

/-- R142 VBITC, R113 BITC: population count, leading zeros, trailing zeros, reversal of a w-bit value. -/
def bitCount (op w a : Nat) : Nat :=
  match op with
  | 0 => popBits a w
  | 1 => clzBits a w
  | 2 => lowBit a 0 w
  | _ => revBits a w

/-! ### Compare and classify (R143, R144) -/

def cmpInt (cond : Nat) (a b : Int) : Bool :=
  match cond with
  | 0 => decide (a = b)
  | 1 => decide (a ≠ b)
  | 2 => decide (a < b)
  | 3 => decide (a ≤ b)
  | 4 => decide (b < a)
  | _ => decide (b ≤ a)

/-- VCMP's bit for one lane. -/
def eCmp (t : VT) (cond a b : Nat) : Bool :=
  if t.isF then fCond fp32 cond a b else cmpInt cond (t.int a) (t.int b)

def vcmpMask (t : VT) (cond : Nat) (a b : Vec) : LaneMask :=
  maskOf (fun i => eCmp t cond (vlane a i) (vlane b i))

def vclassMask (set : Nat) (a : Vec) : LaneMask :=
  maskOf (fun i => (set / 2 ^ fClass fp32 (vlane a i)) % 2 == 1)

/-- R143: the write mask of a mask result: unselected bits keep their value, or become 0 under zeroing. -/
def maskMerge (sel : LaneMask) (z : Bool) (new old : LaneMask) : LaneMask :=
  (new &&& sel) ||| (if z then 0 else old &&& ~~~ sel)

/-- KLOG (R146). -/
def klogOp (op : Nat) (a b : LaneMask) : LaneMask :=
  match op with
  | 0 => a &&& b
  | 1 => a ||| b
  | 2 => a ^^^ b
  | 3 => a &&& ~~~ b
  | _ => ~~~ a

/-- KPOP (R146): a count, the lowest or the highest set lane, −1 when none is set. -/
def kpopOp (op : Nat) (a : LaneMask) : Word :=
  match op with
  | 0 => BitVec.ofNat 64 (popBits a.toNat 128)
  | 1 => if a = 0 then -1 else BitVec.ofNat 64 (lowBit a.toNat 0 128)
  | _ => if a = 0 then -1 else BitVec.ofNat 64 a.toNat.log2

/-- VIOTA (R147): the set bits of the mask below each lane. -/
def viota (k : LaneMask) : Vec := vecOfLanes (fun i => popBits k.toNat i)

/-! ### Conversions (R148–R151) -/

/-- R148: the value of an element of a vector type. -/
def VT.val (t : VT) (n : Nat) : Fv := if t.isF then decodeFf t.ff n else .ofInt (t.int n)

/-- R148: one element converted between two vector types with the same elements per lane. -/
def eCvt (src dst : VT) (m : Rmode) (a : Nat) : Nat :=
  if dst.isF then encodeFf dst.ff m (src.val a)
  else bitsOfInt dst.w ((src.val a).toIntSat m dst.isI dst.w)

/-- R148: the legal pairs. -/
def cvtLegal (src dst : VT) : Bool := decide (src ≠ dst) && decide (src.w = dst.w)

def vcvt (src dst : VT) (m : Rmode) (a : Vec) : Vec :=
  vecOfElems dst.w (fun e => eCvt src dst m (velem a dst.w e))

/-- R149: the legal forms of VPACK: destination type, kind and H. -/
def packLegal (t : VT) (kind : Nat) (h : Bool) : Bool :=
  match t, kind with
  | .f16, 0 | .b16, 0 | .i16, 0 => !h
  | .i8, 0 => true
  | .ui8, _ => true
  | _, _ => false

/-- R149: the type of VPACK's sources. -/
def packSrc (t : VT) (kind : Nat) : VT :=
  match t, kind with
  | .i16, _ => .i32
  | .i8, _ => .i32
  | .ui8, 0 => .i32
  | _, _ => .f32

/-- R149: the conversion of one source lane. Assumption log 24 (DEDUCED). -/
def packConv (t : VT) (kind : Nat) (m : Rmode) (x : Nat) : Nat :=
  match kind with
  | 0 =>
    match t with
    | .f16 | .b16 => encodeFf t.ff m (decodeFf fp32 x)
    | _ => bitsOfInt t.w (clampInt (intLo t.isI t.w) (intHi t.isI t.w) (intOfBits 32 x))
  | 1 => encodeE4 m (decodeFf fp32 x)
  | 2 => encodeE5 m (decodeFf fp32 x)
  | _ => encodeLns (decodeFf fp32 x)

/-- R149: one lane of VPACK, with the kept elements of `d`. -/
def packLane (t : VT) (kind : Nat) (h : Bool) (m : Rmode) (a b d : Nat) : Nat :=
  let x := packConv t kind m a
  let y := packConv t kind m b
  let w := if kind = 3 then 6 else t.w
  if w = 16 then x + y * 2 ^ 16
  else
    let j := if h then 2 else 0
    let kept := fun i => d / 2 ^ (w * i) % 2 ^ w
    packElems w (fun i => if i = j then x else if i = j + 1 then y else kept i) 4

def vpack (t : VT) (kind : Nat) (h : Bool) (m : Rmode) (a b d : Vec) : Vec :=
  vecOfLanes (fun i => packLane t kind h m (vlane a i) (vlane b i) (vlane d i))

/-- R150: the legal forms of VUNPK. -/
def unpkLegal (t : VT) (kind j : Nat) : Bool :=
  (decide (kind ≥ 3) || decide (j < 2)) &&
  (match kind with
   | 2 | 3 => decide (t = .f32) || decide (t = .i32)
   | 4 => decide (t = .f32) || decide (t = .i32) || decide (t = .ui32)
   | _ => decide (t = .f32))

/-- R150: the exact value of element j of a lane under a source kind. -/
def unpkVal (kind j lane : Nat) : Fv :=
  match kind with
  | 0 => decodeFf fp16 (lane / 2 ^ (16 * j) % 2 ^ 16)
  | 1 => decodeFf bf16 (lane / 2 ^ (16 * j) % 2 ^ 16)
  | 2 => .ofInt (intOfBits 16 (lane / 2 ^ (16 * j)))
  | 3 => .ofInt (intOfBits 8 (lane / 2 ^ (8 * j)))
  | 4 => .ofInt (lane / 2 ^ (8 * j) % 256 : Nat)
  | 5 => decodeE4 (lane / 2 ^ (8 * j) % 256)
  | 6 => decodeFf fp8e5 (lane / 2 ^ (8 * j) % 256)
  | _ => lnslin (lane / 2 ^ (6 * j) % 64)

def vunpk (t : VT) (kind j : Nat) (a : Vec) : Vec :=
  vecOfLanes (fun i =>
    let v := unpkVal kind j (vlane a i)
    if t.isF then encodeFf fp32 .rne v else bitsOfInt 32 (v.toIntSat .rne t.isI 32))

/-- R151: the stochastic targets by modifier code. -/
def srTargetOf (n : Nat) : SrTarget :=
  match n with
  | 0 => .fp16
  | 1 => .bf16
  | 2 => .e4m3
  | 3 => .e5m2
  | _ => .lns6

def vsrnd (t : SrTarget) (a noise : Vec) : Vec :=
  vecOfLanes (fun i => encodeFf fp32 .rne (srnd t (decodeFf fp32 (vlane a i)) (vlane noise i)))

/-! ### Reductions and prefixes (R52, R53, R153–R155) -/

/-- R52: the tree of one lane group, then the groups in order. -/
def reduceTree (op : Nat → Nat → Nat) (x : Nat → Nat) : Nat :=
  let t1 := fun i => op (x (2 * i)) (x (2 * i + 1))
  let t2 := fun i => op (t1 (2 * i)) (t1 (2 * i + 1))
  let t3 := fun i => op (t2 (2 * i)) (t2 (2 * i + 1))
  let g := fun i => op (t3 (2 * i)) (t3 (2 * i + 1))
  (List.range 7).foldl (fun acc i => op acc (g (i + 1))) (g 0)

/-- The FP32 value of a packed floating-point element, exactly. -/
def toF32 (t : VT) (n : Nat) : Nat := encodeFf fp32 .rne (decodeFf t.ff n)

/-- R52: one lane's contribution to VREDSUM on a floating-point type. -/
def redsumLane (t : VT) (m : LaneMask) (a : Vec) (i : Nat) : Nat :=
  if m.getLsbD i then
    (if t.k = 1 then vlane a i
     else fAdd fp32 .rne (toF32 t (velem a 16 (2 * i))) (toF32 t (velem a 16 (2 * i + 1))))
  else 0x80000000

/-- The exact integer sum of the selected lanes' elements. -/
def redsumInt (t : VT) (m : LaneMask) (a : Vec) : Int :=
  (List.range (128 * t.k)).foldl
    (fun acc e => if m.getLsbD (e / t.k) then acc + t.int (velem a t.w e) else acc) 0

/-- VREDSUM's result, written to every lane. -/
def vredsum (t : VT) (m : LaneMask) (a : Vec) : Nat :=
  if t.isF then
    reduceTree (fun x y => fAdd fp32 .rne x y) (redsumLane t m a)
  else bitsOfInt 32 (clampInt (-(2 ^ 31)) (2 ^ 31 - 1) (redsumInt t m a))

/-- An element widened exactly to the 32-bit result type of VREDMAX and VREDMIN: f32, i32 or ui32. -/
def widen32 (t : VT) (n : Nat) : Nat := if t.isF then toF32 t n else bitsOfInt 32 (t.int n)

/-- The 32-bit result type of a reduction. -/
def redType (t : VT) : VT := if t.isF then .f32 else if t.isI then .i32 else .ui32

/-- The identity of VREDMAX or VREDMIN: ∓∞, or the type's minimum or maximum. -/
def redIdent (t : VT) (isMax : Bool) : Nat :=
  if t.isF then (if isMax then 0xFF800000 else 0x7F800000)
  else bitsOfInt 32 (if isMax then intLo t.isI t.w else intHi t.isI t.w)

/-- VREDMAX's or VREDMIN's result. -/
def vredmm (t : VT) (isMax : Bool) (m : LaneMask) (a : Vec) : Nat :=
  let op := fun x y => if isMax then eMax t x y 0 else eMin t x y 0
  let op32 := fun x y => if isMax then eMax (redType t) x y 0 else eMin (redType t) x y 0
  let laneVal := fun i =>
    if m.getLsbD i then
      widen32 t ((List.range (t.k - 1)).foldl (fun acc j => op acc (velem a t.w (t.k * i + j + 1)))
        (velem a t.w (t.k * i)))
    else redIdent t isMax
  reduceTree op32 laneVal

/-- The best candidate of VMAXIDX so far: lane, value, key. -/
structure MaxIdx where
  idx : Nat
  val : Nat
  key : Nat
  deriving DecidableEq, Repr

/-- Whether value x is above y, for VMAXIDX (−0 below +0, no NaN left). -/
def maxAbove (t : VT) (x y : Nat) : Bool :=
  if t.isF then decide (orderKey fp32 y < orderKey fp32 x) else decide (t.int y < t.int x)

/-- R154: one lane of the scan for the best. -/
def maxIdxStep (t : VT) (m : LaneMask) (a keys : Vec) (best : Option MaxIdx) (i : Nat) : Option MaxIdx :=
  if m.getLsbD i then
    let raw := vlane a i
    let v := if t.isF && isNanRaw fp32 raw then 0xFF800000 else raw
    let k := vlane keys i
    match best with
    | none => some ⟨i, v, k⟩
    | some b => if maxAbove t v b.val || (decide (v = b.val) && decide (k < b.key)) then some ⟨i, v, k⟩ else some b
  else best

/-- R154: whether every selected lane of an f32 vector is NaN (or none is selected). -/
def allNan (m : LaneMask) (a : Vec) : Bool :=
  (List.range 128).all (fun i => !m.getLsbD i || isNanRaw fp32 (vlane a i))

/-- R154 VMAXIDX. Assumption log 25 (DEDUCED). -/
def vmaxidx (t : VT) (m : LaneMask) (a keys : Vec) : Vec :=
  let best := (List.range 128).foldl (maxIdxStep t m a keys) none
  let noneVal := if t.isF then 0x7FC00000 else bitsOfInt 32 (intLo t.isI 32)
  match best with
  | none => vecOfLanes (fun i => if i = 0 then noneVal else if i = 1 then 0xFFFFFFFF else 0)
  | some b =>
    if t.isF && allNan m a then
      vecOfLanes (fun i => if i = 0 then noneVal else if i = 1 then 0xFFFFFFFF else 0)
    else vecOfLanes (fun i => if i = 0 then b.val else if i = 1 then b.idx else if i = 2 then b.key else 0)

/-- R155: one addition of VPREFIX. -/
def prefixAdd (t : VT) (x y : Nat) : Nat :=
  if t.isF then fAdd t.ff .rne x y else (x + y) % 2 ^ t.w

/-- R155: the contribution of element e: −0 or 0 when its lane is not selected. -/
def prefixTerm (t : VT) (m : LaneMask) (a : Vec) (e : Nat) : Nat :=
  if m.getLsbD (e / t.k) then velem a t.w e else if t.isF then t.ff.signBit else 0

/-- R53, R155: the inclusive prefixes of n elements from element e on, packed: the running sum is `acc`. -/
def prefixPack (t : VT) (m : LaneMask) (a : Vec) (acc e : Nat) : Nat → Nat
  | 0 => 0
  | n + 1 =>
    let p := if e = 0 then prefixTerm t m a 0 else prefixAdd t acc (prefixTerm t m a e)
    p * 2 ^ (t.w * e) + prefixPack t m a p (e + 1) n

def vprefix (t : VT) (m : LaneMask) (a : Vec) : Vec :=
  BitVec.ofNat 4096 (prefixPack t m a 0 0 (4096 / t.w))

/-! ### Moving lanes and elements (R156–R158) -/

def vperm (a idx : Vec) : Vec := vecOfLanes (fun l => vlane a (l / 16 * 16 + vlane idx l % 16))

def vbcast (a : Vec) (n : Nat) : Vec := vecOfLanes (fun l => vlane a (l / 16 * 16 + n % 16))

/-- R156 VSLIDE: up, down or rotate within each lane group. -/
def vslide (mode : Nat) (a : Vec) (n : Nat) : Vec :=
  vecOfLanes (fun l =>
    let g := l / 16 * 16
    let i := l % 16
    match mode with
    | 0 => if i ≥ n then vlane a (g + (i - n)) else 0
    | 1 => if i + n < 16 then vlane a (g + i + n) else 0
    | _ => vlane a (g + (i + 16 - n % 16) % 16))

/-- R157 VXGRP: rotate, exclusive-or or broadcast of lane groups. -/
def vxgrp (mode : Nat) (a : Vec) (n : Nat) : Vec :=
  vecOfLanes (fun l =>
    let g := l / 16
    let src := match mode with
      | 0 => (g + 8 - n % 8) % 8
      | 1 => g ^^^ (n % 8)
      | _ => n % 8
    vlane a (src * 16 + l % 16))

/-- R158 VEXT: element x, sign-extended for I; 0 beyond the vector. -/
def vext (t : VT) (a : Vec) (x : Nat) : Word :=
  if x ≥ 128 * t.k then 0
  else if t.isI then BitVec.ofInt 64 (t.int (velem a t.w x)) else BitVec.ofNat 64 (velem a t.w x)

/-! ### Mixing, dot products, tables, finiteness (R159, R160) -/

def vmixAll (a b : Vec) : Vec :=
  vecOfLanes (fun i => (vmix (BitVec.ofNat 32 (vlane a i)) (BitVec.ofNat 32 (vlane b i))).toNat)

/-- R159: the first NaN of VDOT4's order: each element's va before vb, D last; widened to f32 and quieted. -/
def dotNan (t : VT) (xs : List (Nat × Nat)) (d : Nat) : Option Nat :=
  match xs with
  | [] => if isNanRaw fp32 d then some (quietRaw fp32 d) else none
  | (a, b) :: rest =>
    if isNanRaw t.ff a then some (toF32 t a)
    else if isNanRaw t.ff b then some (toF32 t b)
    else dotNan t rest d

/-- R159 VDOT4 on one lane. -/
def dotLane (t : VT) (sat : Bool) (m : Rmode) (xs : List (Nat × Nat)) (d : Nat) : Nat :=
  if t.isF then
    match dotNan t xs d with
    | some w => w
    | none =>
      let v := sumTerms m (decodeFf fp32 d :: xs.map (fun p => Fv.mul (decodeFf t.ff p.1) (decodeFf t.ff p.2)))
      if v.isNan then fp32.canonNan else encodeFf fp32 m v
  else
    let r : VT := if t.isI then .i32 else .ui32
    r.fit sat (r.int d + (xs.map (fun p => t.int p.1 * t.int p.2)).sum)

def vdot4 (t : VT) (sat : Bool) (m : Rmode) (a b d : Vec) : Vec :=
  vecOfLanes (fun i =>
    dotLane t sat m
      ((List.range t.k).map (fun j => (velem a t.w (t.k * i + j), velem b t.w (t.k * i + j)))) (vlane d i))

def eMadi (t : VT) (sat : Bool) (a b d : Nat) : Nat := t.fit sat (t.int d + t.int a * t.int b)

/-- R159 VLUT: each byte of va looks up a byte of vector vb, in its half H. -/
def vlut (h : Bool) (a b : Vec) : Vec :=
  vecOfElems 8 (fun e => velem b 8 ((if h then 256 else 0) + velem a 8 e))

/-- Whether raw bits are a NaN or an infinity. -/
def nonFinite (f : Ffmt) (w : Nat) : Bool := decide (w % f.signBit ≥ f.infBits)

/-- R160: the element written by VFIN. -/
def eFin (t : VT) (clean : Bool) (a _b _d : Nat) : Nat := if clean && nonFinite t.ff a then 0 else a

/-- R160: the status bits NAN, PINF, NINF that the selected lanes' elements call for. -/
def vfinBits (t : VT) (m : LaneMask) (a : Vec) : BitVec 3 :=
  (List.range (128 * t.k)).foldl
    (fun acc e =>
      let x := velem a t.w e
      if m.getLsbD (e / t.k) && nonFinite t.ff x then
        acc ||| (if isNanRaw t.ff x then 1#3 else if x ≥ t.ff.signBit then 4#3 else 2#3)
      else acc) 0

end Sys2Proof.Machine
end

