-- ==== Sys2Proof/Machine/Ops.lean ====
section
/-! DEFINITION. The shared operations over the state: the units by number, the registers of a context, results that
land within a bound, tokens, taking a fault and resuming from one. -/

set_option Elab.async false

namespace Sys2Proof.Machine

/-! ### The units by number -/

/-- R9: the cluster of a core, its local number, and its die. -/
def clusterOf (c : Nat) : Nat := c / 8
def localOf (c : Nat) : Nat := c % 8
def dieOf (c : Nat) : Nat := c / 32

def State.core (s : State) (c : Nat) : Core := Tab.get s.cores c Core.reset
def State.setCore (s : State) (c : Nat) (v : Core) : State := { s with cores := Tab.put s.cores c v }
def State.modCore (s : State) (c : Nat) (f : Core → Core) : State := s.setCore c (f (s.core c))

def Core.ctx (k : Core) (x : Nat) : Ctx := Tab.get k.ctxs x Ctx.reset
def Core.setCtx (k : Core) (x : Nat) (v : Ctx) : Core := { k with ctxs := Tab.put k.ctxs x v }
def Core.modCtx (k : Core) (x : Nat) (f : Ctx → Ctx) : Core := k.setCtx x (f (k.ctx x))

def State.ctx (s : State) (c x : Nat) : Ctx := (s.core c).ctx x
def State.setCtx (s : State) (c x : Nat) (v : Ctx) : State := s.setCore c ((s.core c).setCtx x v)
def State.modCtx (s : State) (c x : Nat) (f : Ctx → Ctx) : State := s.setCtx c x (f (s.ctx c x))

def State.cluster (s : State) (k : Nat) : Cluster := Tab.get s.clusters k Cluster.reset
def State.setCluster (s : State) (k : Nat) (v : Cluster) : State := { s with clusters := Tab.put s.clusters k v }
def State.modCluster (s : State) (k : Nat) (f : Cluster → Cluster) : State := s.setCluster k (f (s.cluster k))

def State.die (s : State) (d : Nat) : Die := Tab.get s.dies d Die.reset
def State.setDie (s : State) (d : Nat) (v : Die) : State := { s with dies := Tab.put s.dies d v }
def State.modDie (s : State) (d : Nat) (f : Die → Die) : State := s.setDie d (f (s.die d))

def State.proc (s : State) (p : Nat) : Process := Tab.get s.procs p Process.reset
def State.setProc (s : State) (p : Nat) (v : Process) : State := { s with procs := Tab.put s.procs p v }
def State.modProc (s : State) (p : Nat) (f : Process → Process) : State := s.setProc p (f (s.proc p))

/-- The context for which a slot operation acts. -/
def State.cur (s : State) : Ctx := s.ctx s.foc.core s.foc.ctx
def State.modCur (s : State) (f : Ctx → Ctx) : State := s.modCtx s.foc.core s.foc.ctx f

/-- The launch of a context, if any is live under its number. -/
def State.launchOf (s : State) (x : Ctx) : Option Launch := Tab.find s.launches x.launch

/-- The process of a context's launch; 0 when it has none. -/
def State.procOf (s : State) (x : Ctx) : Nat :=
  match s.launchOf x with
  | some l => l.proc
  | none => 0

def State.modLaunch (s : State) (l : Nat) (f : Launch → Launch) : State :=
  match Tab.find s.launches l with
  | some v => { s with launches := Tab.put s.launches l (f v) }
  | none => s

/-- R23: an event sent to the launch unit and the service firmware. -/
def State.notify (s : State) (n : Notice) : State := { s with notices := s.notices ++ [n] }

/-- Add one to an error counter of a die, saturating at 2^32 − 1 (R350). -/
def State.count (s : State) (d e : Nat) : State :=
  s.modDie d (fun v => { v with errs := Tab.put v.errs e (min (Tab.get v.errs e 0 + 1) (2 ^ 32 - 1)) })

/-! ### Registers of a context -/

/-- R101: s0 reads as zero. -/
def Ctx.rd (x : Ctx) (r : Nat) : Word := if r = 0 then 0 else Tab.get x.s r 0

/-- R101: a write to s0 is discarded. -/
def Ctx.wr (x : Ctx) (r : Nat) (v : Word) : Ctx := if r = 0 then x else { x with s := Tab.put x.s r v }

/-- A loop level (R99). -/
def Loop.reset : Loop := { lc := 0, li := 0, active := false, first := 0, stop := 0 }
def Ctx.loop (x : Ctx) (l : Nat) : Loop := Tab.get x.loops l Loop.reset
def Ctx.setLoop (x : Ctx) (l : Nat) (v : Loop) : Ctx := { x with loops := Tab.put x.loops l v }

/-- The innermost active level below `n`: levels nest upward (R124). -/
def Ctx.innermost (x : Ctx) : Nat → Option Nat
  | 0 => none
  | n + 1 => if (x.loop n).active then some n else Ctx.innermost x n

/-- R65, R129: FIRST, 1 in the first iteration of the innermost active level and outside every loop. -/
def Ctx.q14 (x : Ctx) : Bool :=
  match x.innermost 6 with
  | none => true
  | some l => decide ((x.loop l).li = 0)

/-- R65, R129: LAST, 1 when li + 1 is at least lc and outside every loop. -/
def Ctx.q15 (x : Ctx) : Bool :=
  match x.innermost 6 with
  | none => true
  | some l => decide ((x.loop l).lc.toNat ≤ (x.loop l).li.toNat + 1)

/-- R63, R65, R103: a predicate as it reads. -/
def Ctx.pred (x : Ctx) (i : Nat) : Bool :=
  if i = 0 then true else if i = 14 then x.q14 else if i = 15 then x.q15 else x.q.getLsbD i

/-- R103: q1–q13 are written; q0, q14 and q15 are not held here. -/
def Ctx.setPred (x : Ctx) (i : Nat) (b : Bool) : Ctx :=
  { x with q := (x.q &&& ~~~ (BitVec.twoPow 16 i)) ||| (if b then BitVec.twoPow 16 i else 0) }

/-- R63: a guard holds when predicate XOR negate is 1. -/
def Ctx.guard (x : Ctx) (g : BitVec 5) : Bool := xor (x.pred (g.toNat % 16)) (g.getLsbD 4)

/-- R137: a mask as it reads; k0 is all ones. -/
def Ctx.mask (x : Ctx) (i : Nat) : LaneMask := if i = 0 then allLanes else Tab.get x.k i 0

/-- R137: k0 is never written. -/
def Ctx.setMask (x : Ctx) (i : Nat) (m : LaneMask) : Ctx := if i = 0 then x else { x with k := Tab.put x.k i m }

/-- R131: the exact value of an address register. -/
def Ctx.xval (x : Ctx) (n : Nat) : Int :=
  let r := Tab.get x.x n { base := 0, strides := [] }
  (List.range 6).foldl
    (fun acc l =>
      let p := x.loop l
      if p.active then acc + (p.li.toNat : Int) * (Tab.get r.strides l 0).toInt else acc)
    r.base.toInt

/-- R131: whether an exact value lies in the signed 64-bit range. -/
def fits64 (v : Int) : Bool := decide (-(2 ^ 63 : Int) ≤ v) && decide (v < 2 ^ 63)

/-- R427: bits [47:0] of an exact value. -/
def low48 (v : Int) : Nat := (v % 2 ^ 48).toNat

/-- R222: a shape register. -/
def Ctx.shape (x : Ctx) (n : Nat) : BitVec 128 := Tab.get x.h n 0

/-- R134: the physical vector that operand code n names, inside the partition. -/
def Ctx.phys (x : Ctx) (n : Nat) : Nat := 64 * x.vbase + n

/-- R134: whether a code lies inside the partition. -/
def Ctx.inPart (x : Ctx) (n : Nat) : Bool := decide (n < 64 * x.vunits)

/-- R134: whether n vectors from a code on lie inside the partition. -/
def Ctx.rangeIn (x : Ctx) (v n : Nat) : Bool := decide (v + n ≤ 64 * x.vunits)

/-- R162: whether a tile is assigned to the context. -/
def Ctx.hasTile (x : Ctx) (t : Nat) : Bool := x.tiles.getLsbD t

def Core.tile (k : Core) (t : Nat) : Tile := Tab.get k.tiles t Tile.reset
def Core.setTile (k : Core) (t : Nat) (v : Tile) : Core := { k with tiles := Tab.put k.tiles t v }

/-- A physical vector of a core's file. -/
def Core.vec (k : Core) (p : Nat) : Vec := Tab.get k.vrf p 0

/-! ### Parts of vectors (R80) -/

/-- Every part of every lane. -/
def allParts : PartMask := BitVec.allOnes 512

/-- The parts of the lanes of a mask. -/
def lanesParts (m : LaneMask) : PartMask :=
  if m = allLanes then allParts else BitVec.ofNat 512 (packElems 4 (fun i => if m.getLsbD i then 15 else 0) 128)

/-- The parts of the lanes of which a predicate of their four parts holds. -/
def lanesWhere (p : Nat → Bool) (m : PartMask) : PartMask :=
  if m = allParts then m
  else BitVec.ofNat 512 (packElems 4 (fun i => if p (m.toNat / 2 ^ (4 * i) % 16) then 15 else 0) 128)

/-- R80, R351: a lane lands as a whole: the parts of the lanes whose first part is chosen. -/
def wholeLanes (m : PartMask) : PartMask := lanesWhere (fun n => decide (n % 2 = 1)) m

/-- R135: an engine writes whole lanes: the parts of the lanes of which any part is written. -/
def fullLanes (m : PartMask) : PartMask := lanesWhere (fun n => decide (n ≠ 0)) m

/-- The parts of the lanes of which some parts are written, and not all. -/
def brokenLanes (m : PartMask) : PartMask :=
  if m = allParts then 0 else lanesWhere (fun n => decide (n ≠ 0) && decide (n ≠ 15)) m

/-- The bits of one lane that its four parts stand for: bytes, or, for LNS6 (elements of 6 bits), the four codes, the
lane's high byte with the last. -/
def laneBits (el ps : Nat) : Nat :=
  if el = 6 then
    (if ps % 2 = 1 then 0x3F else 0) + (if ps / 2 % 2 = 1 then 0xFC0 else 0) + (if ps / 4 % 2 = 1 then 0x3F000 else 0) +
      (if ps / 8 % 2 = 1 then 0xFFFC0000 else 0)
  else
    (if ps % 2 = 1 then 0xFF else 0) + (if ps / 2 % 2 = 1 then 0xFF00 else 0) + (if ps / 4 % 2 = 1 then 0xFF0000 else 0) +
      (if ps / 8 % 2 = 1 then 0xFF000000 else 0)

/-- The selected parts from `a`, the others from `b`. -/
def partSelect (el : Nat) (m : PartMask) (a b : Vec) : Vec :=
  if m = allParts then a
  else
    let sel := vecOfLanes (fun i => laneBits el (m.toNat / 2 ^ (4 * i) % 16))
    (a &&& sel) ||| (b &&& ~~~ sel)

/-- The file with the selected parts of a physical vector replaced. -/
def Core.setParts (k : Core) (p el : Nat) (m : PartMask) (v : Vec) : Core :=
  { k with vrf := Tab.put k.vrf p (partSelect el m v (k.vec p)) }

/-- The file with the selected lanes of a physical vector replaced. -/
def Core.setLanes (k : Core) (p : Nat) (m : LaneMask) (v : Vec) : Core :=
  { k with vrf := Tab.put k.vrf p (vecSelect m v (k.vec p)) }

/-! ### Results that land within a bound (R80–R82) -/

/-- The parts of a result: a scalar or a register counts as whole. -/
def Land.parts (l : Land) : PartMask :=
  match l with
  | .vreg _ m _ _ => m
  | _ => allParts

/-- The parts of a result that land when the parts `m` are chosen (R80): R351 makes a lane the least piece. -/
def Land.chosen (l : Land) (m : PartMask) : PartMask :=
  match l with
  | .vreg _ m' _ _ => m' &&& wholeLanes m
  | _ => allParts

/-- A result less some of its parts; none when no part is left. -/
def Land.without (l : Land) (m : PartMask) : Option Land :=
  match l with
  | .vreg p m' v el => if m' &&& ~~~ m = 0 then none else some (.vreg p (m' &&& ~~~ m) v el)
  | _ => none

/-- R82: what is left of an older result once the parts `m` of a younger one of the same destination have landed: the
bits of VFS that the one sets and the other clears count apart. -/
def Land.under (old young : Land) (m : PartMask) : Option Land :=
  match old, young with
  | .sreg r _, .sreg r' _ => if r = r' then none else some old
  | .vreg p _ _ _, .vreg p' _ _ _ => if p = p' then old.without m else some old
  | .sys n _, .sys n' _ => if n = n' then none else some old
  | .tstat t _, .tstat t' _ => if t = t' then none else some old
  | .sigv _, .sigv _ => none
  | .mem a _, .mem a' _ => if a = a' then none else some old
  | .vfs b, .vfsClear b' => if b &&& ~~~ b' = 0 then none else some (.vfs (b &&& ~~~ b'))
  | .vfsClear b, .vfs b' => if b &&& ~~~ b' = 0 then none else some (.vfsClear (b &&& ~~~ b'))
  | _, _ => some old

/-- Bytes stored in a row of the linear view: elements that begin among them are no longer marked as fill. -/
def Cluster.store (k : Cluster) (a : Nat) (bs : List Byte) : Cluster :=
  { k with spl := Memory.writeRun k.spl a bs,
           marks := k.marks.filter (fun m => !(decide (a ≤ m / 8) && decide (m / 8 < a + bs.length))) }

/-- The write of a system register (R104, R106). -/
def Ctx.wrSys (x : Ctx) (num : Nat) (v : Word) : Ctx :=
  match num with
  | 0x00 => { x with rmode := v.setWidth 3 }
  | 0x01 => if v.toNat ≤ x.qb.toNat then { x with qb := v.setWidth 24 } else x
  | 0x03 => { x with ssm := v.setWidth 32 }
  | 0x04 => { x with sigref := v }
  | 0x06 => { x with cpat := v.setWidth 48 }
  | _ => x

/-- A write leaves no error in the words it replaces (R421). -/
def State.heal (s : State) (p : Damage → Bool) : State :=
  { s with damaged := s.damaged.filter (fun d => !p d), weak := s.weak.filter (fun d => !p d) }

/-- The damaged words that a result replaces. -/
def Land.heals (l : Land) (c x : Nat) (m : PartMask) (d : Damage) : Bool :=
  match l, d with
  | .sreg r _, .sreg c' x' r' => decide (c' = c) && decide (x' = x) && decide (r' = r)
  | .vreg p m' _ _, .lane c' p' i =>
    decide (c' = c) && decide (p' = p) && decide ((m' &&& m).toNat / 2 ^ (4 * i) % 16 = 15)
  | .mem a _, .spl k w => decide (k = clusterOf c) && decide (w = a / 8)
  | _, _ => false

/-- Write a result, or the selected parts of it, into its destination. -/
def State.write (s0 : State) (c x : Nat) (l : Land) (m : PartMask) : State :=
  let s := s0.heal (l.heals c x m)
  match l with
  | .sreg r v => s.modCtx c x (fun y => y.wr r v)
  | .vreg p m' v el => s.modCore c (fun k => k.setParts p el (m' &&& m) v)
  | .sys n v => s.modCtx c x (fun y => y.wrSys n v)
  | .vfs b => s.modCtx c x (fun y => { y with vfs := y.vfs ||| b })
  | .vfsClear b => s.modCtx c x (fun y => { y with vfs := y.vfs &&& ~~~ b })
  | .mem a v => s.modCluster (clusterOf c) (fun k => k.store a (leBytes v.toNat 8))
  | .tstat t v => s.modCore c (fun k => { k with tvis := Tab.put k.tvis t v })
  | .sigv v => s.modCtx c x (fun y => { y with sigVis := v })

/-- R82: once the parts `m` of a result have landed, an older one whose bound ends no later may no longer overwrite
them. -/
def trimOlder (x : Nat) (l : Land) (m : PartMask) (bound : Nat) (ps : List Pend) : List Pend :=
  ps.filterMap (fun p =>
    if p.ctx = x ∧ p.left ≤ bound then (p.land.under l m).map (fun l' => { p with land := l' }) else some p)

/-- R355: whether a result is a store by SST or a vector write, for whose bound a release waits. -/
def Land.awaited (l : Land) : Bool :=
  match l with
  | .mem _ _ | .vreg _ _ _ _ => true
  | _ => false

/-- R355: the bounds that a context's releases await, with that of one more result. -/
def Core.await (k : Core) (x : Nat) (l : Land) (bound : Nat) : Core :=
  if l.awaited then k.modCtx x (fun y => { y with stores := max y.stores bound }) else k

/-- R80: a result of bound L of the context x of core c. A bound of one cycle is written at once; another waits.
Assumption log 9 (DEDUCED). -/
def State.land (s : State) (c x : Nat) (l : Land) (bound : Nat) : State :=
  if bound ≤ 1 then
    (s.modCore c (fun k => { k with pend := trimOlder x l l.parts bound k.pend })).write c x l l.parts
  else
    s.modCore c (fun k =>
      { k.await x l bound with pend := k.pend ++ [{ ctx := x, land := l, left := bound }] })

/-- R82, R135, R282: the result of an engine operation or of an event, which no bound delays: no result of the context that is
still to land writes over it, nor over the rest of a lane of which it writes a part. -/
def State.settle (s : State) (c x : Nat) (l : Land) : State :=
  (s.modCore c (fun k =>
    { k with pend := k.pend.filterMap (fun p =>
        if p.ctx = x then (p.land.under l (fullLanes l.parts)).map (fun l' => { p with land := l' }) else some p) })).write c x l
    l.parts

/-- RESULT_LANDING (R80): the pending result at a place in the list lands in the parts named. -/
def State.landAt (s : State) (c i : Nat) (parts : PartMask) : State :=
  match (s.core c).pend[i]? with
  | none => s
  | some p =>
    let m := p.land.chosen parts
    let older := (s.core c).pend.take i
    let newer := (s.core c).pend.drop (i + 1)
    let keep := match p.land.without m with
      | some l' => [{ p with land := l' }]
      | none => []
    let ps := trimOlder p.ctx p.land m p.left older ++ keep ++ newer
    (s.modCore c (fun k => { k with pend := ps })).write c p.ctx p.land m

/-- R80: every result whose bound has passed lands, older ones first. `n` bounds the number of results. -/
def State.landDue (s : State) (c : Nat) : Nat → State
  | 0 => s
  | n + 1 =>
    match (s.core c).pend.findIdx? (fun p => decide (p.left = 0)) with
    | none => s
    | some i => State.landDue (s.landAt c i allParts) c n

/-- R355: the cycles left to the last bound of a context's stores by SST and of its vector writes, landed or not. -/
def Core.storeLeft (k : Core) (x : Nat) : Nat := (k.ctx x).stores

/-- The result of an SC operation for the current context (R101, R107). -/
def State.landS (s : State) (d : Nat) (v : Word) (bound : Nat) : State :=
  if d = 0 then s else s.land s.foc.core s.foc.ctx (.sreg d v) bound

/-- Whether a word is damaged beyond correction (R421). Assumption log 10 (DESIGN CHOICE). -/
def State.hurt (s : State) (d : Damage) : Bool := s.damaged.contains d

/-- R421: the beats that hold bytes of a region. -/
def cellWords (p i off n : Nat) (d : Damage) : Bool :=
  match d with
  | .cell p' i' o => decide (p' = p) && decide (i' = i) && decide (o < off + n) && decide (off < o + 32)
  | _ => false

/-- R421: the beats of a region that bytes written replace whole. -/
def cellsOver (p i off n : Nat) (d : Damage) : Bool :=
  match d with
  | .cell p' i' o => decide (p' = p) && decide (i' = i) && decide (off ≤ o) && decide (o + 32 ≤ off + n)
  | _ => false

/-- The storage that a word of device memory lies in, as its first beat: a granule of a tensor, of a patch or of an undo
image. -/
def Damage.unit (d : Damage) : Damage :=
  match d with
  | .base p i g _ => .base p i g 0
  | .store p n g _ => .store p n g 0
  | .undo p n g _ => .undo p n g 0
  | d => d

/-- R421: whether the word is protected by a code that corrects, and whether it lies in device memory. -/
def Damage.corrects (d : Damage) : Bool :=
  match d with
  | .lane .. | .spl .. | .side .. | .code .. | .cell .. | .base .. | .store .. | .undo .. | .link .. => true
  | _ => false

/-- R421: a read of the words of a predicate corrects those in which a correctable error stands: each counts in a
counter of a die, and the bits read are the corrected ones. Assumption log 10 (DESIGN CHOICE). -/
def State.correct (s : State) (die counter : Nat) (p : Damage → Bool) : State :=
  (s.weak.filter (fun d => d.corrects && p d)).foldl (fun t _ => t.count die counter) s

/-- How a damaged word reads (R117, R136, R162, R194, R421): zero, the substitute of a tile element, +∞ in the cover
store. -/
def State.blank (s : State) (d : Damage) : State :=
  match d with
  | .sreg c x r => s.modCtx c x (fun y => { y with s := Tab.put y.s r 0 })
  | .pred c x i => s.modCtx c x (fun y => y.setPred i false)
  | .mask c x i => s.modCtx c x (fun y => y.setMask i 0)
  | .lane c p i => s.modCore c (fun k => k.setLanes p (BitVec.twoPow 128 i) 0)
  | .spl k w => s.modCluster k (fun v => { v with spl := Memory.writeRun v.spl (8 * w) (List.replicate 8 0) })
  | .tile c t i j =>
    s.modCore c (fun k =>
      let v := k.tile t
      let sub := if v.int then 0 else 0x7FC00000
      k.setTile t { v with
        rows := Tab.put v.rows i (vecSelect (BitVec.twoPow 128 j) (splat 32 sub) (Tab.get v.rows i 0)) })
  | .cov c e =>
    s.modCore c (fun k => { k with
      cov := Tab.put k.cov (e / 128) (vecSelect (BitVec.twoPow 128 (e % 128)) (splat 32 0x7F800000)
        (Tab.get k.cov (e / 128) 0)) })
  | .side k e => s.modCluster k (fun v => { v with side := Tab.put v.side e 0 })
  | .cell .. | .code .. | .loop .. | .base .. | .store .. | .undo .. | .link .. => s

/-- The state as reads find it: every damaged word as R421 makes it read. -/
def State.seen (s : State) : State := s.damaged.foldl State.blank s

/-! ### Faults (R209–R213) -/

/-- The fault codes of R212. -/
def fcBundle : Nat := 0x01
def fcOpcode : Nat := 0x02
def fcField : Nat := 0x03
def fcRegister : Nat := 0x04
def fcFetch : Nat := 0x05
def fcBankConflict : Nat := 0x08
def fcHomeBank : Nat := 0x09
def fcTranspose : Nat := 0x0A
def fcFormat : Nat := 0x0B
def fcShape : Nat := 0x0C
def fcMisaligned : Nat := 0x0D
def fcOverflow : Nat := 0x0E
def fcTrap : Nat := 0x10
def fcBreak : Nat := 0x11
def fcRunOver : Nat := 0x18
def fcQuietOver : Nat := 0x19
def fcConflict : Nat := 0x20
def fcNotInvertible : Nat := 0x21
def fcSquash : Nat := 0x22
def fcStackFull : Nat := 0x23
def fcUnknown : Nat := 0x24
def fcInvalid : Nat := 0x30
def fcRevoked : Nat := 0x31
def fcPool : Nat := 0x32
def fcMemory : Nat := 0x33
def fcPoisoned : Nat := 0x34
def fcTimeout : Nat := 0x35

/-- A record with a code and a slot, every further register zero (R212). -/
def faultRec (code : Nat) (slot : Option Nat) : FaultRec :=
  { code := code, slot := slot, arg := 0, pa := 0, pb := 0, elem := 0, handle := 0, offset := 0, line := 0, word := none }

/-- R213: FR.CODE. -/
def frCode (r : FaultRec) (async atWait more : Bool) (token : Nat) : Word :=
  BitVec.ofNat 64
    (r.code + (match r.slot with | some k => k * 2 ^ 8 | none => 2 ^ 11) + async.toNat * 2 ^ 12 +
      atWait.toNat * 2 ^ 13 + token * 2 ^ 14 + more.toNat * 2 ^ 19 + r.arg % 2 ^ 16 * 2 ^ 32)

/-- R212, R213: the fault registers that a record writes; every register not filled is zero. -/
def frTable (r : FaultRec) (code : Word) (pc : Nat) : Tab Word :=
  [(0, code), (1, BitVec.ofNat 64 pc), (2, r.pa), (3, r.pb), (4, r.elem), (5, r.handle.setWidth 64),
   (6, BitVec.ofNat 64 (r.offset % 2 ^ 48)), (7, BitVec.ofNat 64 (r.line % 2 ^ 48))]

/-- The run in progress on a core ends (R15, R16): the core is free, and the context is dated. -/
def Core.endRun (k : Core) : Core :=
  match k.running with
  | none => k
  | some x =>
    { (k.modCtx x (fun y => { y with lastRun := k.runs + 1, runCount := 0 })) with
      running := none, runs := k.runs + 1, runOn := false, ending := false, quieted := false, qbOld := none }

/-- TAKING A FAULT (R209): the context stops, its fault registers are written with the address of the bundle not
issued, its run ends, and the record goes to the service core and the launch unit. -/
def State.takeFault (s : State) (c x : Nat) (r : FaultRec) (async atWait more : Bool) (token pc : Nat) : State :=
  let code := frCode r async atWait more token
  let s1 := s.modCtx c x (fun y => { y with st := .faulted, fr := frTable r code pc, pc := BitVec.ofNat 48 pc })
  let s2 := if (s1.core c).running = some x then s1.modCore c Core.endRun else s1
  s2.notify (.fault c x code)

/-- A precise fault of the current context at its bundle (R84, R210). MORE is set when another untaken fault waits. -/
def State.takePrecise (s : State) (r : FaultRec) : State :=
  s.takeFault s.foc.core s.foc.ctx r false false (!s.cur.untaken.isEmpty) 0 s.foc.pc

/-- R210: poison that a taken fault clears: every token that carries it. -/
def Ctx.clearPoison (x : Ctx) (fault : Nat) : Ctx :=
  { x with tk := x.tk.filter (fun p => decide (p.2 ≠ .poisoned fault)),
           untaken := x.untaken.filter (fun a => decide (a.id ≠ fault)) }

/-- R210: an asynchronous fault is taken at the bundle at `pc`, which does not issue. -/
def State.takeAsync (s : State) (c x : Nat) (a : AFault) (atWait : Bool) (pc : Nat) : State :=
  let s1 := s.modCtx c x (fun y => y.clearPoison a.id)
  s1.takeFault c x a.info true atWait (!(s1.ctx c x).untaken.isEmpty) a.token pc

/-- R120, R210, R236: whether a wait for all operations may take a fault: that of a D operation whose token has not been
made to forget it, or which another token carries; errors that registers, SLD, vectors, tiles, the cover store or an NXT
met carry no token. Assumption log 57 (DEDUCED). -/
def Ctx.carries (x : Ctx) (a : AFault) : Bool :=
  !a.bare && (!x.loose.contains a.id || x.tk.any (fun p => decide (p.2 = .poisoned a.id)))

/-- The untaken fault of the operation issued first (R210). -/
def firstUntaken (xs : List AFault) : Option AFault :=
  xs.foldl (fun acc a =>
    match acc with
    | none => some a
    | some b => if a.id < b.id then some a else some b) none

/-- R122, R210: a context halted with a fault untaken takes it, with the HALT bundle's address and ATWAIT 0. -/
def State.takeHalted (s : State) (c x : Nat) : State :=
  let y := s.ctx c x
  if y.st = .halted then
    match firstUntaken y.untaken with
    | none => s
    | some a => (s.modCtx c x (fun z => { z with afterHalt := true })).takeAsync c x a false y.pc.toNat
  else s

/-- R213: the bits of the fault registers that a field holds; the reserved ones read as zero. -/
def frMask (n : Nat) : Word :=
  match n with
  | 0 => 0x0000FFFF000FFFFF#64
  | 2 | 3 => 0x3FFFFFFF#64
  | 4 => 0xFFFFFFFFFFFFFFFF#64
  | 5 => 0xFFFFFFFF#64
  | _ => 0xFFFFFFFFFFFF#64

/-- R215: what the service firmware may write when it ends a fault. -/
def Ctx.firmware (x : Ctx) (w : FwWrites) : Ctx :=
  let x1 := w.regs.foldl (fun y p => if p.1 < 64 then y.wr p.1 p.2 else y) x
  let x2 := w.preds.foldl (fun y p => if 1 ≤ p.1 ∧ p.1 ≤ 13 then y.setPred p.1 p.2 else y) x1
  let x3 := w.fr.foldl (fun y p => if p.1 < 8 then { y with fr := Tab.put y.fr p.1 (p.2 &&& frMask p.1) } else y) x2
  w.clear.foldl (fun y t =>
    match Tab.find y.tk t with
    | some (.poisoned a) => y.clearPoison a
    | _ => y) x3

/-- R213: STEP is bit [18] of FR.CODE. -/
def Ctx.stepMark (x : Ctx) : Bool := (Tab.get x.fr 0 0).getLsbD 18
def Ctx.setStep (x : Ctx) (b : Bool) : Ctx :=
  let w := Tab.get x.fr 0 0
  { x with fr := Tab.put x.fr 0 (if b then w ||| 0x40000#64 else w &&& ~~~ 0x40000#64) }

/-- R215: step-over applies only to the codes of TRAP and BKPT. -/
def Ctx.mayStep (x : Ctx) : Bool :=
  let code := (Tab.get x.fr 0 0).toNat % 256
  decide (code = fcTrap) || decide (code = fcBreak)

/-- The registers and predicates that the service firmware replaces are no longer damaged (R421). -/
def fwHeals (w : FwWrites) (c x : Nat) (d : Damage) : Bool :=
  match d with
  | .sreg c' x' r => decide (c' = c) && decide (x' = x) && w.regs.any (fun p => decide (p.1 = r))
  | .pred c' x' q => decide (c' = c) && decide (x' = x) && w.preds.any (fun p => decide (p.1 = q))
  | _ => false

/-- R126: the loop buffer no longer holds a body of a context. -/
def Core.dropLoop (k : Core) (x : Nat) : Core :=
  if k.loopBuf.ctx = some x then { k with loopBuf := LoopBuf.empty } else k

/-- RETURN FROM A FAULT (R215): the firmware's writes take effect and the context becomes ready, fetching from FR.PC
with its quiet count at 0; a context that had halted returns to the halted state (R122). STEP is set by the step-over, or
by the firmware's own write of FR.CODE (R213), and stays only where it has an effect. -/
def State.resume (s0 : State) (c x : Nat) (w : FwWrites) (step : Bool) : State :=
  let y := s0.ctx c x
  if y.st = .faulted then
    let s := (s0.heal (fwHeals w c x)).modCore c (fun k => k.dropLoop x)
    let y1 := y.firmware w
    let y2 := y1.setStep ((step || y1.stepMark) && y1.mayStep && !y1.afterHalt)
    if y2.afterHalt then
      (s.setCtx c x { y2 with st := .halted, afterHalt := false }).takeHalted c x
    else
      s.setCtx c x { y2 with st := .ready, quietCount := 0, runCount := 0, pc := (Tab.get y2.fr 1 0).setWidth 48 }
  else s0

/-- R210: a fault with no token that an operation of a context met: untaken until the next quiet bundle or HALT, and
numbered as issued by the operation that met it; an operation carries one. -/
def State.missBy (s : State) (c x id : Nat) (r : FaultRec) : State :=
  s.modCtx c x (fun y =>
    if y.untaken.any (fun a => decide (a.id = id)) then y
    else { y with untaken := y.untaken ++ [{ id := id, info := r, token := 0, bare := true }] })

/-- R210: such a fault of an operation that is being issued. -/
def State.miss (s : State) (c x : Nat) (r : FaultRec) : State := { s.missBy c x s.stamp r with stamp := s.stamp + 1 }

/-- The error counters of R350, in their order. -/
def erCeSram : Nat := 0
def erUeSram : Nat := 1
def erPerr : Nat := 2
def erCeHbm : Nat := 3
def erUeHbm : Nat := 4
def erRelaunch : Nat := 5
def erSigmis : Nat := 6
def erPoisoned : Nat := 7

/-- R117, R136: an uncorrectable error that an operation of a context met in an SRAM, counted under R350. -/
def State.meet (s : State) (c x : Nat) (slot : Option Nat) (off pc : Nat) : State :=
  (s.count (dieOf c) erUeSram).miss c x { faultRec fcMemory slot with offset := off, line := pc }

/-! ### What a slot operation does -/

/-- The result of a slot operation on the state at its issue: an update to make when the bundle issues, a fault of
R84 steps 4 and 5, a fault of step 6, a fault of step 7, a stall, or
a stall that counts a barrier arrival (R287). -/
inductive Res where
  | ok (f : State → State)
  | early (r : FaultRec)
  | trap (r : FaultRec)
  | late (r : FaultRec)
  | stall
  | hold (f : State → State)

/-- A slot operation alone: its update is made, its fault is taken, or it waits. -/
def commit (r : Res) (s : State) : Host.Outcome State Fault Refusal :=
  match r with
  | .ok f => .next (f s)
  | .early e => .next (s.takePrecise e)
  | .trap e => .next (s.takePrecise e)
  | .late e => .next (s.takePrecise e)
  | .stall => .next s
  | .hold f => .next (f s)

/-- A fault of the slot in focus (R84). -/
def trapAt (s : State) (code : Nat) : Res := .trap (faultRec code (some s.foc.slot))

/-- A fault that the bits of the slot in focus alone decide (R84 steps 4 and 5). -/
def earlyAt (s : State) (code : Nat) : Res := .early (faultRec code (some s.foc.slot))

/-- A fault of the slot in focus with FR.OFFSET (R212, R427). -/
def trapOff (s : State) (code off : Nat) : Res := .trap { faultRec code (some s.foc.slot) with offset := off }

/-- R64: a slot whose guard is false has no effect. -/
def guarded (g : BitVec 5) (s : State) (r : Unit → Res) : Res := if s.cur.guard g then r () else .ok id

/-- Checks in their order: the first fault, or none. -/
def firstTrap (xs : List (Option FaultRec)) : Option FaultRec := xs.findSome? id

/-! ### Tokens and operations in flight (R75, R120) -/

/-- Whether a D operation of a number is still in flight on a core. -/
def Core.inFlight (k : Core) (id : Nat) : Bool := k.dops.any (fun o => decide (o.id = id))

/-- R62: whether a token's previous producer has not completed. -/
def Ctx.tokPending (x : Ctx) (t : Nat) : Bool :=
  match Tab.find x.tk t with
  | some (.pending _) => true
  | _ => false

/-- R75: the producers that a consumed token names at issue; a poisoned token names its fault. -/
def Ctx.producers (x : Ctx) (ts : List Nat) : List Tok := ts.filterMap (fun t => if t = 0 then none else Tab.find x.tk t)

/-- R120: whether every engine operation of a context has completed. -/
def Core.ctxIdle (k : Core) (x : Nat) : Bool :=
  k.dops.all (fun o => decide (o.ctx ≠ x)) && k.mxs.all (fun o => decide (o.ctx ≠ x))

/-- Operations in flight in a channel. -/
def Core.chanLoad (k : Core) (b : Bool) : Nat := k.dops.countP (fun o => o.chanB == b)

/-- R164: whether an MX operation in flight holds a tile busy. -/
def MxOp.tiles (o : MxOp) : List Nat :=
  let d := o.f.acc.toNat
  let a := o.f.xa.toNat
  match o.kind with
  | .mma => if o.f.bs then [d, o.f.xb.toNat] else [d]
  | .mmab | .mzero | .mload | .mdrain | .mscl | .mstat => [d]
  | .madd | .mtrn | .mred | .mgate | .mcopy => [d, a]
  | .mscan | .mscanf | .mscanr => [d, d + 1]
  | .cvInit | .cvCommit => []
  | .cvProbe | .cvRead | .sigFold | .sigCheck | .sigGet => [d]

def Core.tileBusy (k : Core) (t : Nat) : Bool := k.mxs.any (fun o => o.tiles.contains t)

/-- R89, R202: CV.INIT, CV.PROBE and CV.COMMIT hold the cover store busy. -/
def Core.covBusy (k : Core) : Bool :=
  k.mxs.any (fun o => match o.kind with | .cvInit | .cvProbe | .cvCommit => true | _ => false)

/-- R347: the SIG operations of a context hold its SIG busy. -/
def Core.sigBusy (k : Core) (x : Nat) : Bool :=
  k.mxs.any (fun o => decide (o.ctx = x) &&
    (match o.kind with | .sigFold | .sigCheck | .sigGet => true | _ => false))

/-- R234: XDONE, the least transfer identifier of a channel that has not completed. -/
def Core.xdone (k : Core) (x : Nat) (b : Bool) : Nat :=
  let y := k.ctx x
  (k.dops.filter (fun o => decide (o.ctx = x) && o.chanB == b)).foldl
    (fun acc o => match o.xfer with | some i => min acc i | none => acc) (if b then y.nextB else y.nextA)

end Sys2Proof.Machine
end

