-- ==== Sys2Proof/Machine/Tables.lean ====
section
/-! DEFINITION. Handles and launch records: the lookup of a handle (R314), the fields of a launch record (R297), its
steps (R307, R334). -/

set_option Elab.async false

namespace Sys2Proof.Machine

/-! ### Handles (R314–R316) -/

def clTensor : Nat := 1
def clSync : Nat := 2
def clCode : Nat := 3
def clSave : Nat := 4
def clList : Nat := 5
def clQbody : Nat := 6

/-- R314: the index and the generation of a handle. -/
def hIndex (h : BitVec 32) : Nat := h.toNat % 2 ^ 24
def hGen (h : BitVec 32) : Nat := h.toNat / 2 ^ 24

def Process.handle (p : Process) (i : Nat) : Handle := Tab.get p.handles i Handle.reset
def State.handle (s : State) (p i : Nat) : Handle := (s.proc p).handle i
def State.setHandle (s : State) (p i : Nat) (h : Handle) : State :=
  s.modProc p (fun v => { v with handles := Tab.put v.handles i h })
def State.modHandle (s : State) (p i : Nat) (f : Handle → Handle) : State := s.setHandle p i (f (s.handle p i))

/-- The fate of a lookup (R314): a fault code, a wait (R327), or the entry. -/
inductive Look where
  | bad (code : Nat)
  | wait
  | ok (h : Handle)
  deriving DecidableEq, Repr

/-- R314: the conditions in their order. -/
def State.lookup (s : State) (p : Nat) (h : BitVec 32) (cls : Nat) : Look :=
  let e := s.handle p (hIndex h)
  if hIndex h = 0 ∨ e.st = .free then .bad fcInvalid
  else if e.st = .revoked ∨ hGen h ≠ e.gen then .bad fcRevoked
  else if e.cls ≠ cls then .bad fcInvalid
  else if e.st = .migrating then .wait
  else .ok e

/-- The entry of a handle that is VALID or MIGRATING, of the class (R426: a MIGRATING handle has a valid entry). -/
def State.entry (s : State) (p : Nat) (h : BitVec 32) (cls : Nat) : Option Handle :=
  match s.lookup p h cls with
  | .bad _ => none
  | _ => some (s.handle p (hIndex h))

/-- R226: a tensor reference from a register: handle, ray; the other bits must be zero. -/
def trefOf (w : Word) : TRef := { handle := w.setWidth 32, ray := w.toNat / 2 ^ 32 % 64 }
def trefBad (w : Word) : Bool := decide (2 ^ 38 ≤ w.toNat)

/-! ### Where storage lies (R238, R315, R318–R320) -/

/-- The stack of the page or granule of a number, from the stacks in their order; stack 0 beyond them. -/
def runStack : List (Nat × Nat) → Nat → Nat
  | [], _ => 0
  | r :: rest, n => if n < r.2 then r.1 else runStack rest (n - r.2)

/-- R8, R238, R318: a location on a stack of a device: the stacks lie one after the other in the device's addresses, so that
every page lies whole on one. Assumption log 76 (DESIGN CHOICE). -/
def locOn (node stack align draw n : Nat) : Loc :=
  { addr := BitVec.ofNat 48 (stack * Config.stackBytes + Config.pageAddr draw n % Config.stackBytes / align * align),
    node := node, stack := stack }

/-- The place of page n of a region, or of granule n of a tensor, its address a multiple of `align`: where an APPLY has
remapped it, or where the firmware put it. -/
def Place.loc (q : Place) (align n : Nat) : Loc :=
  match Tab.find q.moved n with
  | some l => l
  | none => locOn q.node (runStack q.runs n) align q.born n

/-- R315, R318: the entry of a handle's granule map (ADDR a multiple of 128), or of its page list. -/
def Handle.locOf (h : Handle) (n : Nat) : Loc := h.place.loc (if h.cls = clTensor then 128 else Config.pageBytes) n

/-- The page of a region that holds a byte. -/
def pageOf (off : Nat) : Nat := off / Config.pageBytes

/-- The page that an access to a region of a class reaches, if the handle has a valid entry. -/
def State.regionUnits (s : State) (p : Nat) (h : BitVec 32) (cls off : Nat) : List (Nat × Nat) :=
  if (s.entry p h cls).isSome then [(hIndex h, pageOf off)] else []

/-- R9: the die of the stack that holds a page or a granule. -/
def Handle.dieAt (h : Handle) (n : Nat) : Nat := (h.locOf n).stack / 3

/-- R315: a location: byte address in [47:0], device in [57:48]. -/
def locWord (addr : BitVec 48) (node : Nat) : Word := BitVec.ofNat 64 (addr.toNat + node % 2 ^ 10 * 2 ^ 48)

/-- R315: MAP, RAYS, OLD and PRESENT of an entry; those of a free one are 0. -/
def Handle.mapLoc (h : Handle) : Word := if h.st = .free then 0 else locWord (Config.tableLoc h.place.born 0) h.place.node
def Handle.raysLoc (h : Handle) : Word := if h.cls = clTensor then locWord (Config.tableLoc h.born 1) h.place.node else 0
def Handle.oldLoc (h : Handle) : Word :=
  match h.old with
  | some q => locWord (Config.tableLoc q.born 0) q.node
  | none => 0
def Handle.presentLoc (h : Handle) : Word :=
  if h.pull then locWord (Config.tableLoc h.place.born 2) h.place.node
  else if h.cls = clCode then locWord (Config.tableLoc h.born 2) h.place.node
  else 0

/-- R319: RECS and STACKS of a ray, on a device. -/
def Ray.recsLoc (r : Ray) (node : Nat) : Word := locWord (Config.tableLoc r.born 3) node
def Ray.stacksLoc (r : Ray) (node : Nat) : Word := locWord (Config.tableLoc r.born 4) node

/-- R320: COVER, DATA and UNDOLOC of a record, on a device. -/
def Patch.coverLoc (q : Patch) (node : Nat) : Word := locWord (Config.tableLoc q.born 5) node
def Patch.dataLoc (q : Patch) (node : Nat) : Word := locWord (Config.tableLoc q.born 6) node
def Patch.undoLoc (q : Patch) (node : Nat) : Word := if q.undo.isEmpty then 0 else locWord (Config.tableLoc q.born 7) node

/-- A choice of the firmware or of the patch engine: the draw that stands for it, and the state after it. -/
def State.draw (s : State) : State := { s with draws := s.draws + 1 }

/-! ### The handle caches (R317) -/

/-- A cache of n entries, latest first, after a lookup. -/
def cacheIn {α : Type} [DecidableEq α] (n : Nat) (t : List α) (q : α) : List α := (q :: t.erase q).take n

/-- R317: a lookup by a copy channel fills the caches of the channel and of its cluster. Assumption log 79 (DEDUCED). -/
def State.cacheEntry (s : State) (c : Nat) (chanB : Bool) (p i : Nat) : State :=
  let s1 := s.modCore c (fun k =>
    if chanB then { k with hcB := cacheIn Config.channelCache k.hcB (p, i) }
    else { k with hcA := cacheIn Config.channelCache k.hcA (p, i) })
  s1.modCluster (clusterOf c) (fun k => { k with hc := cacheIn Config.clusterCache k.hc (p, i) })

/-- The granule-map entries that the patch-engine slice of a stack caches. -/
def State.gmap (s : State) (k : Nat) : List (Nat × Nat × Nat) := Tab.get s.gmaps k []

/-- R9, R317: the patch engine reads the granule-map entries of granules of tensors: they fill the cache of the slice at the
stack that holds each. -/
def State.cacheGranules (s : State) (p : Nat) (units : List (Nat × Nat)) : State :=
  units.foldl (fun t u =>
    let k := ((t.handle p u.1).locOf u.2).stack
    { t with gmaps := Tab.put t.gmaps k (cacheIn Config.granuleCache (t.gmap k) (p, u)) }) s

/-- R317: the firmware invalidates an entry, and the granule-map entries that it leads to, in every cache. -/
def State.invalidate (s : State) (p i : Nat) : State :=
  { s with
    gmaps := s.gmaps.map (fun g => (g.1, g.2.filter (fun e => !(decide (e.1 = p) && decide (e.2.1 = i)))))
    cores := s.cores.map (fun k => (k.1, { k.2 with hcA := k.2.hcA.erase (p, i), hcB := k.2.hcB.erase (p, i) }))
    clusters := s.clusters.map (fun k => (k.1, { k.2 with hc := k.2.hc.erase (p, i) })) }

/-! ### The replay queues (R9, R327, R329) -/

/-- The accesses that a stack's replay queue holds. -/
def State.replay (s : State) (k : Nat) : List HeldAcc := Tab.get s.replays k []

/-- R327: the stack whose queue holds an access to a page or a granule of a MIGRATING handle. -/
def State.replayStack (s : State) (p i n : Nat) : Nat := ((s.handle p i).locOf n).stack

/-- The accesses to a handle that a stack's queue holds, oldest first. -/
def State.heldFor (s : State) (k p i : Nat) : List HeldAcc :=
  (s.replay k).filter (fun a => decide (a.proc = p) && decide (a.idx = i))

/-- Whether no replay queue holds an access to a handle. -/
def State.noneHeld (s : State) (p i : Nat) : Bool := s.replays.all (fun q => (s.heldFor q.1 p i).isEmpty)

/-- R327, R329: an access may be made: no queue holds an access to the handle, or its own is the oldest of each queue in which
it stands. -/
def State.turn (s : State) (p i : Nat) (w : HeldWhat) : Bool :=
  let a : HeldAcc := { proc := p, idx := i, what := w }
  let mine := s.replays.filter (fun q => q.2.contains a)
  s.noneHeld p i || (!mine.isEmpty && mine.all (fun q => decide ((s.heldFor q.1 p i).head? = some a)))

/-- Whether a replay queue holds an access. -/
def State.isHeld (s : State) (w : HeldWhat) : Bool := s.replays.any (fun q => q.2.any (fun a => decide (a.what = w)))

/-- R327: whether an access that the replay queues hold is released: at each of them it is the oldest to its handle, and the
handle is not being moved. -/
def State.released (s : State) (w : HeldWhat) : Bool :=
  s.replays.all (fun q => q.2.all (fun a =>
    decide (a.what ≠ w) ||
      (decide ((s.heldFor q.1 a.proc a.idx).head? = some a) && decide ((s.handle a.proc a.idx).st ≠ .migrating))))

/-- The handles that some units lie in. -/
def handlesOf (units : List (Nat × Nat)) : List Nat := (units.map Prod.fst).dedup

/-- R327: the places at which an access to some units is held: each handle that it names, at each stack that holds some of
them. -/
def State.holdAt (s : State) (p : Nat) (units : List (Nat × Nat)) : List (Nat × Nat) :=
  (units.map (fun u => (s.replayStack p u.1 u.2, u.1))).dedup

/-- R327: an access enters the replay queues of the storage that it reaches, at all of them together; a full queue makes it
wait where it is. -/
def State.hold (s : State) (p : Nat) (units : List (Nat × Nat)) (w : HeldWhat) : State :=
  let us := s.holdAt p units
  if s.isHeld w ∨ us.any (fun u => decide (Config.replayDepth ≤ (s.replay u.1).length)) then s
  else
    us.foldl (fun t u =>
      { t with replays := Tab.put t.replays u.1 (t.replay u.1 ++ [{ proc := p, idx := u.2, what := w }]) }) s

/-- R327: an access of a host or of another device that finds a MIGRATING handle, or accesses held before it, enters the replay
queue; a full queue leaves it with the party that makes it. -/
def State.holdNew (s : State) (p i n : Nat) (w : HeldWhat) : State :=
  let k := s.replayStack p i n
  if Config.replayDepth ≤ (s.replay k).length then s
  else { s with replays := Tab.put s.replays k (s.replay k ++ [{ proc := p, idx := i, what := w }]) }

/-- R327, R329: an access to granules and pages of handles may be made (none), or the state in which it waits: it finds a
MIGRATING handle, or an access that a queue holds goes before it. -/
def State.gate (s : State) (p : Nat) (units : List (Nat × Nat)) (w : HeldWhat) : Option State :=
  if units.any (fun u => decide ((s.handle p u.1).st = .migrating)) then some (s.hold p units w)
  else if units.all (fun u => decide ((s.handle p u.1).st ≠ .valid) || s.turn p u.1 w) then none
  else some s

/-- An access that has been made, or given up, leaves the replay queues. -/
def State.leave (s : State) (p : HeldWhat → Bool) : State :=
  if s.replays.isEmpty then s
  else
    { s with replays := s.replays.filterMap (fun q =>
        let xs := q.2.filter (fun a => !p a.what)
        if xs.isEmpty then none else some (q.1, xs)) }

/-- An access of a launch unit has been made, or given up. -/
def State.leaveUnit (s : State) (w : HeldWhat) : State := s.leave (fun v => decide (v = w))

/-! ### Launch records (R297) -/

/-- n bytes of a record at an offset, little-endian. -/
def recNat (bs : List Byte) (off n : Nat) : Nat := leNat ((bs.drop off).take n)

def recPri (bs : List Byte) : Nat := recNat bs 0x01 1 % 8
def recKind (bs : List Byte) : Nat := recNat bs 0x01 1 / 16 % 4
def recMask (bs : List Byte) : Nat := recNat bs 0x02 1
def recCov (bs : List Byte) : Bool := decide (recNat bs 0x03 1 % 2 = 1)
def recVrfBase (bs : List Byte) : Nat := recNat bs 0x04 1
def recVrfUnits (bs : List Byte) : Nat := recNat bs 0x05 1
def recTileBase (bs : List Byte) : Nat := recNat bs 0x06 1
def recTiles (bs : List Byte) : Nat := recNat bs 0x07 1
def recRb (bs : List Byte) : Nat := recNat bs 0x08 4
def recQb (bs : List Byte) : Nat := recNat bs 0x0C 4
def recCodeH (bs : List Byte) : BitVec 32 := BitVec.ofNat 32 (recNat bs 0x20 4)
def recEntry (bs : List Byte) : Nat := recNat bs 0x28 8
def recSaveH (bs : List Byte) : BitVec 32 := BitVec.ofNat 32 (recNat bs 0x30 4)
def recChord (bs : List Byte) : Nat := recNat bs 0x34 2
def recChordCnt (bs : List Byte) : Nat := recNat bs 0x36 1 + 1
def recDieUnits (bs : List Byte) : Nat := recNat bs 0x37 1
def recDieCnt (bs : List Byte) : Nat := recNat bs 0x38 1 + 1
def recDoneH (bs : List Byte) : BitVec 32 := BitVec.ofNat 32 (recNat bs 0x80 4)
def recDoneOff (bs : List Byte) : Nat := recNat bs 0x84 4

/-- The two DEPC bits, the handle, the offset and the value of a dependence. -/
def recDepc (bs : List Byte) (i : Nat) : Nat := recNat bs 0x39 1 / 4 ^ i % 4
def recDepH (bs : List Byte) (i : Nat) : BitVec 32 := BitVec.ofNat 32 (recNat bs (0x40 + 16 * i) 4)
def recDepOff (bs : List Byte) (i : Nat) : Nat := recNat bs (0x44 + 16 * i) 4
def recDepVal (bs : List Byte) (i : Nat) : Nat := recNat bs (0x48 + 16 * i) 8

/-- A pinned ray: its tensor handle and its ray. -/
def recPinH (bs : List Byte) (i : Nat) : BitVec 32 := BitVec.ofNat 32 (recNat bs (0xA8 + 8 * i) 4)
def recPinRay (bs : List Byte) (i : Nat) : Nat := recNat bs (0xAC + 8 * i) 1 % 64

/-- The numbers below n whose bit is set in a mask. -/
def bitsOn (m n : Nat) : List Nat := (List.range n).filter (fun i => decide (m / 2 ^ i % 2 = 1))

/-- The cores and the contexts of a record, ascending. -/
def recCores (bs : List Byte) : List Nat := bitsOn (recNat bs 0x10 16) 128
def recCtxs (bs : List Byte) : List Nat := bitsOn (recMask bs) 8

/-- The clusters and the dies that hold a named core, ascending. -/
def recClusters (bs : List Byte) : List Nat := ((recCores bs).map clusterOf).dedup
def recDies (bs : List Byte) : List Nat := ((recCores bs).map dieOf).dedup

/-- The words of the generator block (R307). -/
def recGen (bs : List Byte) (w : Nat) : Nat := recNat bs (0x88 + 4 * w) 4
def recN (bs : List Byte) : Nat := recGen bs 0
def recNmin (bs : List Byte) : Nat := recGen bs 3
def recZ (bs : List Byte) : Word := BitVec.ofNat 64 (recNat bs 0x98 8)
def recTol (bs : List Byte) : Word := BitVec.ofNat 64 (recNat bs 0xA0 8)
def recListH (bs : List Byte) : BitVec 32 := BitVec.ofNat 32 (recGen bs 0)

/-- R307: the number of steps of a record. -/
def recSteps (bs : List Byte) : Nat :=
  match recKind bs with
  | 0 => 0
  | 1 => recGen bs 0 * recGen bs 1
  | 2 => recGen bs 1
  | _ => recN bs

/-! ### Steps (R307, R334) -/

/-- R307: row and column of a raster step. -/
def rasterStep (rows cols gw i : Nat) : Nat × Nat :=
  let g := i / (gw * cols)
  let h := min gw (rows - g * gw)
  let l := i - g * gw * cols
  (g * gw + l % h, l / h)

/-- R334: the smallest b with N ≤ 2^b, and at least 4. -/
def spiralBits (n : Nat) : Nat := max 4 (if n ≤ 1 then 0 else (n - 1).log2 + 1)

/-- R334: one round, on (A, wa, B, wb). -/
def spiralRound (k0 k1 : BitVec 32) (q : Nat × Nat × Nat × Nat) (j : Nat) : Nat × Nat × Nat × Nat :=
  let (a, wa, b, wb) := q
  let f := (vmix (BitVec.ofNat 32 (b + j * 2 ^ 16)) (if j % 2 = 0 then k0 else k1)).toNat
  (b, wb, a ^^^ (f % 2 ^ wa), wa)

/-- R334: the permutation of 0 to 2^b − 1. -/
def spiralPerm (b : Nat) (k0 k1 : BitVec 32) (x : Nat) : Nat :=
  let lo := b / 2
  let (a, _, c, wb) := (List.range 4).foldl (spiralRound k0 k1) (x / 2 ^ lo, b - lo, x % 2 ^ lo, lo)
  a * 2 ^ wb + c

/-- R334: the walk; `fuel` bounds it, and a bijection on 2^b values needs no more than 2^b steps. -/
def spiralWalk (b n : Nat) (k0 k1 : BitVec 32) : Nat → Nat → Nat
  | 0, x => x
  | fuel + 1, x => if x < n then x else spiralWalk b n k0 k1 fuel (spiralPerm b k0 k1 x)

/-- R334: the item of step i. -/
def spiral (n : Nat) (k0 k1 : BitVec 32) (i : Nat) : Nat :=
  let b := spiralBits n
  spiralWalk b n k0 k1 (2 ^ b) (spiralPerm b k0 k1 i)

/-! ### Pulls on first touch (R328) -/

/-- R328: the 4 KiB lines that an access to bytes of a handle pulls. -/
def State.touch (s : State) (p i : Nat) (lines : List Nat) : State :=
  if (s.handle p i).pull then
    s.modHandle p i (fun h => { h with present := (lines ++ h.present).dedup.mergeSort (· ≤ ·) })
  else s

end Sys2Proof.Machine
end

