-- ==== Sys2Proof/Machine/Code.lean ====
section
/-! DEFINITION. Fetching bundles: resident code pages (R78, R304), fill halfwords (R60), the bundle at an address
(R58), and the bounds of a loop body (R123). -/

set_option Elab.async false

namespace Sys2Proof.Machine

/-- The process and the code handle of a context. -/
def State.codeOf (s : State) (x : Ctx) : Nat × BitVec 32 :=
  match s.launchOf x with
  | some l => (l.proc, recCodeH l.bytes)
  | none => (0, 0)

/-- R78: the resident page that holds a code address. -/
def Core.page (k : Core) (p : Nat) (h : BitVec 32) (addr : Nat) : Option CodePage :=
  k.pages.find? (fun g => decide (g.proc = p) && decide (g.handle = h) && decide (g.page = addr / 1024))

/-- The byte of code at an address, if its page is resident. -/
def Core.codeByte (k : Core) (p : Nat) (h : BitVec 32) (addr : Nat) : Option Byte :=
  (k.page p h addr).map (fun g => Memory.read g.data (addr % 1024))

/-- The byte of code at an address: of the resident page, or of the image. -/
def State.imageByte (s : State) (c x : Nat) (addr : Nat) : Byte :=
  let (p, h) := s.codeOf (s.ctx c x)
  match (s.core c).codeByte p h addr with
  | some b => b
  | none => Memory.read (s.handle p (hIndex h)).data addr

/-- A halfword from two bytes (R1). -/
def halfOf (lo hi : Byte) : BitVec 16 := hi ++ lo

/-- What fetch finds at an address: a missing line, an illegal header, or a bundle with the address after it. -/
inductive Fetch where
  | missing (pc line : Nat)
  | illegal (pc : Nat)
  | got (pc next : Nat) (b : RawBundle)
  deriving DecidableEq, Repr

/-- n bytes of code from an address, all in resident pages; or the first missing page's line. -/
def Core.codeRun (k : Core) (p : Nat) (h : BitVec 32) (addr n : Nat) : Except Nat (List Byte) :=
  match k.page p h addr with
  | none => .error (addr / 64 * 64)
  | some g =>
    let o := addr % 1024
    if o + n ≤ 1024 then .ok (Memory.readRun g.data o n)
    else
      match k.page p h (addr + n - 1) with
      | none => .error ((addr + n - 1) / 1024 * 1024)
      | some g2 => .ok (Memory.readRun g.data o (1024 - o) ++ Memory.readRun g2.data 0 (o + n - 1024))

/-- R60, R78: fetch from an address: fill halfwords are passed over; `fuel` bounds how many. -/
def Core.fetch (k : Core) (p : Nat) (h : BitVec 32) : Nat → Nat → Fetch
  | 0, addr => .missing addr (addr / 64 * 64)
  | fuel + 1, addr =>
    match k.codeRun p h addr 2 with
    | .error line => .missing addr line
    | .ok bs =>
      let w := halfOf (bs.getD 0 0) (bs.getD 1 0)
      match header w with
      | .fill => Core.fetch k p h fuel (addr + 2)
      | .bad => .illegal addr
      | .bundle hd =>
        match k.codeRun p h addr (bundleLen hd) with
        | .error line => .missing addr line
        | .ok all => .got addr (addr + bundleLen hd) (rawBundle hd (all.drop 2))

/-- How many fill halfwords a fetch passes over: more than a code store holds. -/
def fetchFuel : Nat := 65537

/-- The bundle that a context issues next. -/
def State.fetch (s : State) (c x : Nat) : Fetch :=
  let (p, h) := s.codeOf (s.ctx c x)
  (s.core c).fetch p h fetchFuel (s.ctx c x).pc.toNat

/-! ### The body of a loop (R123) -/

/-- R123: fill halfwords are not counted: the address of the next header. -/
def skipFill (byte : Nat → Byte) : Nat → Nat → Nat
  | 0, a => a
  | fuel + 1, a => if halfOf (byte a) (byte (a + 1)) = 0xE000#16 then skipFill byte fuel (a + 2) else a

/-- The address after the bundle whose header stands at an address; an illegal header counts as an empty bundle. -/
def afterBundle (byte : Nat → Byte) (a : Nat) : Nat :=
  match header (halfOf (byte a) (byte (a + 1))) with
  | .bundle hd => a + bundleLen hd
  | _ => a + 2

/-- The address after n bundles from an address on. -/
def afterBundles (byte : Nat → Byte) : Nat → Nat → Nat
  | 0, a => a
  | n + 1, a => afterBundles byte n (afterBundle byte (skipFill byte fetchFuel a))

/-- R123: the first byte of a body of n bundles that follows an address, and the byte after the body. -/
def bodyBounds (byte : Nat → Byte) (a n : Nat) : Nat × Nat :=
  (skipFill byte fetchFuel a, afterBundles byte n a)

end Sys2Proof.Machine
end

