-- ==== Sys2Proof/Machine/Operands.lean ====
section
/-! DEFINITION. The operand forms of the scalar and vector slots: immediates (R67, R68), vector operand codes and flues
(R70, R71), second sources (R72), scratchpad addresses (R117, R217), and the writes of vector results under a mask
(R137, R139). -/

set_option Elab.async false

namespace Sys2Proof.Machine

/-- R67, R68: the immediate of an SC-I operation: imm8 sign-extended, or the IMX immediate of its bundle. -/
def immOf (s : State) (imm : BitVec 8) : Word :=
  match s.foc.imm with
  | some w => w
  | none => imm.signExtend 64

/-- R106: the system register number: imm8 unsigned, or the IMX immediate as an unsigned 64-bit number. -/
def sysNum (s : State) (num : BitVec 8) : Nat :=
  match s.foc.imm with
  | some w => w.toNat
  | none => num.toNat

/-! ### Vector operand codes (R70, R71, R134) -/

/-- What a 12-bit code names as a source. -/
inductive VSrc where
  | reg (phys : Nat)
  | zero
  | iota
  | flue (f : Nat)
  | bad
  deriving DecidableEq, Repr

/-- R70: the source that a code names for a context. -/
def Ctx.vsrc (x : Ctx) (c : Nat) : VSrc :=
  if c < 0xC00 then (if x.inPart c then .reg (x.phys c) else .bad)
  else if c = 0xFF0 then .zero
  else if c = 0xFF1 then .iota
  else if 0xFF8 ≤ c then .flue (c - 0xFF8)
  else .bad

/-- R70: whether a code is a destination of the context. -/
def Ctx.vdst (x : Ctx) (c : Nat) : Bool := decide (c < 0xC00) && x.inPart c

/-- R70: the lane-index vector. -/
def iotaVec : Vec := vecOfLanes id

/-- R289: the queue of a flue. -/
def Ctx.flue (x : Ctx) (f : Nat) : List Vec := Tab.get x.flues f []

/-- The vector that a source reads. -/
def State.vread (s : State) (v : VSrc) : Vec :=
  match v with
  | .reg p => (s.core s.foc.core).vec p
  | .zero => 0
  | .iota => iotaVec
  | .flue f => (s.cur.flue f).headD 0
  | .bad => 0

/-- R70, R71: the vector that a D operation keeps from its issue when its source is no register of the file. -/
def State.keptVec (s : State) (v : VSrc) : Option Vec :=
  match v with
  | .reg _ | .bad => none
  | _ => some (s.vread v)

/-- R71: whether the source is a flue that holds no vector. -/
def Ctx.srcEmpty (x : Ctx) (v : VSrc) : Bool :=
  match v with
  | .flue f => (x.flue f).isEmpty
  | _ => false

/-- R71: a flue is popped once for the bundle: only while it still holds what it held before the bundle. -/
def popFlue (pre : Ctx) (f : Nat) (t : State) : State :=
  if t.cur.flue f = pre.flue f then
    t.modCur (fun x => { x with flues := Tab.put x.flues f ((pre.flue f).drop 1) })
  else t

/-- R71: pop every flue among the sources. -/
def popAll (pre : Ctx) (srcs : List Nat) (t : State) : State :=
  srcs.foldl (fun t c =>
    match pre.vsrc c with
    | .flue f => popFlue pre f t
    | _ => t) t

/-- R84 step 5 and R62 for the vector operands of a slot: a code it may not name, then a flue that is empty. -/
def vcheck (s : State) (srcs : List Nat) (dst : Option Nat) (k : Unit → Res) : Res :=
  if srcs.any (fun c => decide (s.cur.vsrc c = .bad)) || dst.any (fun d => !s.cur.vdst d) then earlyAt s fcRegister
  else if srcs.any (fun c => s.cur.srcEmpty (s.cur.vsrc c)) then .stall
  else k ()

/-- R72: the second source of a vector slot, read as elements of a type. -/
def secondSrc (s : State) (t : VT) (f : VF) : Vec :=
  match f.bs.toNat with
  | 0 => s.vread (s.cur.vsrc f.vb.toNat)
  | 1 => splat t.w ((s.cur.rd f.vb.toNat).toNat % 2 ^ t.w)
  | _ => splat t.w (immElem t f.vb)

/-- The vector codes that a slot reads: va, and vb when it names a vector. -/
def vecSrcs (f : VF) (useA useB : Bool) : List Nat :=
  (if useA then [f.va.toNat] else []) ++ (if useB && f.bs == 0 then [f.vb.toNat] else [])

/-- The rounding mode of a context (R44). -/
def Ctx.rnd (x : Ctx) : Rmode := Rmode.ofCode x.rmode.toNat

/-- R137, R139: a vector result is written to the lanes that the mask selects; under zeroing the others become 0. Its
elements of `el` bits land each as a whole (R80). -/
def vecWrite (f : VF) (s : State) (v : Vec) (bound el : Nat) (t : State) : State :=
  let m := s.cur.mask f.mask.toNat
  let p := s.cur.phys f.vd.toNat
  if f.z then t.land s.foc.core s.foc.ctx (.vreg p allParts (vecSelect m v 0) el) bound
  else t.land s.foc.core s.foc.ctx (.vreg p (lanesParts m) v el) bound

/-- A vector operation that writes a vector: `fn` gives its result from va, the second source (read as type `bt`) and
the old destination; `el` is the width of the destination's elements. -/
def vecOp (f : VF) (useA useB : Bool) (bt : VT) (bound el : Nat) (fn : Vec → Vec → Vec → Vec) (s : State) : Res :=
  let srcs := vecSrcs f useA useB
  vcheck s srcs (some f.vd.toNat) (fun _ =>
    let a := s.vread (s.cur.vsrc f.va.toNat)
    let b := secondSrc s bt f
    let d := s.vread (s.cur.vsrc f.vd.toNat)
    let r := fn (if useA then a else 0) (if useB then b else 0) d
    .ok (fun t => vecWrite f s r bound el (popAll s.cur srcs t)))

/-- R139: an element-wise operation on two sources of the slot's own type. -/
def vecBin (f : VF) (bound : Nat) (op : VT → Rmode → Nat → Nat → Nat → Nat) (s : State) : Res :=
  let t := vtOfCode f.ty
  vecOp f true true t bound t.w (elementwise t (op t s.cur.rnd)) s

/-- R139, R140: an element-wise unary operation. -/
def vecUn (f : VF) (bound : Nat) (op : VT → Rmode → Nat → Nat → Nat → Nat) (s : State) : Res :=
  let t := vtOfCode f.ty
  vecOp f true false t bound t.w (elementwise t (op t s.cur.rnd)) s

/-- R140: a vector operation that writes a mask; k0 is refused. -/
def vecMask (f : VF) (useB : Bool) (fn : Vec → Vec → LaneMask) (s : State) : Res :=
  let srcs := vecSrcs f true useB
  if f.vd.toNat % 8 = 0 then earlyAt s fcRegister
  else
    vcheck s srcs none (fun _ =>
      let new := fn (s.vread (s.cur.vsrc f.va.toNat)) (if useB then secondSrc s (vtOfCode f.ty) f else 0)
      let k := f.vd.toNat % 8
      let r := maskMerge (s.cur.mask f.mask.toNat) (f.z && f.mask != 0) new (s.cur.mask k)
      .ok (fun t => (popAll s.cur srcs t).modCur (fun x => x.setMask k r)))

/-! ### The linear view of the scratchpad (R117, R217) -/

/-- R217: whether an address of the linear view lies in a bank and not in a hole. -/
def splAddrOk (a : Nat) : Bool := decide (a < 2 ^ 25) && decide (a % 2 ^ 19 < Config.bankBytes)

/-- R117: the fault of a scalar access at an exact address, if any. -/
def scalarEa (s : State) (ea : Int) : Option FaultRec :=
  let at_ := fun code => some { faultRec code (some s.foc.slot) with offset := low48 ea }
  if ea < 0 ∨ 2 ^ 25 ≤ ea then at_ fcOverflow
  else if ¬ ea.toNat % 2 ^ 19 < Config.bankBytes then at_ fcOverflow
  else if ea % 8 ≠ 0 then at_ fcMisaligned
  else none

end Sys2Proof.Machine
end

