-- ==== Sys2Proof/Machine/Flags.lean ====
section
/-! DEFINITION. The predicates and status registers that operations compute: predicate destinations (R66, R103), the
scalar conditions (R111, R115), system registers as GETS reads and SETS writes them (R104–R106, R130). -/

set_option Elab.async false

namespace Sys2Proof.Machine

/-- R66: q0, q14 and q15 are no destinations. -/
def predDst (q : Nat) : Bool := decide (q ≠ 0) && decide (q < 14)

/-- An SC operation that writes a predicate, visible to the next bundle (R81). -/
def predRes (g : BitVec 5) (q : Nat) (v : Bool) (s : State) : Res :=
  if predDst q then guarded g s (fun _ => .ok (fun t => t.modCur (fun x => x.setPred q v))) else earlyAt s fcRegister

/-- R111: the conditions of CMP. -/
def cmpCond (c : Nat) (a b : Word) : Bool :=
  match c with
  | 0 => decide (a = b)
  | 1 => decide (a ≠ b)
  | 2 => a.slt b
  | 3 => !a.slt b
  | 4 => a.ult b
  | 5 => !a.ult b
  | 6 => decide (a &&& b ≠ 0)
  | _ => decide (a &&& b = 0)

/-- R111: the conditions of CMPI. -/
def cmpiCond (c : Nat) (a b : Word) : Bool :=
  match c with
  | 0 => decide (a = b)
  | 1 => decide (a ≠ b)
  | 2 => a.slt b
  | _ => a.ult b

/-- R113: PLOG's operations. -/
def plogOp (op : Nat) (a b : Bool) : Bool :=
  match op with
  | 0 => a && b
  | 1 => a || b
  | 2 => xor a b
  | _ => a && !b

/-- R105: PRED as GETS reads it. -/
def Ctx.predWord (x : Ctx) : Word :=
  BitVec.ofNat 64 ((List.range 16).foldl (fun acc i => acc + (x.pred i).toNat * 2 ^ i) 0)

/-- R105: SETS of PRED writes q1 to q13. -/
def Ctx.setPreds (x : Ctx) (v : Word) : Ctx :=
  { x with q := (x.q &&& 0xC001#16) ||| (v.setWidth 16 &&& 0x3FFE#16) }

/-- R105: LOOPST. -/
def Ctx.loopst (x : Ctx) : Word :=
  BitVec.ofNat 64 ((List.range 6).foldl (fun acc l => acc + (x.loop l).active.toNat * 2 ^ l) 0)

/-- R105: CTXID. -/
def ctxid (node core ctx : Nat) : Word :=
  BitVec.ofNat 64 (ctx + core * 2 ^ 3 + clusterOf core * 2 ^ 10 + dieOf core * 2 ^ 14 + node * 2 ^ 16)

/-- R104: the width of a system register in bits. -/
def sysWidth (n : Nat) : Nat :=
  if n = 0x00 then 3 else if n = 0x01 ∨ n = 0x02 then 24 else if n = 0x03 then 32
  else if n = 0x06 ∨ n = 0x0B ∨ n = 0x0C then 48 else if n = 0x07 then 16 else if n = 0x08 then 6
  else if n = 0x0A then 26 else if n = 0x0D then 3 else if 0x10 ≤ n ∧ n ≤ 0x2D then 32 else 64

/-- R104: the number names a loop count. -/
def isLc (n : Nat) : Bool := decide (0x20 ≤ n) && decide (n ≤ 0x25)

/-- R104: the number names a TSTAT register. -/
def isTstat (n : Nat) : Bool := decide (0x10 ≤ n) && decide (n < 0x20)

/-- R104, R106: a system register as GETS reads it. -/
def sysRead (s : State) (n : Nat) : Word :=
  let x := s.cur
  let k := s.core s.foc.core
  match n with
  | 0x00 => x.rmode.setWidth 64
  | 0x01 => x.qb.setWidth 64
  | 0x02 => x.rb.setWidth 64
  | 0x03 => x.ssm.setWidth 64
  | 0x04 => x.sigref
  | 0x05 => x.sigVis
  | 0x06 => x.cpat.setWidth 64
  | 0x07 => x.predWord
  | 0x08 => x.loopst
  | 0x09 => k.cycle
  | 0x0A => ctxid s.node s.foc.core s.foc.ctx
  | 0x0B => BitVec.ofNat 64 (k.xdone s.foc.ctx false)
  | 0x0C => BitVec.ofNat 64 (k.xdone s.foc.ctx true)
  | 0x0D => x.vfs.setWidth 64
  | _ =>
    if isTstat n then (Tab.get k.tvis (n - 0x10) 0).setWidth 64
    else if isLc n then (x.loop (n - 0x20)).lc.setWidth 64
    else if 0x28 ≤ n ∧ n ≤ 0x2D then (x.loop (n - 0x28)).li.setWidth 64
    else if 0x30 ≤ n ∧ n ≤ 0x37 then Tab.get x.fr (n - 0x30) 0
    else BitVec.ofInt 64 (x.xval (n - 0x40))

/-- R104: a number outside the table (whatever the guard), then a TSTAT register of a tile not assigned. -/
def sysCheck (s : State) (n : Nat) (k : Unit → Res) : Res :=
  if !sysNumOk n then earlyAt s fcField
  else if isTstat n && !s.cur.hasTile (n - 0x10) then earlyAt s fcRegister
  else k ()

/-- R123, R130: a register count: negative counts as 0, above 2^32 − 1 as 2^32 − 1. -/
def clampCount (v : Word) : BitVec 32 := BitVec.ofInt 32 (clampInt 0 (2 ^ 32 - 1) v.toInt)

/-- R172: whether a value has an entry that CPAT may not hold. -/
def cpatBad (v : Word) : Bool :=
  (List.range 16).any (fun i =>
    let e := v.toNat / 2 ^ (3 * i) % 8
    decide (e ≠ 0) && decide (e ≠ 1) && decide (e ≠ 3))

/-- R191: whether a value is one that SSMCFG may not hold. -/
def ssmBad (v : Word) : Bool := decide (2 ^ 9 ≤ v.toNat) || decide (128 < v.toNat % 256)

/-- R106, R130: what SETS of a value does. Assumption log 36 (DEDUCED). -/
def setsRes (n : Nat) (v : Word) (s : State) : Res :=
  if isLc n then
    let p := s.cur.loop (n - 0x20)
    if p.active && decide (s.foc.pc = p.first) then
      .ok (fun t => t.modCur (fun x => x.setLoop (n - 0x20) { x.loop (n - 0x20) with lc := clampCount v }))
    else trapAt s fcField
  else if 2 ^ sysWidth n ≤ v.toNat then trapAt s fcField
  else
    match n with
    | 0x00 =>
      if 3 < v.toNat then trapAt s fcField
      else .ok (fun t => t.land s.foc.core s.foc.ctx (.sys 0x00 v) 2)
    | 0x01 =>
      if s.cur.qb.toNat < v.toNat then .ok id else .ok (fun t => t.land s.foc.core s.foc.ctx (.sys 0x01 v) 2)
    | 0x03 =>
      if ssmBad v then trapAt s fcField else .ok (fun t => t.land s.foc.core s.foc.ctx (.sys 0x03 v) 2)
    | 0x04 => .ok (fun t => t.land s.foc.core s.foc.ctx (.sys 0x04 v) 2)
    | 0x06 =>
      if cpatBad v then trapAt s fcField else .ok (fun t => t.land s.foc.core s.foc.ctx (.sys 0x06 v) 2)
    | 0x07 => .ok (fun t => t.modCur (fun x => x.setPreds v))
    | 0x0D => .ok (fun t => t.land s.foc.core s.foc.ctx (.vfsClear (v.setWidth 3)) 2)
    | _ => .ok id

end Sys2Proof.Machine
end

