-- ==== Sys2Proof/Machine/Control.lean ====
section
/-! DEFINITION. The meanings of the CT slot: branches, loops, waits, fences, barriers, steps, samples, traps and HALT
(spec/05 R118–R130, spec/09 R214, spec/10 R220, spec/12 R285–R287, spec/13 R309, spec/15 R335). -/

set_option Elab.async false

namespace Sys2Proof.Machine

/-! ### Branches (R79, R118, R119, R128) -/

/-- R127: level l and every active level inside it become inactive. -/
def Ctx.dropLevels (x : Ctx) (l : Nat) : Ctx :=
  (List.range 6).foldl (fun y i =>
    if l ≤ i ∧ (y.loop i).active then y.setLoop i { y.loop i with active := false, li := 0 } else y) x

/-- R128: the outermost active level whose body does not hold an address. -/
def Ctx.leftBy (x : Ctx) (target : Nat) : Option Nat :=
  (List.range 6).find? (fun l =>
    let p := x.loop l
    p.active && !(decide (p.first ≤ target) && decide (target < p.stop)))

/-- R128: the context goes on at a branch target. -/
def Ctx.branch (x : Ctx) (target : Nat) : Ctx :=
  let y := match x.leftBy target with
    | some l => x.dropLevels l
    | none => x
  { y with pc := BitVec.ofNat 48 target }

/-- R119, R427: a branch to an exact address, which must lie in 0 to 2^48 − 1. -/
def branchTo (s : State) (target : Int) (also : State → State) : Res :=
  if target < 0 ∨ 2 ^ 48 ≤ target then trapOff s fcOverflow (low48 target)
  else .ok (fun t => (also t).modCur (fun x => x.branch target.toNat))

/-- R79: the target of a BTREE field. -/
def shortTarget (pc : Nat) (d : BitVec 9) : Int := (pc / 16 * 16 : Nat) + 16 * d.toInt

/-- R118: the field that a BTREE chooses; none falls through. -/
def btreeChoice (shape : Nat) (t0 t1 t2 t3 : Bool) (d0 d1 d2 d3 : BitVec 9) : Option (BitVec 9) :=
  match shape with
  | 0 => if t0 then some d0 else none
  | 1 => if t0 then some d0 else if t1 then some d1 else none
  | 2 => if t0 then some d0 else if t1 then some d1 else if t2 then some d2 else none
  | 3 => if t0 then some d0 else if t1 then some d1 else if t2 then some d2 else if t3 then some d3 else none
  | 4 => if t0 then (if t1 then some d0 else some d1) else if t2 then some d2 else none
  | _ => if t0 then (if t1 then some d0 else some d1) else if t2 then some d2 else if t3 then some d3 else none

/-- R118: the choice of a BTREE at the issuing bundle. -/
def btreeOf (s : State) (shape : BitVec 3) (t0 t1 t2 t3 : BitVec 5) (d0 d1 d2 d3 : BitVec 9) : Option (BitVec 9) :=
  let x := s.cur
  btreeChoice shape.toNat (x.guard t0) (x.guard t1) (x.guard t2) (x.guard t3) d0 d1 d2 d3

/-! ### Loops (R123–R130) -/

/-- R123: the count of a LOOP: immediate, or a register. -/
def loopCount (s : State) (reg : Bool) (cnt : BitVec 24) : BitVec 32 :=
  if reg then clampCount (s.cur.rd (cnt.toNat / 2 ^ 18)) else cnt.setWidth 32

/-- R123: the bounds of the body of a LOOP whose field holds B − 1. -/
def loopBounds (s : State) (b : BitVec 8) : Nat × Nat :=
  bodyBounds (s.imageByte s.foc.core s.foc.ctx) s.foc.next (b.toNat + 1)

/-- R124: a LOOP with a count of zero skips its body; another makes its level active at the first body bundle.
Assumption log 58 (DEDUCED). -/
def Ctx.startLoop (x : Ctx) (l : Nat) (count : BitVec 32) (first stop : Nat) : Ctx :=
  if count = 0 then { x.setLoop l { x.loop l with lc := 0 } with pc := BitVec.ofNat 48 stop }
  else
    { x.setLoop l { lc := count, li := 0, active := true, first := first, stop := stop } with
      pc := BitVec.ofNat 48 first }

/-- R125: the ends of the bodies of the levels below `n` that the bundle before `next` closes, innermost first; an active
level whose body ends elsewhere keeps none of them back. -/
def Ctx.endBodies (x : Ctx) (next : Nat) : Nat → Ctx
  | 0 => x
  | l + 1 =>
    let p := x.loop l
    if !p.active || decide (p.stop ≠ next) then x.endBodies next l
    else if p.li.toNat + 1 < p.lc.toNat then
      { x.setLoop l { p with li := p.li + 1 } with pc := BitVec.ofNat 48 p.first }
    else Ctx.endBodies (x.setLoop l { p with active := false, li := 0 }) next l

/-! ### Memory accesses before a release (R283, R285) -/

/-- Whether a D operation makes memory accesses that a release awaits; a TJOIN makes none. -/
def DOp.accesses (o : DOp) : Bool :=
  match o.kind with
  | .join => false
  | _ => true

/-- R283: the operations of a context that a release issued now must await. -/
def Core.earlier (k : Core) (x : Nat) : List Nat :=
  (k.dops.filter (fun o => decide (o.ctx = x) && o.accesses)).map (·.id)

/-- R363, R405: whether an operation still holds a release of a scope back: until its accesses are complete at DOMAIN
scope; at a narrower one, until its accesses to another device have been performed. -/
def Core.unseen (k : Core) (scope id : Nat) : Bool :=
  k.dops.any (fun o => decide (o.id = id) && (decide (scope = 4) || !o.performed))

/-- R285: a SYNC read or read-modify-write in flight (every SYNC operation but STL). -/
def DOp.syncRead (o : DOp) : Bool :=
  match o.kind with
  | .sync op .. => decide (op ≠ 0x19)
  | _ => false

/-- R283, R355: every memory access of a context that has issued is complete. -/
def Core.quietMem (k : Core) (x scope : Nat) : Bool :=
  (k.earlier x).all (fun i => !k.unseen scope i) && decide (k.storeLeft x = 0)

/-- R285: whether the condition of a fence holds. Assumption log 8 (DEDUCED). -/
def fenceMet (k : Core) (x scope kind : Nat) : Bool :=
  (decide (kind = 2) || k.quietMem x scope) &&
    (decide (kind = 1) || k.dops.all (fun o => decide (o.ctx ≠ x) || !o.syncRead))

/-! ### Barriers (R286, R287) -/

def BarSlot.reset : BarSlot := { owner := 0, count := 0, arrived := 0, phase := false }

/-- The slot that a BAR names: of the chord, or of the die unit. -/
def State.barSlot (s : State) (core : Nat) (die : Bool) (slot : Nat) : BarSlot :=
  if die then Tab.get (s.die (dieOf core)).bars slot BarSlot.reset
  else Tab.get (s.cluster (clusterOf core)).chord slot BarSlot.reset

def State.setBarSlot (s : State) (core : Nat) (die : Bool) (slot : Nat) (v : BarSlot) : State :=
  if die then s.modDie (dieOf core) (fun d => { d with bars := Tab.put d.bars slot v })
  else s.modCluster (clusterOf core) (fun k => { k with chord := Tab.put k.chord slot v })

/-- The pending arrival of a context on a slot. -/
def Ctx.barPend (x : Ctx) (die : Bool) (slot : Nat) : Option BarPend :=
  x.bars.find? (fun b => b.die == die && decide (b.slot = slot))

def Ctx.dropBar (x : Ctx) (die : Bool) (slot : Nat) : Ctx :=
  { x with bars := x.bars.filter (fun b => !(b.die == die && decide (b.slot = slot))) }

/-- R287: an arrival is counted and its phase kept; the last one releases the phase. -/
def barArrive (core ctx : Nat) (die : Bool) (slot : Nat) (t : State) : State :=
  let b := t.barSlot core die slot
  let b' : BarSlot :=
    if b.arrived + 1 = b.count then { b with arrived := 0, phase := !b.phase } else { b with arrived := b.arrived + 1 }
  (t.setBarSlot core die slot b').modCtx core ctx (fun x =>
    { x with bars := x.bars ++ [{ die := die, slot := slot, phase := b.phase }] })

/-- R287: the wait part, on the pending phase. -/
def barWait (s : State) (die : Bool) (slot : Nat) (p : BarPend) : Res :=
  if (s.barSlot s.foc.core die slot).phase ≠ p.phase then .ok (fun t => t.modCur (fun x => x.dropBar die slot))
  else .stall

/-- R287: a BAR with a true guard; the illegal fields that depend on the slot and on pending arrivals are found here, as the
bundle would issue. Assumption log 105 (DEDUCED). -/
def barRes (s : State) (die : Bool) (slot mode : Nat) : Res :=
  let c := s.foc.core
  let x := s.foc.ctx
  let b := s.barSlot c die slot
  if s.cur.launch = 0 ∨ b.owner ≠ s.cur.launch then trapAt s fcField
  else
    let free := (s.core c).quietMem x 3
    match mode, s.cur.barPend die slot with
    | 0, some p => barWait s die slot p
    | 0, none => if free then .hold (barArrive c x die slot) else .stall
    | 1, some _ => trapAt s fcField
    | 1, none => if free then .ok (barArrive c x die slot) else .stall
    | _, some p => barWait s die slot p
    | _, none => trapAt s fcField

/-! ### Steps (R307, R309) -/

/-- An answer of a launch unit to an NXT: row, column, item and flags, and the fault of a list entry not read. -/
structure NxtAns where
  row : Word
  col : Word
  item : Word
  flags : Word
  err : Option FaultRec
  deriving DecidableEq, Repr

/-- R309: the flags NULL, RETRY and LAST. -/
def nxtNull : NxtAns := { row := 0, col := 0, item := 0, flags := 1, err := none }
def nxtRetry : NxtAns := { row := 0, col := 0, item := 0, flags := 2, err := none }

/-- R307, R309: the answer for step i of a launch. -/
def stepAnswer (s : State) (l : Launch) (i pc : Nat) : NxtAns :=
  let w := fun n : Nat => BitVec.ofNat 64 n
  let last : Word := if i + 1 = recSteps l.bytes then 4 else 0
  match recKind l.bytes with
  | 1 =>
    let (r, c) := rasterStep (recGen l.bytes 0) (recGen l.bytes 1) (recGen l.bytes 2) i
    { row := w r, col := w c, item := w i, flags := last, err := none }
  | 2 =>
    let h := recListH l.bytes
    let e := s.handle l.proc (hIndex h)
    let bad : Nat → NxtAns := fun code =>
      { nxtNull with err := some { faultRec code (some 6) with handle := h, offset := 8 * i, line := pc } }
    match s.lookup l.proc h clList with
    | .bad code => bad code
    | .wait | .ok _ =>
      if s.damaged.any (cellWords l.proc (hIndex h) (8 * i) 8) then bad fcMemory
      else
        { row := w (Memory.readNat e.data (8 * i) 4), col := w (Memory.readNat e.data (8 * i + 4) 4), item := w i,
          flags := last, err := none }
  | _ =>
    { row := w i, col := 0, item := w (spiral (recN l.bytes) (BitVec.ofNat 32 (recGen l.bytes 1))
        (BitVec.ofNat 32 (recGen l.bytes 2)) i), flags := 0, err := none }

/-- R309: whether the read of the list entry of a step takes too long. Assumption log 78 (DESIGN CHOICE). -/
def listLate (s : State) (l : Launch) : Bool :=
  match s.lookup l.proc (recListH l.bytes) clList with
  | .ok _ => Config.listLate s.draws
  | _ => false

/-- R328, R350, R421: what the read of a step's list entry does: its line is pulled, and the error that ECC corrects,
or does not, is counted; an answer without a step reads no entry. -/
def State.listRead (s : State) (l : Launch) (a : NxtAns) : State :=
  if recKind l.bytes ≠ 2 then s
  else
    let i := hIndex (recListH l.bytes)
    let off := match a.err with
      | some r => r.offset
      | none => 8 * a.item.toNat
    let die := (s.handle l.proc i).dieAt (pageOf off)
    let s1 := s.draw
    match a.err with
    | some r => if r.code = fcMemory then (s1.touch l.proc i [off / 4096]).count die erUeHbm else s1
    | none =>
      if a.flags.toNat % 4 ≠ 0 then s1
      else (s1.touch l.proc i [off / 4096]).correct die erCeHbm (cellWords l.proc i off 8)

/-- R309: whether the launch unit of a die takes the steps of a launch from its counter itself: the one that dispatched it,
and the one that serves it alone; the others of a launch over several dies hold blocks. -/
def Launch.counts (l : Launch) (die : Nat) : Bool := decide (l.die = die) || decide ((recDies l.bytes).length = 1)

/-- R309, R338: the step that the launch unit of a die would give next: from the counter, or from its block; none when it has
none. -/
def Launch.nextIndex (l : Launch) (die : Nat) : Option Nat :=
  if l.counts die then if l.est.stopped ∨ recSteps l.bytes ≤ l.step then none else some l.step
  else if recKind l.bytes = 0 ∨ l.stops.contains die then none
  else
    match Tab.find l.blocks die with
    | some (a, b) => if a < b then some a else none
    | none => none

/-- A launch of which the launch unit of a die has given step i. -/
def Launch.took (l : Launch) (die i : Nat) : Launch :=
  if l.counts die then { l with step := i + 1 }
  else
    match Tab.find l.blocks die with
    | some (_, b) => { l with blocks := Tab.put l.blocks die (i + 1, b) }
    | none => l

/-- R309: the answer of a launch unit that has no step to give: NULL when none is left, which a block (n, n) at the number of
steps n says; RETRY while its block is being refilled. -/
def noStep (l : Launch) (die : Nat) : NxtAns :=
  if l.counts die ∨ recKind l.bytes = 0 ∨ l.stops.contains die ∨
      (Tab.find l.blocks die).map Prod.fst = some (recSteps l.bytes) then nxtNull
  else nxtRetry

/-- R327: the state in which the read of the list entry of a step is held; none when it may be made, or no list is read. -/
def State.listGate (s : State) (x die : Nat) (l : Launch) (i : Nat) : Option State :=
  if recKind l.bytes = 2 then
    s.gate l.proc (s.regionUnits l.proc (recListH l.bytes) clList (8 * i)) (.list x die)
  else none

/-- R309, R327: the launch unit of a die gives the next step of launch x: the answer, and the state after it. A list entry
that has not arrived gives RETRY, and takes no step. -/
def State.giveStep (s : State) (x die pc : Nat) (l : Launch) : NxtAns × State :=
  match l.nextIndex die with
  | none => (noStep l die, s.listRead l (noStep l die))
  | some i =>
    match s.listGate x die l i with
    | some t => (nxtRetry, t)
    | none =>
      if recKind l.bytes = 2 ∧ listLate s l then (nxtRetry, s.listRead l nxtRetry)
      else
        let a := stepAnswer s l i pc
        (a, (({ s with launches := Tab.put s.launches x (l.took die i) } : State).listRead l a).leaveUnit (.list x die))

/-- R309: what an NXT does when it issues: the answer is taken and lands in 32 cycles. -/
def nxtIssue (s : State) (t : State) : State :=
  let c := s.foc.core
  let x := s.foc.ctx
  match t.launchOf t.cur with
  | none => t
  | some l =>
    let (a, t1) := t.giveStep t.cur.launch (dieOf c) s.foc.pc l
    let t2 : State := match a.err with
      | none => t1
      | some r => t1.miss c x r
    let bank := (t2.ctx c x).nextBankB
    let p : NxtPend := { bankB := bank, left := 32, row := a.row, col := a.col, item := a.item, flags := a.flags }
    t2.modCtx c x (fun y => { y with nxt := y.nxt ++ [p], nextBankB := !bank })

/-! ### WAIT (R120) -/

/-- R120, R210: the untaken fault that a WAIT with a true guard takes. -/
def waitFault (x : Ctx) (kind opd : Nat) : Option AFault :=
  match kind with
  | 0 =>
    match Tab.find x.tk (opd / 4) with
    | some (.poisoned a) => x.untaken.find? (fun u => decide (u.id = a))
    | _ => none
  | 5 => firstUntaken (x.untaken.filter x.carries)
  | _ => none

/-- R120: whether the condition of a WAIT holds. -/
def waitMet (s : State) (kind opd : Nat) : Bool :=
  let x := s.cur
  let k := s.core s.foc.core
  match kind with
  | 0 => !x.tokPending (opd / 4)
  | 1 => decide ((x.rd opd).toNat % 2 ^ 48 < k.xdone s.foc.ctx false)
  | 2 => decide ((x.rd opd).toNat % 2 ^ 48 < k.xdone s.foc.ctx true)
  | 3 => !(x.flue (opd / 8)).isEmpty
  | 4 => !k.tileBusy (opd / 4)
  | _ => k.ctxIdle s.foc.ctx

/-- R122: HALT: the context fetches nothing further, its loop levels end and a pending NXT landing is discarded; the
address of the HALT bundle is kept for a fault taken later. -/
def Ctx.halt (x : Ctx) (pc : Nat) : Ctx :=
  { x.dropLevels 0 with st := .halted, nxt := [], pc := BitVec.ofNat 48 pc }

/-- BTREE (R118). -/
def opBtree (shape : BitVec 3) (t0 : BitVec 5) (t1 : BitVec 5) (t2 : BitVec 5) (t3 : BitVec 5) (d0 : BitVec 9) (d1 : BitVec 9) (d2 : BitVec 9) (d3 : BitVec 9) (s : State) : Res :=
  match btreeOf s shape t0 t1 t2 t3 d0 d1 d2 d3 with
  | some d => branchTo s (shortTarget s.foc.pc d) id
  | none => .ok id

/-- The meaning of BTREE. -/
def execBtree (shape : BitVec 3) (t0 : BitVec 5) (t1 : BitVec 5) (t2 : BitVec 5) (t3 : BitVec 5) (d0 : BitVec 9) (d1 : BitVec 9) (d2 : BitVec 9) (d3 : BitVec 9) (s : State) : Host.Outcome State Fault Refusal :=
  commit (opBtree shape t0 t1 t2 t3 d0 d1 d2 d3 s) s

/-- JUMP (R119). -/
def opJump (g : BitVec 5) (off : BitVec 40) (s : State) : Res :=
  guarded g s (fun _ => branchTo s ((s.foc.pc : Int) + 2 * off.toInt) id)

/-- The meaning of JUMP. -/
def execJump (g : BitVec 5) (off : BitVec 40) (s : State) : Host.Outcome State Fault Refusal :=
  commit (opJump g off s) s

/-- CALL (R119). -/
def opCall (g : BitVec 5) (l : BitVec 6) (off : BitVec 40) (s : State) : Res :=
  guarded g s (fun _ =>
    branchTo s ((s.foc.pc : Int) + 2 * off.toInt) (fun t => t.landS l.toNat (BitVec.ofNat 64 s.foc.next) 1))

/-- The meaning of CALL. -/
def execCall (g : BitVec 5) (l : BitVec 6) (off : BitVec 40) (s : State) : Host.Outcome State Fault Refusal :=
  commit (opCall g l off s) s

/-- RET (R119). -/
def opRet (g : BitVec 5) (a : BitVec 6) (s : State) : Res :=
  guarded g s (fun _ =>
    let v := s.cur.rd a.toNat
    if v.getLsbD 0 then trapAt s fcField else branchTo s v.toNat id)

/-- The meaning of RET. -/
def execRet (g : BitVec 5) (a : BitVec 6) (s : State) : Host.Outcome State Fault Refusal :=
  commit (opRet g a s) s

/-- LOOP (R124). -/
def opLoop (g : BitVec 5) (lvl : BitVec 3) (b : BitVec 8) (reg : Bool) (cnt : BitVec 24) (s : State) : Res :=
  guarded g s (fun _ =>
    let x := s.cur
    let l := lvl.toNat
    let (first, stop) := loopBounds s b
    if (List.range 6).any (fun i => decide (l ≤ i) && (x.loop i).active) then trapAt s fcField
    else if (match x.innermost 6 with | some m => decide ((x.loop m).stop < stop) | none => false) then trapAt s fcField
    else
      let count := loopCount s reg cnt
      .ok (fun t => t.modCur (fun y => y.startLoop l count first stop)))

/-- The meaning of LOOP. -/
def execLoop (g : BitVec 5) (lvl : BitVec 3) (b : BitVec 8) (reg : Bool) (cnt : BitVec 24) (s : State) : Host.Outcome State Fault Refusal :=
  commit (opLoop g lvl b reg cnt s) s

/-- LEAVE (R127). -/
def opLeave (g : BitVec 5) (lvl : BitVec 3) (s : State) : Res :=
  guarded g s (fun _ =>
    let p := s.cur.loop lvl.toNat
    if p.active then
      .ok (fun t => t.modCur (fun x => { x.dropLevels lvl.toNat with pc := BitVec.ofNat 48 p.stop }))
    else trapAt s fcField)

/-- The meaning of LEAVE. -/
def execLeave (g : BitVec 5) (lvl : BitVec 3) (s : State) : Host.Outcome State Fault Refusal :=
  commit (opLeave g lvl s) s

/-- IMX (R68). -/
def opImx (_imm : BitVec 48) (_s : State) : Res :=
  .ok id

/-- The meaning of IMX. -/
def execImx (imm : BitVec 48) (s : State) : Host.Outcome State Fault Refusal :=
  commit (opImx imm s) s

/-- NXT (R309). -/
def opNxt (g : BitVec 5) (s : State) : Res :=
  guarded g s (fun _ => if s.cur.nxt.length ≥ 2 then .stall else .ok (nxtIssue s))

/-- The meaning of NXT. -/
def execNxt (g : BitVec 5) (s : State) : Host.Outcome State Fault Refusal :=
  commit (opNxt g s) s

/-- WAIT (R120). -/
def opWait (g : BitVec 5) (kind : BitVec 3) (opd : BitVec 6) (s : State) : Res :=
  if kind = 4 ∧ !s.cur.hasTile (opd.toNat / 4) then earlyAt s fcRegister
  else guarded g s (fun _ => if waitMet s kind.toNat opd.toNat then .ok id else .stall)

/-- The meaning of WAIT. -/
def execWait (g : BitVec 5) (kind : BitVec 3) (opd : BitVec 6) (s : State) : Host.Outcome State Fault Refusal :=
  match (if s.cur.guard g then waitFault s.cur kind.toNat opd.toNat else none) with
  | some a => .next (s.takeAsync s.foc.core s.foc.ctx a true s.foc.pc)
  | none => commit (opWait g kind opd s) s

/-- FENCE (R285). -/
def opFence (g : BitVec 5) (scope : BitVec 3) (kind : BitVec 2) (s : State) : Res :=
  guarded g s (fun _ => if fenceMet (s.core s.foc.core) s.foc.ctx scope.toNat kind.toNat then .ok id else .stall)

/-- The meaning of FENCE. -/
def execFence (g : BitVec 5) (scope : BitVec 3) (kind : BitVec 2) (s : State) : Host.Outcome State Fault Refusal :=
  commit (opFence g scope kind s) s

/-- VJOIN (R220). Assumption log 39 (DESIGN CHOICE). -/
def opVjoin (g : BitVec 5) (s : State) : Res :=
  guarded g s (fun _ => .ok id)

/-- The meaning of VJOIN. -/
def execVjoin (g : BitVec 5) (s : State) : Host.Outcome State Fault Refusal :=
  commit (opVjoin g s) s

/-- BAR (R287). -/
def opBar (g : BitVec 5) (scope : BitVec 3) (slot : BitVec 4) (mode : BitVec 2) (s : State) : Res :=
  if scope = 2 ∧ 8 ≤ slot.toNat then earlyAt s fcField
  else guarded g s (fun _ => barRes s (scope == 2) slot.toNat mode.toNat)

/-- The meaning of BAR. -/
def execBar (g : BitVec 5) (scope : BitVec 3) (slot : BitVec 4) (mode : BitVec 2) (s : State) : Host.Outcome State Fault Refusal :=
  commit (opBar g scope slot mode s) s

/-- EST_ADD (R335). -/
def opEstAdd (g : BitVec 5) (a : BitVec 6) (f : Bool) (s : State) : Res :=
  guarded g s (fun _ =>
    let v := s.cur.rd a.toNat
    let x : Word := if f then BitVec.ofNat 64 (fConv fp32 fp64 .rne (v.toNat % 2 ^ 32)) else v
    match s.launchOf s.cur with
    | some l =>
      if recKind l.bytes = 3 then
        .ok (fun t => t.modCluster (clusterOf s.foc.core) (fun k =>
          { k with est := { k.est with samples := k.est.samples ++ [x] } }))
      else trapAt s fcField
    | none => trapAt s fcField)

/-- The meaning of EST_ADD. -/
def execEstAdd (g : BitVec 5) (a : BitVec 6) (f : Bool) (s : State) : Host.Outcome State Fault Refusal :=
  commit (opEstAdd g a f s) s

/-- TRAP (R214). -/
def opTrap (g : BitVec 5) (code : BitVec 16) (s : State) : Res :=
  guarded g s (fun _ => .late { faultRec fcTrap (some s.foc.slot) with arg := code.toNat })

/-- The meaning of TRAP. -/
def execTrap (g : BitVec 5) (code : BitVec 16) (s : State) : Host.Outcome State Fault Refusal :=
  commit (opTrap g code s) s

/-- BKPT (R121). -/
def opBkpt (g : BitVec 5) (code : BitVec 16) (s : State) : Res :=
  guarded g s (fun _ => .late { faultRec fcBreak (some s.foc.slot) with arg := code.toNat })

/-- The meaning of BKPT. -/
def execBkpt (g : BitVec 5) (code : BitVec 16) (s : State) : Host.Outcome State Fault Refusal :=
  commit (opBkpt g code s) s

/-- HALT (R122). -/
def opHalt (g : BitVec 5) (s : State) : Res :=
  guarded g s (fun _ => .ok (fun t => t.modCur (fun x => x.halt s.foc.pc)))

/-- The meaning of HALT. -/
def execHalt (g : BitVec 5) (s : State) : Host.Outcome State Fault Refusal :=
  match (if s.cur.guard g then firstUntaken s.cur.untaken else none) with
  | some a => .next (s.takeAsync s.foc.core s.foc.ctx a false s.foc.pc)
  | none => commit (opHalt g s) s

end Sys2Proof.Machine
end

