-- ==== Sys2Proof/Machine/Cf.lean ====
section
/-! DEFINITION. The meanings of the CF slot (spec/02 R45, spec/05 R132, spec/07 R172, spec/08 R191, spec/09 R205,
spec/10 R221–R223 and R236, spec/14 R324 and R325, spec/15 R343), and the fields of a shape register (R222). -/

set_option Elab.async false

namespace Sys2Proof.Machine

/-- R222: the fields of a shape. -/
def shRows (v : BitVec 128) : Nat := v.toNat % 2 ^ 16
def shRowb (v : BitVec 128) : Nat := v.toNat / 2 ^ 16 % 2 ^ 20
def shFill (v : BitVec 128) : BitVec 16 := v.extractLsb' 36 16
def shVfmt (v : BitVec 128) : Nat := v.toNat / 2 ^ 52 % 16
def shRnd (v : BitVec 128) : Nat := v.toNat / 2 ^ 56 % 8
def shSstr (v : BitVec 128) : Int := (v.extractLsb' 64 32).toInt
def shDstr (v : BitVec 128) : Int := (v.extractLsb' 96 32).toInt

/-- R223: the values that SHAPE refuses as illegal fields. -/
def shapeBad (v : BitVec 128) : Bool :=
  decide (shRows v = 0) || decide (shRowb v = 0) || decide (4 < shRnd v) || decide (0xA < shVfmt v) ||
    decide (v.toNat / 2 ^ 59 % 32 ≠ 0)

/-- R131: an address register. -/
def Ctx.xreg (x : Ctx) (n : Nat) : XReg := Tab.get x.x n { base := 0, strides := [] }
def Ctx.setX (x : Ctx) (n : Nat) (v : XReg) : Ctx := { x with x := Tab.put x.x n v }

/-- R132: a stride of an address register. -/
def Ctx.setStride (x : Ctx) (n l : Nat) (v : Word) : Ctx :=
  x.setX n { x.xreg n with strides := Tab.put (x.xreg n).strides l v }

/-- R205: QBND never raises the quiet bound. Assumption log 40 (DEDUCED). -/
def Ctx.lowerQb (x : Ctx) (v : Nat) : Ctx := if v < x.qb.toNat then { x with qb := BitVec.ofNat 24 v } else x

/-- R236: the producers that the tokens of a mask name, those whose own fault a token carries included. -/
def Ctx.producersOf (x : Ctx) (mask : BitVec 15) : List Nat :=
  x.tk.filterMap (fun p =>
    if 1 ≤ p.1 ∧ mask.getLsbD (p.1 - 1) then
      match p.2 with
      | .pending i => some i
      | .poisoned a => if x.untaken.any (fun u => decide (u.id = a) && decide (u.token = p.1)) then some a else none
    else none)

/-- R236, R98: TKCLR forgets each token of the mask that still names the producer it named before the bundle; a fault of that
producer waits for a quiet bundle or a HALT. `live` says which operations are in flight. -/
def Ctx.forget (x pre : Ctx) (mask : BitVec 15) (live : Nat → Bool) : Ctx :=
  { x with
    tk := x.tk.filter (fun p =>
      !(decide (1 ≤ p.1) && mask.getLsbD (p.1 - 1) && decide (Tab.find pre.tk p.1 = some p.2)))
    loose := (x.loose ++ pre.producersOf mask).filter (fun i => live i || x.untaken.any (fun u => decide (u.id = i))) }

/-- R45, R82: a system register that a CF operation writes holds the new value from the next bundle on, whatever an
earlier SETS of it has still to land. -/
def State.landCf (s : State) (num : Nat) (v : Word) : State := s.land s.foc.core s.foc.ctx (.sys num v) 1

/-- SCL_SET_IMM (R324). -/
def opSclSetImm (entry : BitVec 4) (value : BitVec 16) (_s : State) : Res :=
  .ok (fun t => t.modCur (fun x => { x with sc := Tab.put x.sc entry.toNat value }))

/-- The meaning of SCL_SET_IMM. -/
def execSclSetImm (entry : BitVec 4) (value : BitVec 16) (s : State) : Host.Outcome State Fault Refusal :=
  commit (opSclSetImm entry value s) s

/-- SCL_SET_REG (R324). -/
def opSclSetReg (entry : BitVec 4) (a : BitVec 6) (s : State) : Res :=
  let v := s.cur.rd a.toNat
  if 2 ^ 16 ≤ v.toNat then trapAt s fcField
  else .ok (fun t => t.modCur (fun x => { x with sc := Tab.put x.sc entry.toNat (v.setWidth 16) }))

/-- The meaning of SCL_SET_REG. -/
def execSclSetReg (entry : BitVec 4) (a : BitVec 6) (s : State) : Host.Outcome State Fault Refusal :=
  commit (opSclSetReg entry a s) s

/-- SCL_LDV (R325). -/
def opSclLdv (v : BitVec 12) (s : State) : Res :=
  if s.cur.vdst v.toNat then
    let w := (s.core s.foc.core).vec (s.cur.phys v.toNat)
    .ok (fun t => t.modCur (fun x =>
      { x with sc := (List.range 16).foldl (fun tab i => Tab.put tab i (BitVec.ofNat 16 (velem w 16 i))) x.sc }))
  else earlyAt s fcRegister

/-- The meaning of SCL_LDV. -/
def execSclLdv (v : BitVec 12) (s : State) : Host.Outcome State Fault Refusal :=
  commit (opSclLdv v s) s

/-- BFMT (R221). Assumption log 38 (DESIGN CHOICE). -/
def opBfmt (bank : BitVec 6) (scl : Bool) (fmt : BitVec 4) (s : State) : Res :=
  let v : BitVec 16 := BitVec.ofNat 16 (fmt.toNat + scl.toNat * 16)
  .ok (fun t => t.modCluster (clusterOf s.foc.core) (fun k => { k with bfmt := Tab.put k.bfmt bank.toNat v }))

/-- The meaning of BFMT. -/
def execBfmt (bank : BitVec 6) (scl : Bool) (fmt : BitVec 4) (s : State) : Host.Outcome State Fault Refusal :=
  commit (opBfmt bank scl fmt s) s

/-- SHAPE (R223). -/
def opShape (h : BitVec 4) (a : BitVec 6) (b : BitVec 6) (s : State) : Res :=
  let v : BitVec 128 := s.cur.rd b.toNat ++ s.cur.rd a.toNat
  if shapeBad v then trapAt s fcField
  else if shSstr v % 16 ≠ 0 ∨ shDstr v % 16 ≠ 0 then trapAt s fcShape
  else .ok (fun t => t.modCur (fun x => { x with h := Tab.put x.h h.toNat v }))

/-- The meaning of SHAPE. -/
def execShape (h : BitVec 4) (a : BitVec 6) (b : BitVec 6) (s : State) : Host.Outcome State Fault Refusal :=
  commit (opShape h a b s) s

/-- XSET (R132). -/
def opXset (x : BitVec 4) (a : BitVec 6) (s : State) : Res :=
  let v := s.cur.rd a.toNat
  .ok (fun t => t.modCur (fun y => y.setX x.toNat { y.xreg x.toNat with base := v }))

/-- The meaning of XSET. -/
def execXset (x : BitVec 4) (a : BitVec 6) (s : State) : Host.Outcome State Fault Refusal :=
  commit (opXset x a s) s

/-- XSTEP_REG (R132). -/
def opXstepReg (x : BitVec 4) (lvl : BitVec 3) (a : BitVec 6) (s : State) : Res :=
  let v := s.cur.rd a.toNat
  .ok (fun t => t.modCur (fun y => y.setStride x.toNat lvl.toNat v))

/-- The meaning of XSTEP_REG. -/
def execXstepReg (x : BitVec 4) (lvl : BitVec 3) (a : BitVec 6) (s : State) : Host.Outcome State Fault Refusal :=
  commit (opXstepReg x lvl a s) s

/-- XSTEP_IMM (R132). -/
def opXstepImm (x : BitVec 4) (lvl : BitVec 3) (imm : BitVec 20) (_s : State) : Res :=
  let v : Word := imm.signExtend 64
  .ok (fun t => t.modCur (fun y => y.setStride x.toNat lvl.toNat v))

/-- The meaning of XSTEP_IMM. -/
def execXstepImm (x : BitVec 4) (lvl : BitVec 3) (imm : BitVec 20) (s : State) : Host.Outcome State Fault Refusal :=
  commit (opXstepImm x lvl imm s) s

/-- CPAT (R172). -/
def opCpat (a : BitVec 6) (s : State) : Res :=
  let v := s.cur.rd a.toNat
  if 2 ^ 48 ≤ v.toNat then trapAt s fcField
  else if cpatBad v then trapAt s fcField
  else .ok (fun t => t.landCf 0x06 v)

/-- The meaning of CPAT. -/
def execCpat (a : BitVec 6) (s : State) : Host.Outcome State Fault Refusal :=
  commit (opCpat a s) s

/-- QBND_IMM (R205). -/
def opQbndImm (value : BitVec 24) (_s : State) : Res :=
  .ok (fun t => t.modCur (fun x => x.lowerQb value.toNat))

/-- The meaning of QBND_IMM. -/
def execQbndImm (value : BitVec 24) (s : State) : Host.Outcome State Fault Refusal :=
  commit (opQbndImm value s) s

/-- QBND_REG (R205). -/
def opQbndReg (a : BitVec 6) (s : State) : Res :=
  let v := (s.cur.rd a.toNat).toNat
  if 2 ^ 24 ≤ v then trapAt s fcField else .ok (fun t => t.modCur (fun x => x.lowerQb v))

/-- The meaning of QBND_REG. -/
def execQbndReg (a : BitVec 6) (s : State) : Host.Outcome State Fault Refusal :=
  commit (opQbndReg a s) s

/-- RMODE_IMM (R45). -/
def opRmodeImm (mode : BitVec 3) (_s : State) : Res :=
  .ok (fun t => t.landCf 0x00 (mode.setWidth 64))

/-- The meaning of RMODE_IMM. -/
def execRmodeImm (mode : BitVec 3) (s : State) : Host.Outcome State Fault Refusal :=
  commit (opRmodeImm mode s) s

/-- RMODE_REG (R45). -/
def opRmodeReg (a : BitVec 6) (s : State) : Res :=
  let v := s.cur.rd a.toNat
  if 3 < v.toNat then trapAt s fcField else .ok (fun t => t.landCf 0x00 v)

/-- The meaning of RMODE_REG. -/
def execRmodeReg (a : BitVec 6) (s : State) : Host.Outcome State Fault Refusal :=
  commit (opRmodeReg a s) s

/-- SSM_CFG_IMM (R191). -/
def opSsmCfgImm (value : BitVec 9) (s : State) : Res :=
  if ssmBad (value.setWidth 64) then earlyAt s fcField
  else .ok (fun t => t.landCf 0x03 (value.setWidth 64))

/-- The meaning of SSM_CFG_IMM. -/
def execSsmCfgImm (value : BitVec 9) (s : State) : Host.Outcome State Fault Refusal :=
  commit (opSsmCfgImm value s) s

/-- SSM_CFG_REG (R191). -/
def opSsmCfgReg (a : BitVec 6) (s : State) : Res :=
  let v := s.cur.rd a.toNat
  if ssmBad v then trapAt s fcField else .ok (fun t => t.landCf 0x03 v)

/-- The meaning of SSM_CFG_REG. -/
def execSsmCfgReg (a : BitVec 6) (s : State) : Host.Outcome State Fault Refusal :=
  commit (opSsmCfgReg a s) s

/-- SIG_SET (R343). Assumption log 37 (DEDUCED). -/
def opSigSet (t : Bool) (a : BitVec 6) (s : State) : Res :=
  let v := s.cur.rd a.toNat
  if t then .ok (fun u => u.landCf 0x04 v)
  else if (s.core s.foc.core).sigBusy s.foc.ctx then .stall
  else .ok (fun u => (u.modCur (fun x => { x with sig := v })).land s.foc.core s.foc.ctx (.sigv v) 32)

/-- The meaning of SIG_SET. -/
def execSigSet (t : Bool) (a : BitVec 6) (s : State) : Host.Outcome State Fault Refusal :=
  commit (opSigSet t a s) s

/-- TKCLR (R236). -/
def opTkclr (mask : BitVec 15) (s : State) : Res :=
  .ok (fun t => t.modCur (fun x => x.forget s.cur mask (t.core s.foc.core).inFlight))

/-- The meaning of TKCLR. -/
def execTkclr (mask : BitVec 15) (s : State) : Host.Outcome State Fault Refusal :=
  commit (opTkclr mask s) s

end Sys2Proof.Machine
end

