-- ==== Sys2Proof/Machine/Spl.lean ====
section
/-! DEFINITION. Rows of elements in the scratchpad: addresses and views (R217), the bytes of a row (R31, R167), bank
formats and sidecars (R39, R41), fill marks, and home banks (R11). -/

set_option Elab.async false

namespace Sys2Proof.Machine

/-- R217: the bank and the offset of an address. -/
def bankOf (a : Nat) : Nat := a / 2 ^ 19
def offIn (a : Nat) : Nat := a % 2 ^ 19

/-- R217, R225: the first byte of a row of n bytes that lies below zero, in a hole, or at or above 2^25. -/
def firstBad (a : Int) (n : Nat) : Option Int :=
  if a < 0 ∨ 2 ^ 25 ≤ a then some a
  else
    let o := offIn a.toNat
    if Config.bankBytes ≤ o then some a
    else if o + n ≤ Config.bankBytes then none
    else some (a - o + Config.bankBytes)

/-- R217: the linear address of a byte of the swizzled view. -/
def swizzle (a : Nat) : Nat :=
  let o := offIn a
  let w := o / 128
  bankOf a * 2 ^ 19 + 128 * w + 16 * ((o / 16 % 8) ^^^ (w % 8)) + o % 16

/-- The linear address of a byte in a view. -/
def linear (swz : Bool) (a : Nat) : Nat := if swz then swizzle a else a

/-- R11: whether a bank is a home bank of a core with a local number. -/
def isHome (l bank : Nat) : Bool := decide (bank < 64) && decide (bank % 16 / 2 = l)

/-- The bytes of n elements of a format. -/
def rowBytes (f : Sfmt) (n : Nat) : Nat := (f.bits * n + 7) / 8

/-- The integer in the n bytes of a row through a view. -/
def Cluster.rowNat (k : Cluster) (swz : Bool) (a n : Nat) : Nat :=
  if swz then leNat ((List.range n).map (fun i => Memory.read k.spl (swizzle (a + i)))) else Memory.readNat k.spl a n

/-- Store the low bits of an integer into a row through a view; the bits above them keep their value. -/
def Cluster.putRow (k : Cluster) (swz : Bool) (a bits v : Nat) : Cluster :=
  let n := (bits + 7) / 8
  let old := if bits % 8 = 0 then 0 else k.rowNat swz a n / 2 ^ bits * 2 ^ bits
  let bs := leBytes (v % 2 ^ bits + old) n
  if swz then (bs.zipIdx).foldl (fun c p => c.store (swizzle (a + p.2)) [p.1]) k else k.store a bs

/-- R41: the format and the scale presence that a bank format register gives. Assumption log 29 (DEDUCED). -/
def bankFmt (bf : Tab (BitVec 16)) (bank : Nat) : Sfmt × Bool :=
  let v := Tab.get bf bank 0
  ((Sfmt.ofCode (v.toNat % 16)).getD .fp32, v.getLsbD 4)

/-- R39: the sidecar entry of the first group of a row at a linear address. -/
def sideEntry (f : Sfmt) (a : Nat) : Nat := bankOf a * 16384 + offIn a / (4 * f.bits)

/-- A row of elements as read: its format, whether it is scaled, its bits, where it begins, and its first group. -/
structure Row where
  fmt : Sfmt
  scl : Bool
  bits : Nat
  bit0 : Nat
  side0 : Nat
  deriving DecidableEq, Repr

/-- R167: a row of n elements at an address of the linear view, in its bank's format. -/
def Cluster.row (k : Cluster) (bf : Tab (BitVec 16)) (a n : Nat) : Row :=
  let (f, scl) := bankFmt bf (bankOf a)
  { fmt := f, scl := scl, bits := k.rowNat false a (rowBytes f n), bit0 := 8 * a, side0 := sideEntry f a }

/-- The raw bits of an element of a row. -/
def Row.code (r : Row) (e : Nat) : Nat := r.bits / 2 ^ (r.fmt.bits * e) % 2 ^ r.fmt.bits

/-- R38, R39: the scale entry of an element's group; none for an unscaled row. -/
def Row.scale (r : Row) (k : Cluster) (sc : Tab (BitVec 16)) (e : Nat) : Option (BitVec 16) :=
  if r.scl then some (Tab.get sc (Tab.get k.side (r.side0 + e / 32) 0).toNat 0) else none

/-- R38: the value of an element with its scale. -/
def scaled (f : Sfmt) (code : Nat) (sc : Option (BitVec 16)) : Fv :=
  match sc with
  | some w => scaleVal w (decodeElem f code)
  | none => decodeElem f code

def Row.val (r : Row) (k : Cluster) (sc : Tab (BitVec 16)) (e : Nat) : Fv := scaled r.fmt (r.code e) (r.scale k sc e)

/-- R51: whether a window marked an element as fill. -/
def Row.isFill (r : Row) (k : Cluster) (e : Nat) : Bool := k.marks.contains (r.bit0 + r.fmt.bits * e)

/-- R51: an element as an operand of a term: none for a fill element. -/
def Row.term (r : Row) (k : Cluster) (sc : Tab (BitVec 16)) (e : Nat) : Option Fv :=
  if r.isFill k e then none else some (r.val k sc e)

/-! ### Elements of a vector in a storage format (R56, R149) -/

/-- The first bit of an element: four LNS6 codes stand in bits [23:0] of a lane. -/
def elemPos (f : Sfmt) (e : Nat) : Nat := if f = .lns6 then 32 * (e / 4) + 6 * (e % 4) else f.bits * e

def vecElem (f : Sfmt) (v : Vec) (e : Nat) : Nat := v.toNat / 2 ^ elemPos f e % 2 ^ f.bits

/-- A vector with its first elements replaced; the high byte of an LNS6 lane keeps its value. Assumption log 84
(DESIGN CHOICE). -/
def vecPut (f : Sfmt) (v : Vec) (codes : List Nat) : Vec :=
  let sel := (List.range codes.length).foldl (fun acc e => acc + (2 ^ f.bits - 1) * 2 ^ elemPos f e) 0
  let new := (codes.zipIdx).foldl (fun acc p => acc + p.1 % 2 ^ f.bits * 2 ^ elemPos f p.2) 0
  (v &&& ~~~ (BitVec.ofNat 4096 sel)) ||| BitVec.ofNat 4096 new

/-- The parts of the first n elements of a vector. -/
def rowParts (f : Sfmt) (n : Nat) : PartMask := BitVec.ofNat 512 (2 ^ (if f = .lns6 then n else f.bits * n / 8) - 1)

/-- R421: the words that n bytes written from an address on replace whole are undamaged. -/
def State.healSpl (s : State) (cl : Nat) (swz : Bool) (a n : Nat) : State :=
  s.heal (fun d =>
    match d with
    | .spl k w => decide (k = cl) && (List.range (n / 8)).any (fun j => decide (linear swz (a + 8 * j) / 8 = w))
    | _ => false)

/-- R421: sidecar entries that a write replaces are undamaged. -/
def State.healSide (s : State) (cl : Nat) (es : List Nat) : State :=
  s.heal (fun d =>
    match d with
    | .side k e => decide (k = cl) && es.contains e
    | _ => false)

/-- R421: the lanes of a partition that n bytes written from a byte address on replace whole are undamaged. -/
def State.healVrf (s : State) (c phys a n : Nat) : State :=
  s.heal (fun d =>
    match d with
    | .lane c' p i => decide (c' = c) && decide (phys ≤ p) && decide (a ≤ 512 * (p - phys) + 4 * i) &&
        decide (512 * (p - phys) + 4 * i + 4 ≤ a + n)
    | _ => false)

/-- R135, R353, R361: an engine has written the lanes `m` of a vector: those of them of which a result that is still to land
writes only a part keep the engine's value. Assumption log 9 (DEDUCED). -/
def Core.overwritten (k : Core) (p : Nat) (m : PartMask) : Core :=
  let of := fun (l : Land) => match l with | .vreg q m' _ _ => if q = p then m' else 0 | _ => 0
  let cut := k.pend.foldl (fun acc q => acc ||| brokenLanes (of q.land)) 0 &&& m
  { k with pend := k.pend.filterMap (fun q =>
      if of q.land &&& cut = 0 then some q else (q.land.without cut).map (fun l => { q with land := l })) }

/-- What an engine's write of n bytes of a partition from a byte address on does beside writing them. -/
def State.engineWrites (s : State) (c phys a n : Nat) : State :=
  (s.healVrf c phys a n).modCore c (fun k =>
    if k.pend.isEmpty then k
    else
      (List.range ((a + n - 1) / 512 + 1 - a / 512)).foldl (fun k j =>
        k.overwritten (phys + a / 512 + j)
          (fullLanes (BitVec.ofNat 512 ((2 ^ n - 1) * 2 ^ a / 2 ^ (512 * (a / 512 + j)))))) k)

/-- R421: whether a word of 8 bytes that a run of bytes touches is damaged. -/
def State.splHurt (s : State) (cl a n : Nat) : Bool :=
  s.damaged.any (fun d =>
    match d with
    | .spl k w => decide (k = cl) && decide (a / 8 ≤ w) && decide (w * 8 < a + n)
    | _ => false)

end Sys2Proof.Machine
end

