-- ==== Sys2Proof/Machine/Matrix.lean ====
section
/-! DEFINITION. Issuing MX operations (spec/07, spec/08, spec/15 R344): the operands in the scratchpad (R167), the
checks of R169, R186 and R196, the scoreboard (R164), and the meaning of every MX opcode at its issue. -/

set_option Elab.async false

namespace Sys2Proof.Machine

/-- R174: the sizes that an MX operation's fields give. -/
def mfK (f : MF) : Nat := 32 * (f.kb.toNat + 1)
def mfM (f : MF) : Nat := f.m.toNat + 1
def mfN (f : MF) : Nat := f.n.toNat + 1

/-! ### Scratchpad operands and their checks (R167–R169) -/

/-- Rows of elements in the scratchpad: address of row 0, pitch, number of rows, elements in a row. -/
structure Area where
  addr : Int
  pitch : Int
  rows : Nat
  cnt : Nat
  deriving DecidableEq, Repr

def Area.at (a : Area) (i : Nat) : Int := a.addr + i * a.pitch

/-- The operand that an address register and its shape register name for the current context. -/
def areaOf (s : State) (n : BitVec 4) (rows cnt : Nat) : Area :=
  { addr := s.cur.xval n.toNat, pitch := shSstr (s.cur.shape n.toNat), rows := rows, cnt := cnt }

/-- The bank formats that the current core's operations take at issue (R168). -/
def bfmts (s : State) : Tab (BitVec 16) := (s.cluster (clusterOf s.foc.core)).bfmt

/-- The format and scale presence of the bank of an address. -/
def areaFmt (s : State) (a : Int) : Sfmt × Bool := bankFmt (bfmts s) (bankOf a.toNat)

/-- R169 check 1: the first offending value of an operand, its register's value apart. -/
def Area.over (s : State) (a : Area) : Option Int :=
  (List.range a.rows).findSome? (fun i => firstBad (a.at i) (rowBytes (areaFmt s (a.at i)).1 a.cnt))

/-- R169 check 1: an address register value outside the 48-bit space. -/
def Area.valueBad (a : Area) : Option Int := if a.addr < 0 ∨ 2 ^ 48 ≤ a.addr then some a.addr else none

/-- R169 check 2: the address, then the pitch. -/
def Area.misaligned (a : Area) : Option Int :=
  if a.addr % 128 ≠ 0 then some a.addr else if a.pitch % 128 ≠ 0 then some a.pitch else none

/-- R169 check 3: the first row outside the core's home banks. -/
def Area.notHome (s : State) (a : Area) : Option Int :=
  ((List.range a.rows).map a.at).find? (fun v => !isHome (localOf s.foc.core) (bankOf v.toNat))

/-- The banks of an operand's rows. -/
def Area.banks (a : Area) : List Nat := ((List.range a.rows).map (fun i => bankOf (a.at i).toNat)).dedup

/-- A fault of the slot in focus with FR.OFFSET bits [47:0] of an exact value. -/
def faultOff (s : State) (code : Nat) (v : Int) : FaultRec :=
  { faultRec code (some s.foc.slot) with offset := low48 v }

/-- R169 checks 1 to 3 in their order. Assumption log 28 (DEDUCED). -/
def areaChecks (s : State) (areas : List Area) (home : Bool) : List (Option FaultRec) :=
  [((areas.findSome? Area.valueBad).or (areas.findSome? (Area.over s))).map (faultOff s fcOverflow),
   (areas.findSome? Area.misaligned).map (faultOff s fcMisaligned),
   (if home then areas.findSome? (Area.notHome s) else none).map (faultOff s fcHomeBank)]

/-- R168: the matrix operand formats. -/
def matrixFmt (f : Sfmt) : Bool :=
  match f with
  | .lns6 | .e4m3 | .e5m2 | .fp16 | .bf16 | .fp32 | .int8 | .ui8 => true
  | _ => false

/-- R168: four times the cell rate of a format. -/
def rate4 (f : Sfmt) : Nat :=
  match f with
  | .lns6 => 16
  | .e4m3 | .e5m2 | .int8 | .ui8 => 8
  | .fp16 | .bf16 => 4
  | _ => 1

/-- Whether some row of an operand has a format or a scale presence that a check refuses. -/
def Area.anyFmt (s : State) (a : Area) (p : Sfmt → Bool → Bool) : Bool :=
  (List.range a.rows).any (fun i => let (f, c) := areaFmt s (a.at i); p f c)

/-- The operand-format fault of a scratchpad operand (R212: OFFSET is its address). -/
def fmtTrap (s : State) (bad : Bool) (a : Area) : Option FaultRec :=
  if bad then some (faultOff s fcFormat a.addr) else none

/-- The operand-format fault of a tile (R212). -/
def tileTrap (s : State) (bad : Bool) (t : Nat) : Option FaultRec :=
  if bad then some { faultRec fcFormat (some s.foc.slot) with offset := 0x800000000000 + t } else none

/-- The matrix-bank-conflict fault (R212: OFFSET is the address of the A row 0). -/
def bankTrap (s : State) (bad : Bool) (a : Area) : Option FaultRec :=
  if bad then some (faultOff s fcBankConflict a.addr) else none

/-- R169 check 5 for a pair: either lies in more than one bank, or both in one bank group. -/
def pairConflict (a b : Area) : Bool :=
  decide (1 < a.banks.length) || decide (1 < b.banks.length) ||
    decide ((a.banks.headD 0) / 16 = (b.banks.headD 0) / 16)

/-! ### The scoreboard and the issue (R163, R164) -/

/-- R164, R202, R347: whether the resources that an operation would hold are busy. -/
def mxBusy (s : State) (o : MxOp) : Bool :=
  let k := s.core s.foc.core
  let d := o.f.acc.toNat
  let chained := fun (p : MxOp) =>
    match p.kind with
    | .mma => decide (p.f.acc = o.f.acc) && !(p.f.bs && decide (p.f.xb = o.f.acc))
    | .mmab => true
    | _ => false
  let tilesBusy :=
    match o.kind with
    | .mma | .mmab =>
      (if o.f.mode = 0 then k.tileBusy d else k.mxs.any (fun p => p.tiles.contains d && !chained p)) ||
        (decide (o.kind = .mma) && o.f.bs && k.tileBusy o.f.xb.toNat)
    | _ => o.tiles.any k.tileBusy
  match o.kind with
  | .cvInit | .cvProbe | .cvCommit | .cvRead => tilesBusy || k.covBusy
  | .sigFold | .sigCheck | .sigGet => tilesBusy || k.sigBusy s.foc.ctx
  | _ => tilesBusy

/-- What an MX operation reads at its issue. `occ` is 1 until the cycle after the issue (R163). -/
def mxOpOf (kind : MxKind) (f : MF) (s : State) : MxOp :=
  let x := s.cur
  { id := s.stamp, ctx := s.foc.ctx, pc := s.foc.pc, kind := kind, f := f, xa := (x.xval f.xa.toNat).toNat,
    xb := (x.xval f.xb.toNat).toNat,
    smp := { shape := x.shape f.xa.toNat, rmode := x.rmode, sc := x.sc, bfmt := bfmts s },
    shapeB := x.shape f.xb.toNat, cpat := x.cpat, ssm := x.ssm, sigref := x.sigref, vbase := x.vbase,
    started := false, occ := 1, deep := 0, got := [] }

/-- An MX operation at its issue: a register fault whatever the guard, then a stall (R26, R164), then the checks. -/
def mxOp (kind : MxKind) (f : MF) (badReg : Bool) (checks : List (Option FaultRec)) (s : State) : Res :=
  if badReg then earlyAt s fcRegister
  else
    guarded f.g s (fun _ =>
      let o := mxOpOf kind f s
      if Config.matrixPlaces ≤ (s.core s.foc.core).mxs.length || mxBusy s o then .stall
      else
        match firstTrap checks with
        | some r => .trap r
        | none =>
          .ok (fun t =>
            { (t.modCore s.foc.core (fun k => { k with mxs := k.mxs ++ [{ o with id := t.stamp }] })) with
              stamp := t.stamp + 1 }))

/-- A tile that the current context may not name (R74). -/
def noTile (s : State) (t : BitVec 4) : Bool := !s.cur.hasTile t.toNat

/-- R175, R178: n vectors from a code on that the current context may not name. -/
def noVecs (s : State) (v : BitVec 12) (n : Nat) : Bool := !decide (v.toNat < 0xC00) || !s.cur.rangeIn v.toNat n

/-! ### Products (R174, R175) -/

/-- MMA (R174, R169). -/
def opMma (f : MF) (s : State) : Res :=
  let a := areaOf s f.xa (mfM f) (mfK f)
  let b := if f.t then areaOf s f.xb (mfN f) (mfK f) else areaOf s f.xb (mfK f) (mfN f)
  let bad := noTile s f.acc || (f.bs && (noTile s f.xb || decide (f.xb = f.acc)))
  if f.bs then
    mxOp .mma f bad
      (areaChecks s [a] true ++ [fmtTrap s (a.anyFmt s (fun q c => (q != .fp16 && q != .bf16) || c)) a]) s
  else
    mxOp .mma f bad
      (areaChecks s [a, b] true ++
        [fmtTrap s (a.anyFmt s (fun q _ => !matrixFmt q)) a,
         fmtTrap s (b.anyFmt s (fun q c => !matrixFmt q || (c && !f.t))) b,
         bankTrap s (pairConflict a b) a,
         if f.t && decide (b.pitch / 128 % 2 = 0) then some (faultOff s fcTranspose b.addr) else none]) s

/-- The meaning of MMA. -/
def execMma (f : MF) (s : State) : Host.Outcome State Fault Refusal := commit (opMma f s) s

/-- MMAB (R175). -/
def opMmab (f : MF) (s : State) : Res :=
  let a := areaOf s f.xa (mfM f) (mfK f)
  mxOp .mmab f (noTile s f.acc || noVecs s f.low (mfK f))
    (areaChecks s [a] true ++ [fmtTrap s (a.anyFmt s (fun q _ => !matrixFmt q)) a]) s

/-- The meaning of MMAB. -/
def execMmab (f : MF) (s : State) : Host.Outcome State Fault Refusal := commit (opMmab f s) s

/-! ### Tile operations (R176–R182) -/

/-- MZERO (R177). -/
def opMzero (f : MF) (s : State) : Res :=
  mxOp .mzero f (noTile s f.acc) [] s

/-- The meaning of MZERO. -/
def execMzero (f : MF) (s : State) : Host.Outcome State Fault Refusal := commit (opMzero f s) s

/-- MLOAD (R178). -/
def opMload (f : MF) (s : State) : Res :=
  if f.bs then mxOp .mload f (noTile s f.acc || noVecs s f.low (mfM f)) [] s
  else
    let a := areaOf s f.xa (mfM f) (mfN f)
    mxOp .mload f (noTile s f.acc)
      (areaChecks s [a] true ++
        [fmtTrap s (a.anyFmt s (fun q _ => decide (10 < q.code))) a, bankTrap s (decide (1 < a.banks.length)) a]) s

/-- The meaning of MLOAD. -/
def execMload (f : MF) (s : State) : Host.Outcome State Fault Refusal := commit (opMload f s) s

/-- MDRAIN (R179). -/
def opMdrain (f : MF) (s : State) : Res :=
  if f.bs then mxOp .mdrain f (noTile s f.acc || noVecs s f.low (mfM f)) [] s
  else
    let a := areaOf s f.xa (mfM f) (mfN f)
    mxOp .mdrain f (noTile s f.acc)
      (areaChecks s [a] false ++
        [fmtTrap s (a.anyFmt s (fun q _ => decide (10 < q.code))) a, bankTrap s (decide (1 < a.banks.length)) a]) s

/-- The meaning of MDRAIN. -/
def execMdrain (f : MF) (s : State) : Host.Outcome State Fault Refusal := commit (opMdrain f s) s

/-- MADD (R180). -/
def opMadd (f : MF) (s : State) : Res :=
  mxOp .madd f (noTile s f.acc || noTile s f.xa) [] s

/-- The meaning of MADD. -/
def execMadd (f : MF) (s : State) : Host.Outcome State Fault Refusal := commit (opMadd f s) s

/-- MSCL (R180). -/
def opMscl (f : MF) (s : State) : Res :=
  mxOp .mscl f (noTile s f.acc) [] s

/-- The meaning of MSCL. -/
def execMscl (f : MF) (s : State) : Host.Outcome State Fault Refusal := commit (opMscl f s) s

/-- MTRN (R180). -/
def opMtrn (f : MF) (s : State) : Res :=
  mxOp .mtrn f (noTile s f.acc || noTile s f.xa || decide (f.xa = f.acc)) [] s

/-- The meaning of MTRN. -/
def execMtrn (f : MF) (s : State) : Host.Outcome State Fault Refusal := commit (opMtrn f s) s

/-- MGATE (R180). -/
def opMgate (f : MF) (s : State) : Res :=
  mxOp .mgate f (noTile s f.acc || noTile s f.xa) [] s

/-- The meaning of MGATE. -/
def execMgate (f : MF) (s : State) : Host.Outcome State Fault Refusal := commit (opMgate f s) s

/-- MCOPY (R180). -/
def opMcopy (f : MF) (s : State) : Res :=
  mxOp .mcopy f (noTile s f.acc || noTile s f.xa) [] s

/-- The meaning of MCOPY. -/
def execMcopy (f : MF) (s : State) : Host.Outcome State Fault Refusal := commit (opMcopy f s) s

/-- MRED (R181). -/
def opMred (f : MF) (s : State) : Res :=
  mxOp .mred f (noTile s f.acc || noTile s f.xa) [] s

/-- The meaning of MRED. -/
def execMred (f : MF) (s : State) : Host.Outcome State Fault Refusal := commit (opMred f s) s

/-- MSTAT (R182). -/
def opMstat (f : MF) (s : State) : Res :=
  mxOp .mstat f (noTile s f.acc) [] s

/-- The meaning of MSTAT. -/
def execMstat (f : MF) (s : State) : Host.Outcome State Fault Refusal := commit (opMstat f s) s

/-! ### Scans (R185, R186) -/

/-- R184–R186: the three scans share one description. M − 1 holds L − 1, N − 1 holds P − 1, and N − 1 of the state is
KB − 1. -/
def scanRes (kind : MxKind) (f : MF) (s : State) : Res :=
  let l := mfM f
  let p := mfN f
  let n := f.kb.toNat + 1
  let x := areaOf s f.xa l p
  let bc := areaOf s f.xb l (2 * n)
  let d := f.acc.toNat
  let lamOk := decide (f.low = 0xFF0) || s.cur.vdst f.low.toNat
  let bad := fun (q : Sfmt) (c : Bool) => (q != .fp32 && q != .fp16 && q != .bf16) || c
  let k := s.core s.foc.core
  mxOp kind f (noTile s f.acc || !s.cur.hasTile (d + 1) || !lamOk)
    (areaChecks s [x, bc] true ++
      [fmtTrap s (x.anyFmt s bad) x, fmtTrap s (bc.anyFmt s bad) bc,
       tileTrap s (!f.t && (k.tile d).int) d, tileTrap s (decide (f.mode = 1) && (k.tile (d + 1)).int) (d + 1),
       bankTrap s (pairConflict x bc) x]) s

/-- MSCAN (R185). -/
def opMscan (f : MF) (s : State) : Res :=
  scanRes .mscan f s

/-- The meaning of MSCAN. -/
def execMscan (f : MF) (s : State) : Host.Outcome State Fault Refusal := commit (opMscan f s) s

/-- MSCANF (R185). -/
def opMscanf (f : MF) (s : State) : Res :=
  scanRes .mscanf f s

/-- The meaning of MSCANF. -/
def execMscanf (f : MF) (s : State) : Host.Outcome State Fault Refusal := commit (opMscanf f s) s

/-- MSCANR (R185). -/
def opMscanr (f : MF) (s : State) : Res :=
  scanRes .mscanr f s

/-- The meaning of MSCANR. -/
def execMscanr (f : MF) (s : State) : Host.Outcome State Fault Refusal := commit (opMscanr f s) s

/-! ### The cover store (R195, R196) -/

/-- R196 check 1, R427: the value of xB where it is outside the signed 64-bit range; else the address of the first byte
outside the store (R225: 4 bytes to an entry). -/
def covOver (e0 : Int) (n : Nat) : Option Int :=
  if !fits64 e0 then some e0
  else if e0 < 0 ∨ 16384 < e0 + n then some (if e0 < 0 ∨ 16384 ≤ e0 then 4 * e0 else 65536)
  else none

/-- R196: the checks of a cover-store operation on a ground range and the source rows, if any. -/
def covChecks (s : State) (f : MF) (rows : Option Area) (tile : Option FaultRec) : List (Option FaultRec) :=
  let e0 := s.cur.xval f.xb.toNat
  let at_ := fun code => Option.map (faultOff s code)
  let e := mfK f
  match rows with
  | none =>
    [at_ fcOverflow (covOver e0 e), at_ fcMisaligned (if e0 % 32 ≠ 0 then some e0 else none), tile]
  | some a =>
    [at_ fcOverflow (covOver e0 e), at_ fcOverflow (a.valueBad.or (a.over s)),
     at_ fcMisaligned (if e0 % 32 ≠ 0 then some e0 else none), at_ fcMisaligned a.misaligned,
     at_ fcHomeBank (a.notHome s), fmtTrap s (a.anyFmt s (fun q _ => !matrixFmt q)) a, tile,
     bankTrap s (decide (1 < a.banks.length)) a]

/-- CV.INIT (R195). -/
def opCvInit (f : MF) (s : State) : Res :=
  let row : Area := { addr := s.cur.xval f.xa.toNat, pitch := 0, rows := 1, cnt := mfK f }
  mxOp .cvInit f (!s.cur.cov) (covChecks s f (if f.low = 2 then some row else none) none) s

/-- The meaning of CV.INIT. -/
def execCvInit (f : MF) (s : State) : Host.Outcome State Fault Refusal := commit (opCvInit f s) s

/-- CV.PROBE (R195). -/
def opCvProbe (f : MF) (s : State) : Res :=
  let rows := areaOf s f.xa (mfM f) (mfK f)
  -- a single row uses no pitch
  let a : Area := { rows with pitch := if mfM f = 1 then 0 else rows.pitch }
  let k := s.core s.foc.core
  mxOp .cvProbe f (!s.cur.cov || noTile s f.acc)
    (covChecks s f (some a) (tileTrap s (decide (f.mode = 1) && (k.tile f.acc.toNat).int) f.acc.toNat)) s

/-- The meaning of CV.PROBE. -/
def execCvProbe (f : MF) (s : State) : Host.Outcome State Fault Refusal := commit (opCvProbe f s) s

/-- CV.COMMIT (R195). -/
def opCvCommit (f : MF) (s : State) : Res :=
  let row : Area := { addr := s.cur.xval f.xa.toNat, pitch := 0, rows := 1, cnt := mfK f }
  mxOp .cvCommit f (!s.cur.cov) (covChecks s f (some row) none) s

/-- The meaning of CV.COMMIT. -/
def execCvCommit (f : MF) (s : State) : Host.Outcome State Fault Refusal := commit (opCvCommit f s) s

/-- CV.READ (R195): its E ÷ 128 destination vectors, from the vector code on, lie in the partition. Assumption log 102
(DEDUCED). -/
def opCvRead (f : MF) (s : State) : Res :=
  mxOp .cvRead f (!s.cur.cov || noTile s f.acc || noVecs s f.low ((mfK f) / 128)) (covChecks s f none none) s

/-- The meaning of CV.READ. -/
def execCvRead (f : MF) (s : State) : Host.Outcome State Fault Refusal := commit (opCvRead f s) s

/-! ### Signatures (R344) -/

/-- SIG.FOLD (R344). -/
def opSigFold (f : MF) (s : State) : Res :=
  mxOp .sigFold f (noTile s f.acc) [] s

/-- The meaning of SIG.FOLD. -/
def execSigFold (f : MF) (s : State) : Host.Outcome State Fault Refusal := commit (opSigFold f s) s

/-- SIG.CHECK (R344). -/
def opSigCheck (f : MF) (s : State) : Res :=
  mxOp .sigCheck f (noTile s f.acc) [] s

/-- The meaning of SIG.CHECK. -/
def execSigCheck (f : MF) (s : State) : Host.Outcome State Fault Refusal := commit (opSigCheck f s) s

/-- SIG.GET (R344). -/
def opSigGet (f : MF) (s : State) : Res :=
  mxOp .sigGet f (noTile s f.acc) [] s

/-- The meaning of SIG.GET. -/
def execSigGet (f : MF) (s : State) : Host.Outcome State Fault Refusal := commit (opSigGet f s) s

end Sys2Proof.Machine
end

