-- ==== Sys2Proof/Machine/MatrixRun.lean ====
section
/-! DEFINITION. The results of matrix and tile operations (R50, R51, R171–R182): each is computed at the operation's
completion, from the state as reads find it. -/

set_option Elab.async false

namespace Sys2Proof.Machine

/-! ### Tiles -/

/-- Element (i, j) of a tile. -/
def Tile.at (t : Tile) (i j : Nat) : Nat := vlane (Tab.get t.rows i 0) j

/-- A vector whose lanes are a list's entries. -/
def vecOfList (xs : List Nat) : Vec := BitVec.ofNat 4096 (xs.foldr (fun x acc => x % 2 ^ 32 + acc * 2 ^ 32) 0)

/-- The first n lanes. -/
def lowLanes (n : Nat) : LaneMask := BitVec.ofNat 128 (2 ^ n - 1)

/-- A tile with the first elements of a row replaced. -/
def Tile.setRow (t : Tile) (i : Nat) (xs : List Nat) : Tile :=
  { t with rows := Tab.put t.rows i (vecSelect (lowLanes xs.length) (vecOfList xs) (Tab.get t.rows i 0)) }

/-- R165: the status bits. -/
def stNan : BitVec 5 := 1
def stInf : BitVec 5 := 2
def stSat : BitVec 5 := 4
def stCvt : BitVec 5 := 8
def stPerr : BitVec 5 := 16

/-- R165: set a status bit when a condition holds. -/
def Tile.flag (t : Tile) (b : BitVec 5) (on : Bool) : Tile := if on then { t with stat := t.stat ||| b } else t

/-- A tile with the elements of an m × n region replaced; a result that saturated sets SAT. -/
def Tile.fill (t : Tile) (m n : Nat) (g : Nat → Nat → Nat × Bool) : Tile :=
  (List.range m).foldl
    (fun t i =>
      let row := (List.range n).map (g i)
      (t.setRow i (row.map Prod.fst)).flag stSat (row.any Prod.snd)) t

/-- R56, R165: SAT(INT32, x) of an integer, and whether it saturated. -/
def sat32 (i : Int) : Nat × Bool :=
  (bitsOfInt 32 (clampInt (-(2 ^ 31)) (2 ^ 31 - 1) i), decide (i < -(2 ^ 31)) || decide (2 ^ 31 ≤ i))

/-- R56, R180: SAT(INT32, x) of a real rounded by RNE; NaN gives 0 and does not saturate. -/
def satFv (v : Fv) : Nat × Bool :=
  match v with
  | .fin s m e => let r : Int := roundMag .rne s m e; sat32 (if s then -r else r)
  | .inf s => (bitsOfInt 32 (if s then -(2 ^ 31) else 2 ^ 31 - 1), true)
  | .nan _ _ => (0, false)

/-! ### Operand elements (R50, R167) -/

/-- An operand element: its format, its own bits, its group's scale entry, and whether a window marked it as fill. -/
structure El where
  fmt : Sfmt
  code : Nat
  sc : Option (BitVec 16)
  fill : Bool
  deriving DecidableEq, Repr

/-- R50: the unscaled value, and the value that R38 decodes. -/
def El.dec (e : El) : Fv := decodeElem e.fmt e.code
def El.val (e : El) : Fv := scaled e.fmt e.code e.sc

/-- R50: sA or sB; 1 for an unscaled operand. -/
def El.factor (e : El) : Fv :=
  match e.sc with
  | some w => decodeFf bf16 w.toNat
  | none => .one

/-- R38: an entry that decodes its group to NaN. -/
def El.bad (e : El) : Bool :=
  match e.sc with
  | some w => scaleBad w
  | none => false

def Row.el (r : Row) (k : Cluster) (sc : Tab (BitVec 16)) (e : Nat) : El :=
  { fmt := r.fmt, code := r.code e, sc := r.scale k sc e, fill := r.isFill k e }

/-- An unscaled element that lies outside the scratchpad. -/
def El.plain (f : Sfmt) (code : Nat) : El := { fmt := f, code := code, sc := none, fill := false }

/-! ### The order of matrix sums (R50, R51, R171) -/

/-- R171: the cell function on exact values. -/
def cellVal (cell : Nat) (u v : Fv) : Fv :=
  match cell with
  | 0 => Fv.mul u v
  | 1 => (Fv.add .rne u v.neg).abs
  | _ =>
    match Fv.add .rne u v.neg with
    | .nan s p => .nan s p
    | d => if d.sign then .zero else d

/-- R32, R50: the cell function on unscaled elements; two LNS6 codes multiply by their exponents. -/
def cellTerm (cell : Nat) (x y : El) : Fv :=
  if cell = 0 ∧ x.fmt = .lns6 ∧ y.fmt = .lns6 then lnsMul x.code y.code else cellVal cell x.dec y.dec

/-- R50, R51: t of a sub-block, as FP32 bits. Assumption log 22 (DEDUCED). -/
def blockTerm (cell : Nat) (xs : List (El × El)) : Nat :=
  match xs with
  | [] => 0
  | (a, b) :: _ =>
    let live := xs.filter (fun p => !p.1.fill && !p.2.fill)
    if a.bad || b.bad then fp32.canonNan
    else if a.sc = some 0 ∨ b.sc = some 0 then
      rne32 (sumTerms .rne (live.map (fun p => cellVal cell p.1.val p.2.val)))
    else
      let p := sumTerms .rne (live.map (fun p => cellTerm cell p.1 p.2))
      rne32 (Fv.mul (Fv.mul p a.factor) b.factor)

/-- The integer value of an element. -/
def El.int (e : El) : Int := if e.fmt.isSigned then intOfBits e.fmt.bits e.code else (e.code : Int)

/-- R171: the cell function on integers. -/
def cellInt (cell : Nat) (u v : Int) : Int :=
  match cell with
  | 0 => u * v
  | 1 => |u - v|
  | _ => max 0 (u - v)

/-- R51: p of a K-block on the integer path. -/
def blockInt (cell : Nat) (xs : List (El × El)) : Int :=
  xs.foldl (fun acc p => if p.1.fill || p.2.fill then acc else acc + cellInt cell p.1.int p.2.int) 0

/-- R171: one step of MAXPLUS. -/
def maxPlus (acc : Nat) (x y : El) : Nat :=
  if x.fill || y.fill || isNanRaw fp32 acc then acc
  else
    let t := rne32 (Fv.add .rne x.val y.val)
    if isNanRaw fp32 t then fp32.canonNan else if orderKey fp32 acc < orderKey fp32 t then t else acc

/-- R50, R171: the cell operation of a K-block. -/
def cellOf (f : MF) (cpat : BitVec 48) (kb : Nat) : Nat :=
  if f.cell = 7 then cpat.toNat / 2 ^ (3 * (kb % 16)) % 8 else f.cell.toNat

/-- R50: the negation of FP32 bits. -/
def neg32 (w : Nat) : Nat := w ^^^ fp32.signBit

/-- R50, R51, R171: an output element, from the K elements of a row of A and a column of B, and whether it saturated.
`bs` is the sub-block, `old` the tile's bits. -/
def dotElem (f : MF) (cpat : BitVec 48) (bs : Nat) (ints : Bool) (a b : Nat → El) (old : Nat) : Nat × Bool :=
  let kk := mfK f
  let run := fun (k0 n : Nat) => (List.range n).map (fun d => (a (k0 + d), b (k0 + d)))
  if f.cell = 2 then
    if ints then
      let start : Int := if f.mode = 0 then -(2 ^ 31) else intOfBits 32 old
      let r := (run 0 kk).foldl (fun acc p =>
        if p.1.fill || p.2.fill then acc else max acc (p.1.int + p.2.int)) start
      (bitsOfInt 32 r, false)
    else
      ((run 0 kk).foldl (fun acc p => maxPlus acc p.1 p.2) (if f.mode = 0 then 0xFF800000 else old), false)
  else if ints then
    let (acc, sat) := (List.range (kk / 32)).foldl
      (fun (q : Int × Bool) kb =>
        let p := blockInt (cellOf f cpat kb) (run (32 * kb) 32)
        let (w, s) := sat32 (if f.mode = 2 then q.1 - p else q.1 + p)
        (intOfBits 32 w, q.2 || s))
      (if f.mode = 0 then 0 else intOfBits 32 old, false)
    (bitsOfInt 32 acc, sat)
  else
    let r := (List.range (kk / bs)).foldl
      (fun (q : Option Nat) i =>
        let t0 := blockTerm (cellOf f cpat (bs * i / 32)) (run (bs * i) bs)
        let t := if f.mode = 2 then neg32 t0 else t0
        match q with
        | none => some t
        | some acc => some (fAdd fp32 .rne acc t))
      (if f.mode = 0 then none else some old)
    (r.getD 0, false)

/-! ### What an operation in flight names -/

/-- The cluster of an operation's core as its reads find it. -/
def mxCluster (c : Nat) (v : State) : Cluster := v.cluster (clusterOf c)

/-- The addresses of the rows of an operand at completion: `b` selects xB and its shape register. -/
def MxOp.rowAddr (o : MxOp) (b : Bool) (i : Nat) : Nat :=
  let sh := if b then o.shapeB else o.smp.shape
  (((if b then o.xb else o.xa : Nat) : Int) + i * shSstr sh).toNat

/-- Rows of an operand. -/
def MxOp.rows (o : MxOp) (k : Cluster) (b : Bool) (rows cnt : Nat) : List Row :=
  (List.range rows).map (fun i => k.row o.smp.bfmt (o.rowAddr b i) cnt)

def Row.none : Row := { fmt := .fp32, scl := false, bits := 0, bit0 := 0, side0 := 0 }

/-- The row of a list at an index. -/
def rowAt (rs : List Row) (i : Nat) : Row := rs.getD i Row.none

/-- A vector that the operation's code names. -/
def MxOp.vecAt (o : MxOp) (k : Core) (i : Nat) : Vec := k.vec (64 * o.vbase + o.f.low.toNat + i)

/-- Write one tile of a core. -/
def State.modTile (s : State) (c t : Nat) (g : Tile → Tile) : State := s.modCore c (fun k => k.setTile t (g (k.tile t)))

/-- R35, R174: a tile element as a BF16 operand. -/
def tileBf16 (t : Tile) (i j : Nat) : Nat :=
  encodeElem .bf16 .rne (if t.int then .ofInt (intOfBits 32 (t.at i j)) else decodeFf fp32 (t.at i j))

/-- R168: the sub-block for four times the smaller rate. -/
def subBlock (r4 : Nat) : Nat := if 8 ≤ r4 then 32 else if 4 ≤ r4 then 8 else 4

/-- R168: whether a row takes the integer path. -/
def intRow (r : Row) : Bool := (r.fmt = .int8 || r.fmt = .ui8) && !r.scl

/-- R174, R175: the product, given B's elements, its least rate and whether it is unscaled INT8 or UI8.
Assumption log 23 (DEDUCED). -/
def runProduct (c : Nat) (o : MxOp) (b : Nat → Nat → El) (rb : Nat) (ib : Bool) (v s : State) : State :=
  let k := mxCluster c v
  let f := o.f
  let ra := o.rows k false (mfM f) (mfK f)
  let ints := ib && ra.all intRow
  let r4 := ra.foldl (fun m r => min m (rate4 r.fmt)) rb
  let old := (v.core c).tile f.acc.toNat
  s.modTile c f.acc.toNat (fun t =>
    { t.fill (mfM f) (mfN f) (fun i j =>
        let r := rowAt ra i
        dotElem f o.cpat (subBlock r4) ints (r.el k o.smp.sc) (fun kk => b kk j) (old.at i j)) with int := ints })

/-- R174: MMA. -/
def runMma (c : Nat) (o : MxOp) (v s : State) : State :=
  let k := mxCluster c v
  let f := o.f
  if f.bs then
    let t := (v.core c).tile f.xb.toNat
    runProduct c o (fun kk j => El.plain .bf16 (if f.t then tileBf16 t j kk else tileBf16 t kk j)) 4 false v s
  else
    let rb := if f.t then o.rows k true (mfN f) (mfK f) else o.rows k true (mfK f) (mfN f)
    let get := fun kk j => if f.t then (rowAt rb j).el k o.smp.sc kk else (rowAt rb kk).el k o.smp.sc j
    runProduct c o get (rb.foldl (fun m r => min m (rate4 r.fmt)) 16) (rb.all intRow) v s

/-- R175: MMAB. -/
def runMmab (c : Nat) (o : MxOp) (v s : State) : State :=
  let fmt := (Sfmt.ofCode o.f.xb.toNat).getD .fp32
  runProduct c o (fun kk j => El.plain fmt (vecElem fmt (o.vecAt (v.core c) kk) j)) (rate4 fmt)
    (fmt = .int8 || fmt = .ui8) v s

/-! ### Tile operations (R177–R182) -/

/-- R177: the element value and the kind of a value code. -/
def mzeroVal (c : Nat) : Nat × Bool :=
  match c with
  | 0 => (0, false)
  | 1 => (0xFF800000, false)
  | 2 => (0, true)
  | _ => (0x80000000, true)

/-- R177: MZERO. -/
def runMzero (c : Nat) (o : MxOp) (s : State) : State :=
  let (w, k) := mzeroVal (o.f.low.toNat % 4)
  s.modTile c o.f.acc.toNat (fun t => { t.fill (mfM o.f) (mfN o.f) (fun _ _ => (w, false)) with int := k })

/-- R178: an element's exact value as a tile element; a signalling NaN is quieted, and a scaled value outside the exponents
of FP32 is rounded by RNE. Assumption log 83 (DEDUCED). -/
def loadElem (e : El) : Nat :=
  if e.fmt.isInt && e.sc.isNone then encodeElem .int32 .rne e.dec else encodeElem .fp32 .rne e.val

/-- R178: MLOAD. -/
def runMload (c : Nat) (o : MxOp) (v s : State) : State :=
  let f := o.f
  let k := mxCluster c v
  let fmt := (Sfmt.ofCode f.xb.toNat).getD .fp32
  let rs := if f.bs then [] else o.rows k false (mfM f) (mfN f)
  let r0 := rowAt rs 0
  let get := fun i j =>
    if f.bs then El.plain fmt (vecElem fmt (o.vecAt (v.core c) i) j) else (rowAt rs i).el k o.smp.sc j
  s.modTile c f.acc.toNat (fun t =>
    { t.fill (mfM f) (mfN f) (fun i j => (loadElem (get i j), false)) with
      int := if f.bs then fmt.isInt else r0.fmt.isInt && !r0.scl })

/-- The layout of a floating-point format with an exponent range that no value here exceeds. -/
def wideOf (f : Sfmt) : Ffmt :=
  match f with
  | .fp16 => ⟨14, 10⟩
  | .bf16 => ⟨14, 7⟩
  | .e4m3 => ⟨14, 3⟩
  | .e5m2 => ⟨14, 2⟩
  | _ => ⟨14, 23⟩

/-- R165: the largest finite value of a floating-point format. -/
def maxFinite (f : Sfmt) : Fv :=
  match f with
  | .fp16 => decodeElem .fp16 0x7BFF
  | .bf16 => decodeElem .bf16 0x7F7F
  | .e4m3 => decodeElem .e4m3 0x7E
  | .e5m2 => decodeElem .e5m2 0x7B
  | _ => decodeElem .fp32 0x7F7FFFFF

/-- R165: CVT for a value converted into a format under a mode. Assumption log 21 (DEDUCED). -/
def cvtLost (f : Sfmt) (mode : Rmode) (v : Fv) : Bool :=
  match v with
  | .nan _ _ => f.isInt
  | .inf _ => f.isInt || decide (f = .e4m3) || decide (f = .lns6)
  | .fin s m e =>
    if f.isInt then decide (intHi f.isSigned f.bits < (roundMag mode s m e : Int))
    else if f = .lns6 then decide (Fv.cmp (.fin false (lnsMag 31 + 2 ^ 23) (-20)) (.fin false m e) ≠ .gt)
    else decide (Fv.cmp (decodeFf (wideOf f) (encodeFf (wideOf f) mode v)).abs (maxFinite f) = .gt)

/-- R42, R179: the destination of a drain: format, and the value of sc0 for a scaled bank. -/
def drainVal (scl : Bool) (sc : Tab (BitVec 16)) (v : Fv) : Fv := if scl then unscaleVal (Tab.get sc 0 0) v else v

/-- The exact value of a tile element. -/
def Tile.val (t : Tile) (i j : Nat) : Fv :=
  if t.int then .ofInt (intOfBits 32 (t.at i j)) else decodeFf fp32 (t.at i j)

/-- R42: a row of a scaled destination takes index 0 in every group. -/
def Cluster.zeroSide (k : Cluster) (f : Sfmt) (a n : Nat) : Cluster :=
  { k with side := (List.range ((n + 31) / 32)).foldl (fun t g => Tab.put t (sideEntry f a + g) 0) k.side }

/-- R179: one row of a drain, stored. -/
def storeRow (c : Nat) (o : MxOp) (i : Nat) (codes : List Nat) (s : State) : State :=
  let a := o.rowAddr false i
  let (f, scl) := bankFmt o.smp.bfmt (bankOf a)
  let n := codes.length
  let cl := clusterOf c
  let v := codes.foldr (fun x acc => x + acc * 2 ^ f.bits) 0
  let s1 := (s.healSpl cl false a (rowBytes f n)).modCluster cl (fun k => k.putRow false a (f.bits * n) v)
  if scl then
    (s1.healSide cl ((List.range ((n + 31) / 32)).map (· + sideEntry f a))).modCluster cl (fun k => k.zeroSide f a n)
  else s1

/-- R179: MDRAIN. -/
def runMdrain (c : Nat) (o : MxOp) (v s : State) : State :=
  let f := o.f
  let d := f.acc.toNat
  let t := (v.core c).tile d
  let (fmt, scl) :=
    if f.bs then ((Sfmt.ofCode f.xb.toNat).getD .fp32, false) else bankFmt o.smp.bfmt (bankOf o.xa)
  let mode := Rmode.ofCode o.smp.rmode.toNat
  let vals := (List.range (mfM f)).map (fun i => (List.range (mfN f)).map (t.val i))
  let outs := vals.map (List.map (drainVal scl o.smp.sc))
  let codes := outs.map (List.map (encodeElem fmt mode))
  let s1 :=
    if f.bs then
      (codes.zipIdx).foldl
        (fun s p =>
          let q := 64 * o.vbase + f.low.toNat + p.2
          s.settle c o.ctx (.vreg q (rowParts fmt p.1.length) (vecPut fmt ((s.core c).vec q) p.1) fmt.bits)) s
    else (codes.zipIdx).foldl (fun s p => storeRow c o p.2 p.1 s) s
  s1.modTile c d (fun u =>
    let u1 := ((u.flag stNan (!t.int && vals.any (fun r => r.any Fv.isNan))).flag stInf
      (!t.int && vals.any (fun r => r.any Fv.isInf))).flag stCvt (outs.any (fun r => r.any (cvtLost fmt mode)))
    if !f.bs && f.low.getLsbD 0 then u1.fill (mfM f) (mfN f) (fun _ _ => (0, false)) else u1)

/-- A tile operation on the region: D and S as read, and the element function. -/
def runRegion (c : Nat) (o : MxOp) (s : State) (g : Nat → Nat → Nat × Bool) : State :=
  s.modTile c o.f.acc.toNat (fun t => t.fill (mfM o.f) (mfN o.f) g)

/-- R180: MADD. -/
def runMadd (c : Nat) (o : MxOp) (v s : State) : State :=
  let d := (v.core c).tile o.f.acc.toNat
  let q := (v.core c).tile o.f.xa.toNat
  runRegion c o s (fun i j =>
    let x := d.at i j
    let y := q.at i j
    if d.int then
      sat32 (if o.f.mode = 2 then intOfBits 32 x - intOfBits 32 y else intOfBits 32 x + intOfBits 32 y)
    else (if o.f.mode = 2 then fSub fp32 .rne x y else fAdd fp32 .rne x y, false))

/-- R180: MSCL. -/
def runMscl (c : Nat) (o : MxOp) (v s : State) : State :=
  let d := (v.core c).tile o.f.acc.toNat
  let w := decodeFf bf16 (Tab.get o.smp.sc o.f.xa.toNat 0).toNat
  let w32 := encodeFf fp32 .rne w
  runRegion c o s (fun i j =>
    if d.int then satFv (Fv.mul (.ofInt (intOfBits 32 (d.at i j))) w) else (fMul fp32 .rne (d.at i j) w32, false))

/-- R180: MTRN. -/
def runMtrn (c : Nat) (o : MxOp) (v s : State) : State :=
  let q := (v.core c).tile o.f.xa.toNat
  s.modTile c o.f.acc.toNat (fun t =>
    { t.fill (mfN o.f) (mfM o.f) (fun j i => (q.at i j, false)) with int := q.int })

/-- R180: MGATE. -/
def runMgate (c : Nat) (o : MxOp) (v s : State) : State :=
  let d := (v.core c).tile o.f.acc.toNat
  let q := (v.core c).tile o.f.xa.toNat
  runRegion c o s (fun i j =>
    let x := d.at i j
    let y := q.at i (if o.f.low = 1 then 0 else j)
    if d.int then sat32 (intOfBits 32 x * intOfBits 32 y) else (fMul fp32 .rne x y, false))

/-- R180: MCOPY. -/
def runMcopy (c : Nat) (o : MxOp) (v s : State) : State :=
  let q := (v.core c).tile o.f.xa.toNat
  s.modTile c o.f.acc.toNat (fun t =>
    { t.fill (mfM o.f) (mfN o.f) (fun i j => (q.at i j, false)) with int := q.int })

/-- R181: the reduction of one row, with ACC's old value. Assumption log 85 (DEDUCED). -/
def redRow (q : Tile) (op : Nat) (acc : Bool) (n i old : Nat) : Nat × Bool :=
  let ty : VT := if q.int then .i32 else .f32
  if op = 0 then
    if q.int then
      let (w, s) := sat32 ((List.range n).foldl (fun a j => a + intOfBits 32 (q.at i j)) 0)
      if acc then let (w2, s2) := sat32 (intOfBits 32 old + intOfBits 32 w); (w2, s || s2) else (w, s)
    else
      let w := reduceTree (fAdd fp32 .rne) (fun j => if j < n then q.at i j else fp32.signBit)
      (if acc then fAdd fp32 .rne old w else w, false)
  else
    let mm := fun x y => if op = 1 then eMax ty x y 0 else eMin ty x y 0
    let w := reduceTree mm (fun j => if j < n then q.at i j else redIdent ty (op = 1))
    (if acc then mm old w else w, false)

/-- R181: MRED. -/
def runMred (c : Nat) (o : MxOp) (v s : State) : State :=
  let d := (v.core c).tile o.f.acc.toNat
  let q := (v.core c).tile o.f.xa.toNat
  s.modTile c o.f.acc.toNat (fun t =>
    { t.fill (mfM o.f) 1 (fun i _ => redRow q (o.f.low.toNat % 4) (o.f.low.getLsbD 2) (mfN o.f) i (d.at i 0)) with
      int := q.int })

/-- R182: MSTAT. -/
def runMstat (c : Nat) (o : MxOp) (s : State) : State :=
  s.modTile c o.f.acc.toNat (fun t => { t with stat := t.stat &&& ~~~ (o.f.low.setWidth 5) })

end Sys2Proof.Machine
end

