-- ==== Sys2Proof/Machine/ScanRun.lean ====
section
/-! DEFINITION. The results of scans (R184–R190), cover-store operations (R194–R200) and signatures (R342–R347); the
start and the completion of MX operations (R163, R164, R183, R192, R201, R344). -/

set_option Elab.async false

namespace Sys2Proof.Machine

/-! ### The state-space scan (R187–R189) -/

/-- R51, R425: the product of two operands as a term of a sum: none where an operand is a fill element. -/
def mulTerm (a b : Option Fv) : Option Fv :=
  match a, b with
  | some x, some y => some (Fv.mul x y)
  | _, _ => none

/-- R50, R51: a sub-block of terms; those of fill elements add nothing. -/
def subSum (ts : List (Option Fv)) : Nat := rne32 (sumTerms .rne (ts.filterMap id))

/-- R187: bsum of a list of terms, in sub-blocks of 32; `n` bounds the number of sub-blocks that follow the first. -/
def bsumFrom (acc : Nat) : Nat → List (Option Fv) → Nat
  | 0, _ => acc
  | n + 1, ts => if ts.isEmpty then acc else bsumFrom (fAdd fp32 .rne acc (subSum (ts.take 32))) n (ts.drop 32)

def bsum (ts : List (Option Fv)) : Nat := bsumFrom (subSum (ts.take 32)) (ts.length / 32) (ts.drop 32)

/-- R189: every NaN written is canonical. -/
def canon32 (w : Nat) : Nat := if isNanRaw fp32 w then fp32.canonNan else w

def v32 (w : Nat) : Fv := decodeFf fp32 w

/-- The operands of a scan as read: λ; X, B and C as values, none for a fill element (R51); and the initial state as
bits. -/
structure ScanIn where
  l : Nat
  n : Nat
  p : Nat
  lam : List Nat
  x : Nat → Nat → Option Fv
  b : Nat → Nat → Option Fv
  c : Nat → Nat → Option Fv
  h0 : Nat → Nat → Nat

/-- R184: a log-decay under CLAMP. -/
def clampLam (clamp : Bool) (w : Nat) : Nat :=
  if clamp && !isNanRaw fp32 w && decide (0x80000000 > w) then 0 else w

/-- R187: one step of the recurrent form on the state, a list of rows. -/
def scanStep (q : ScanIn) (h : List (List Nat)) (t : Nat) : List (List Nat) :=
  let d := v32 (rne32 (Fv.exp2 (v32 (q.lam.getD t 0))))
  h.zipIdx.map (fun r => r.1.zipIdx.map (fun e =>
    subSum [some (Fv.mul d (v32 e.1)), mulTerm (q.b t r.2) (q.x t e.2)]))

/-- R187: one row of outputs. -/
def scanOut (q : ScanIn) (h : List (List Nat)) (t : Nat) : List Nat :=
  (List.range q.p).map (fun p => bsum (h.zipIdx.map (fun r => mulTerm (q.c t r.2) (some (v32 (r.1.getD p 0))))))

/-- The state rows at the start. -/
def ScanIn.start (q : ScanIn) : List (List Nat) := (List.range q.n).map (fun n => (List.range q.p).map (q.h0 n))

/-- R187: the recurrent form: the rows of y, and the final state. -/
def scanRecurrent (q : ScanIn) : List (List Nat) × List (List Nat) :=
  (List.range q.l).foldl
    (fun (acc : List (List Nat) × List (List Nat)) t =>
      let h := scanStep q acc.2 t
      (acc.1 ++ [scanOut q h t], h)) ([], q.start)

/-- R188: RNE32(2^(λ[s + 1] + … + λ[t])). -/
def scanDecay (q : ScanIn) (s t : Nat) : Nat :=
  rne32 (Fv.exp2 (sumTerms .rne (((q.lam.drop s).take (t - s)).map v32)))

/-- R188: the chunked form. -/
def scanChunked (q : ScanIn) : List (List Nat) × List (List Nat) :=
  let h0 := q.start
  let g := fun t => v32 (scanDecay q 0 (t + 1))
  let w := fun t s => v32 (scanDecay q (s + 1) (t + 1))
  let mul32 := fun (a b : Fv) => v32 (rne32 (Fv.mul a b))
  let gm := fun t s =>
    mul32 (v32 (bsum ((List.range q.n).map (fun n => mulTerm (q.c t n) (q.b s n))))) (w t s)
  let row := fun t =>
    let gs := (List.range (t + 1)).map (gm t)
    (List.range q.p).map (fun p =>
      let inter := mul32 (g t) (v32 (bsum (h0.zipIdx.map (fun r => mulTerm (q.c t r.2) (some (v32 (r.1.getD p 0)))))))
      let intra := bsum (gs.zipIdx.map (fun e => mulTerm (some e.1) (q.x e.2 p)))
      rne32 (Fv.add .rne inter (v32 intra)))
  let last := q.l - 1
  let ws := (List.range q.l).map (w last)
  let fin := h0.zipIdx.map (fun r => r.1.zipIdx.map (fun e =>
    let carry := mul32 (g last) (v32 e.1)
    let add := bsum (ws.zipIdx.map (fun u => mulTerm ((q.b u.2 r.2).map (mul32 u.1)) (q.x u.2 e.2)))
    rne32 (Fv.add .rne carry (v32 add))))
  ((List.range q.l).map row, fin)

/-- R190: whether a scan takes the chunked form. -/
def scanIsChunked (kind : MxKind) (l : Nat) (ssm : BitVec 32) : Bool :=
  match kind with
  | .mscanr => false
  | .mscanf => true
  | _ => decide (ssm.toNat % 256 ≤ l)

/-- A tile with the rows of a list written. -/
def Tile.setRows (t : Tile) (rows : List (List Nat)) : Tile := (rows.zipIdx).foldl (fun t r => t.setRow r.2 r.1) t

/-- R184–R190: MSCAN, MSCANF and MSCANR. -/
def runScan (c : Nat) (o : MxOp) (v s : State) : State :=
  let f := o.f
  let k := mxCluster c v
  let n := f.kb.toNat + 1
  let d := f.acc.toNat
  let xs := o.rows k false (mfM f) (mfN f)
  let bc := o.rows k true (mfM f) (2 * n)
  let h := (v.core c).tile d
  let y := (v.core c).tile (d + 1)
  let lam := if f.low = 0xFF0 then 0 else o.vecAt (v.core c) 0
  let q : ScanIn :=
    { l := mfM f, n := n, p := mfN f
      lam := (List.range (mfM f)).map (fun t => clampLam (o.ssm.getLsbD 8) (vlane lam t)),
      x := fun t p => (rowAt xs t).term k o.smp.sc p, b := fun t i => (rowAt bc t).term k o.smp.sc i,
      c := fun t i => (rowAt bc t).term k o.smp.sc (n + i), h0 := fun i p => if f.t then 0 else h.at i p }
  let (ys, hs) := if scanIsChunked o.kind q.l o.ssm then scanChunked q else scanRecurrent q
  let outs := ys.zipIdx.map (fun r => r.1.zipIdx.map (fun e =>
    canon32 (if f.mode = 1 then fAdd fp32 .rne (y.at r.2 e.2) e.1 else e.1)))
  (s.modTile c d (fun t => { t.setRows (hs.map (List.map canon32)) with int := false })).modTile c (d + 1)
    (fun t => { t.setRows outs with int := false })

/-! ### The cover store (R194–R200) -/

/-- An entry of the cover store. -/
def Core.covAt (k : Core) (e : Nat) : Nat := vlane (Tab.get k.cov (e / 128) 0) (e % 128)

/-- Entries from e0 on replaced; e0 is a multiple of 32. -/
def Core.setCov (k : Core) (e0 : Nat) (xs : List Nat) : Core :=
  let n := xs.length
  let tab := (List.range ((e0 + n + 127) / 128 - e0 / 128)).foldl
    (fun tab r =>
      let b := e0 / 128 + r
      let sel := maskOf (fun l => decide (e0 ≤ 128 * b + l) && decide (128 * b + l < e0 + n))
      let new := vecOfLanes (fun l => if e0 ≤ 128 * b + l then xs.getD (128 * b + l - e0) 0 else 0)
      Tab.put tab b (vecSelect sel new (Tab.get tab b 0))) k.cov
  { k with cov := tab }

/-- R194: NaN is taken as −∞. -/
def covVal (w : Nat) : Nat := if isNanRaw fp32 w then 0xFF800000 else w

/-- The candidate value of an element, as FP32 bits (exact). -/
def El.cov (e : El) : Nat := covVal (rne32 e.val)

/-- R196: the term of a value against an entry. -/
def covTerm (v c : Nat) : Fv :=
  if Fv.cmp (v32 v) (v32 c) = .gt then Fv.add .rne (v32 v) (v32 c).neg else .zero

/-- R197: CV.INIT. -/
def runCvInit (c : Nat) (o : MxOp) (v s : State) : State :=
  let e := mfK o.f
  let row := (mxCluster c v).row o.smp.bfmt o.xa e
  let xs := (List.range e).map (fun i =>
    match o.f.low.toNat % 4 with
    | 0 => 0xFF800000
    | 1 => 0
    | _ => (row.el (mxCluster c v) o.smp.sc i).cov)
  (s.modCore c (fun k => k.setCov o.xb xs)).heal
    (fun d => match d with | .cov c' i => decide (c' = c) && decide (o.xb ≤ i) && decide (i < o.xb + e) | _ => false)

/-- R198: CV.PROBE. A NaN of aT that a gain is added to stays. Assumption log 20 (DEDUCED). -/
def runCvProbe (c : Nat) (o : MxOp) (v s : State) : State :=
  let f := o.f
  let k := v.core c
  let cl := mxCluster c v
  let rs := o.rows cl false (mfM f) (mfK f)
  let cov := (List.range (mfK f)).map (fun e => k.covAt (o.xb + e))
  let t0 := k.tile f.acc.toNat
  let gains := (List.range (mfM f)).map (fun j =>
    let r := rowAt rs j
    let gain := bsum (cov.zipIdx.map (fun e =>
      let x := r.el cl o.smp.sc e.2
      if x.fill then none else some (covTerm x.cov e.1)))
    if f.mode = 1 then fAdd fp32 .rne (t0.at 0 j) gain else gain)
  s.modTile c f.acc.toNat (fun t => { t.setRow 0 gains with int := false })

/-- R199: CV.COMMIT. -/
def runCvCommit (c : Nat) (o : MxOp) (v s : State) : State :=
  let e := mfK o.f
  let cl := mxCluster c v
  let row := cl.row o.smp.bfmt o.xa e
  let xs := (List.range e).map (fun i =>
    let new := (row.el cl o.smp.sc i).cov
    let old := (v.core c).covAt (o.xb + i)
    if Fv.cmp (v32 new) (v32 old) = .gt then new else (s.core c).covAt (o.xb + i))
  s.modCore c (fun k => k.setCov o.xb xs)

/-- R200: what a CV.READ reads. -/
def readCov (k : Core) (o : MxOp) : List Vec :=
  (List.range (mfK o.f / 128)).map (fun r => vecOfLanes (fun i => k.covAt (o.xb + 128 * r + i)))

/-- R200: CV.READ writes what it read. -/
def runCvRead (c : Nat) (o : MxOp) (s : State) : State :=
  (o.got.zipIdx).foldl
    (fun s q => s.settle c o.ctx (.vreg (64 * o.vbase + o.f.low.toNat + q.2) allParts q.1 32)) s

/-- R201: the accesses of the store of a CV.INIT, a CV.COMMIT or a CV.READ, made as it starts, at place i. -/
def cvAccess (c i : Nat) (o : MxOp) (v s : State) : State :=
  match o.kind with
  | .cvInit => runCvInit c o v s
  | .cvCommit => runCvCommit c o v s
  | .cvRead =>
    s.modCore c (fun k => { k with mxs := k.mxs.modify i (fun q => { q with got := readCov (v.core c) o }) })
  | _ => s

/-! ### Signatures (R342–R347) -/

/-- R342: one byte folded into the CRC. -/
def crcByte (crc : Word) (u : Nat) : Word :=
  (List.range 8).foldl
    (fun c _ => if c.msb then (c <<< 1) ^^^ 0x42F0E1EBA9EA3693#64 else c <<< 1)
    (crc ^^^ (BitVec.ofNat 64 u <<< 56))

/-- R345: the four bytes of an element, least significant first. -/
def crcElem (crc : Word) (w : Nat) : Word :=
  (List.range 4).foldl (fun c i => crcByte c (w / 256 ^ i % 256)) crc

/-- SIG and what GETS sees of it 32 cycles later (R347). -/
def State.setSig (s : State) (c x : Nat) (w : Word) : State :=
  (s.modCtx c x (fun y => { y with sig := w })).land c x (.sigv w) 31

/-- R345: SIG.FOLD. -/
def runSigFold (c : Nat) (o : MxOp) (v s : State) : State :=
  let t := (v.core c).tile o.f.acc.toNat
  let n := mfN o.f
  s.setSig c o.ctx ((List.range (mfM o.f * n)).foldl (fun crc e => crcElem crc (t.at (e / n) (e % n))) (s.ctx c o.ctx).sig)

/-- R346: SIG.CHECK. -/
def runSigCheck (c : Nat) (o : MxOp) (s : State) : State :=
  let same := decide ((s.ctx c o.ctx).sig = o.sigref)
  let s1 := s.settle c o.ctx (.sreg (o.f.low.toNat % 64) (if same then 0 else 1))
  if same then s1 else (s1.count (dieOf c) erSigmis).notify (.sigMismatch c o.ctx)

/-- R346: SIG.GET. -/
def runSigGet (c : Nat) (o : MxOp) (s : State) : State :=
  s.settle c o.ctx (.sreg (o.f.low.toNat % 64) (s.ctx c o.ctx).sig)

/-! ### Start and completion -/

/-- The result of an MX operation at its completion, from the state `v` as reads find it. -/
def runMx (c : Nat) (o : MxOp) (v s : State) : State :=
  match o.kind with
  | .mma => runMma c o v s
  | .mmab => runMmab c o v s
  | .mzero => runMzero c o s
  | .mload => runMload c o v s
  | .mdrain => runMdrain c o v s
  | .madd => runMadd c o v s
  | .mscl => runMscl c o v s
  | .mtrn => runMtrn c o v s
  | .mstat => runMstat c o s
  | .mscan | .mscanf | .mscanr => runScan c o v s
  | .cvInit | .cvCommit => s
  | .cvProbe => runCvProbe c o v s
  | .cvRead => runCvRead c o s
  | .sigFold => runSigFold c o v s
  | .sigCheck => runSigCheck c o s
  | .sigGet => runSigGet c o s
  | .mred => runMred c o v s
  | .mgate => runMgate c o v s
  | .mcopy => runMcopy c o v s

/-- R163, R192, R201: the pipe of an operation: true for the array pipe. -/
def MxKind.onArray (k : MxKind) : Bool :=
  match k with
  | .mma | .mmab | .mscan | .mscanf | .mscanr | .cvProbe => true
  | _ => false

/-- R168: four times the least rate of the rows of an operand. -/
def MxOp.minRate (o : MxOp) (b : Bool) (rows : Nat) (r0 : Nat) : Nat :=
  (List.range rows).foldl (fun m i => min m (rate4 (bankFmt o.smp.bfmt (bankOf (o.rowAddr b i))).1)) r0

/-- R183, R192, R201, R344: the occupancy O and the depth P. -/
def MxOp.cost (o : MxOp) : Nat × Nat :=
  let f := o.f
  let k := mfK f
  let m := mfM f
  let up := fun a b => (a + b - 1) / b
  match o.kind with
  | .mma =>
    let rb := if f.bs then 4 else o.minRate true (if f.t then mfN f else k) 16
    (max 4 (up (4 * k) (o.minRate false m rb)), 40)
  | .mmab => (max 4 (up (4 * k) (o.minRate false m (rate4 ((Sfmt.ofCode f.xb.toNat).getD .fp32)))), 40)
  | .mzero => (up m 32, 4)
  | .mload | .mdrain => (max 4 m, 24)
  | .madd | .mscl | .mgate | .mcopy => (up m 8, 8)
  | .mtrn => (2 * up m 8, 16)
  | .mred => (up m 8, 16)
  | .mstat => (1, 4)
  | .mscan | .mscanf | .mscanr => (if scanIsChunked o.kind m o.ssm then 96 + 2 * m else 6 * m + 4, 40)
  | .cvProbe => (max 4 (up (4 * k) (128 * o.minRate false 1 16)), 40)
  | .cvInit | .cvCommit | .cvRead => (max 4 (up k 256), 8)
  | .sigFold => (max 4 (up (m * mfN f) 16), 8)
  | .sigCheck | .sigGet => (1, 4)

/-- R163: one cycle of an operation in flight. -/
def MxOp.tick (o : MxOp) : MxOp :=
  if 0 < o.occ then { o with occ := o.occ - 1 }
  else if o.started then { o with deep := o.deep - 1 } else o

/-- What an operation reads: runs of bytes of the scratchpad (address and length) and of sidecar entries (first and
number), vectors (physical, with the number of lanes), tiles (tile, rows, columns) and the cover store (first entry and
number), for R162, R173, R194 and R421. -/
structure MxReads where
  spl : List (Nat × Nat)
  side : List (Nat × Nat)
  vecs : List (Nat × Nat)
  tiles : List (Nat × Nat × Nat)
  cov : Nat × Nat

/-- Nothing read. -/
def MxReads.none : MxReads := { spl := [], side := [], vecs := [], tiles := [], cov := (0, 0) }

/-- The rows of a scratchpad operand, with the sidecar entries of scaled ones, beside what else is read. -/
def MxReads.rows (r : MxReads) (o : MxOp) (b : Bool) (rows cnt : Nat) : MxReads :=
  let addrs := (List.range rows).map (o.rowAddr b)
  let fmt := fun (a : Nat) => bankFmt o.smp.bfmt (bankOf a)
  { r with
    spl := r.spl ++ addrs.map (fun a => (a, rowBytes (fmt a).1 cnt))
    side := r.side ++ (addrs.filter (fun a => (fmt a).2)).map (fun a => (sideEntry (fmt a).1 a, (cnt + 31) / 32)) }

/-- n vectors from the operation's code on, each with its first `cnt` elements of a format. -/
def MxOp.vecRun (o : MxOp) (n cnt : Nat) (f : Sfmt) : List (Nat × Nat) :=
  (List.range n).map (fun i => (64 * o.vbase + o.f.low.toNat + i, (elemPos f (cnt - 1) + f.bits + 31) / 32))

/-- What an operation reads. -/
def MxOp.reads (o : MxOp) : MxReads :=
  let f := o.f
  let m := mfM f
  let n := mfN f
  let k := mfK f
  let d := f.acc.toNat
  let a := f.xa.toNat
  let acc := if f.mode = 0 then [] else [(d, m, n)]
  let fmt := (Sfmt.ofCode f.xb.toNat).getD .fp32
  let none := MxReads.none
  let rows := none.rows o false
  match o.kind with
  | .mma =>
    if f.bs then
      { rows m k with tiles := acc ++ [(f.xb.toNat, if f.t then n else k, if f.t then k else n)] }
    else { (if f.t then (rows m k).rows o true n k else (rows m k).rows o true k n) with tiles := acc }
  | .mmab => { rows m k with vecs := o.vecRun k n fmt, tiles := acc }
  | .mload => if f.bs then { none with vecs := o.vecRun m n fmt } else rows m n
  | .mdrain | .sigFold | .mscl => { none with tiles := [(d, m, n)] }
  | .madd => { none with tiles := [(d, m, n), (a, m, n)] }
  | .mgate => { none with tiles := [(d, m, n), (a, m, if f.low = 1 then 1 else n)] }
  | .mtrn | .mcopy => { none with tiles := [(a, m, n)] }
  | .mred => { none with tiles := (a, m, n) :: (if f.low.getLsbD 2 then [(d, m, 1)] else []) }
  | .mscan | .mscanf | .mscanr =>
    { (rows m n).rows o true m (2 * (f.kb.toNat + 1)) with
      vecs := if f.low = 0xFF0 then [] else o.vecRun 1 m .fp32
      tiles := (if f.t then [] else [(d, f.kb.toNat + 1, n)]) ++ (if f.mode = 1 then [(d + 1, m, n)] else []) }
  | .cvInit => if f.low = 2 then rows 1 k else none
  | .cvProbe => { rows m k with tiles := if f.mode = 1 then [(d, 1, m)] else [], cov := (o.xb, k) }
  | .cvCommit => { rows 1 k with cov := (o.xb, k) }
  | .cvRead => { none with cov := (o.xb, k) }
  | .mzero | .mstat | .sigCheck | .sigGet => none

/-- The tiles and the regions that an operation writes whole. -/
def MxOp.writes (o : MxOp) : List (Nat × Nat × Nat) :=
  let f := o.f
  let d := f.acc.toNat
  match o.kind with
  | .mma | .mmab | .mzero | .mload | .madd | .mscl | .mgate | .mcopy => [(d, mfM f, mfN f)]
  | .mdrain => if !f.bs && f.low.getLsbD 0 then [(d, mfM f, mfN f)] else []
  | .mtrn => [(d, mfN f, mfM f)]
  | .mred => [(d, mfM f, 1)]
  | .mscan | .mscanf | .mscanr => [(d, f.kb.toNat + 1, mfN f), (d + 1, mfM f, mfN f)]
  | .cvProbe => [(d, 1, mfM f)]
  | _ => []

/-- Whether a damaged tile element lies in one of the regions. -/
def inTiles (c : Nat) (rs : List (Nat × Nat × Nat)) (d : Damage) : Bool :=
  match d with
  | .tile c' t i j => decide (c' = c) && rs.any (fun r => decide (r.1 = t) && decide (i < r.2.1) && decide (j < r.2.2))
  | _ => false

/-- Whether a word is among those read by an operation of core c. -/
def MxReads.has (r : MxReads) (c : Nat) (d : Damage) : Bool :=
  match d with
  | .spl k w => decide (k = clusterOf c) && r.spl.any (fun p => decide (p.1 / 8 ≤ w) && decide (8 * w < p.1 + p.2))
  | .side k e => decide (k = clusterOf c) && r.side.any (fun p => decide (p.1 ≤ e) && decide (e < p.1 + p.2))
  | .lane c' p i => decide (c' = c) && r.vecs.any (fun q => decide (q.1 = p) && decide (i < q.2))
  | .tile .. => inTiles c r.tiles d
  | .cov c' e => decide (c' = c) && decide (r.cov.1 ≤ e) && decide (e < r.cov.1 + r.cov.2)
  | _ => false

/-- R421: whether a word has parity alone: a tile element or an entry of the cover store. -/
def Damage.parity (d : Damage) : Bool :=
  match d with
  | .tile .. | .cov .. => true
  | _ => false

/-- R350: errors that reads in the SRAMs of a die met, each counted; those of registers have no counter. -/
def State.countErrors (s : State) (die : Nat) (ds : List Damage) : State :=
  ds.foldl (fun t d =>
    match d with
    | .sreg .. | .pred .. | .mask .. => t
    | _ => t.count die (if d.parity then erPerr else erUeSram)) s

/-- R162, R194, R210, R421: the errors that an operation met in what it read, `ds` being the words damaged before it: they
are counted, PERR is set, and the operation carries one fault. -/
def State.mxErrors (s0 : State) (c : Nat) (o : MxOp) (ds : List Damage) : State :=
  let r := o.reads
  let s := s0.correct (dieOf c) erCeSram (r.has c)
  let hits := ds.filter (r.has c)
  if hits.isEmpty then s
  else
    let s1 := s.countErrors (dieOf c) hits
    let s2 := (r.tiles.map Prod.fst).dedup.foldl
      (fun s t =>
        if hits.any (inTiles c (r.tiles.filter (fun q => decide (q.1 = t)))) then s.modTile c t (fun v => v.flag stPerr true)
        else s) s1
    let entry := hits.any (fun d => match d with | .cov .. => true | _ => false)
    let s3 := match o.kind with
      | .cvProbe | .cvRead => if entry then s2.modTile c o.f.acc.toNat (fun v => v.flag stPerr true) else s2
      | _ => s2
    let off := (hits.findSome? (fun d => match d with | .spl _ w => some (8 * w) | _ => none)).getD 0
    s3.missBy c o.ctx o.id { faultRec fcMemory (some 3) with offset := off, line := o.pc }

/-- R201: the operations that make their accesses as they start. -/
def MxKind.early (k : MxKind) : Bool :=
  match k with
  | .cvInit | .cvCommit | .cvRead => true
  | _ => false

/-- R163: the operation that a pipe is to start: the oldest that has not started, once its cycle of issue has passed and the
one before it has held the pipe for its occupancy. -/
def Core.mxDue (k : Core) (array : Bool) : Option (MxOp × Nat) :=
  if k.mxs.any (fun o => o.started && o.kind.onArray == array && decide (0 < o.occ)) then none
  else ((k.mxs.zipIdx).find? (fun q => !q.1.started && q.1.kind.onArray == array)).filter (fun q => decide (q.1.occ = 0))

/-- MX_OP_START (R163, R201, R423): the oldest operation of a pipe starts once the one before it has held the pipe for its
occupancy; an array operation samples TL, and an operation of the tile pipe on the cover store makes its accesses.
Assumption log 71 (DEDUCED). -/
def State.mxStart (s : State) (c : Nat) (array : Bool) : State :=
  let k := s.core c
  match k.mxDue array with
  | none => s
  | some (o, i) =>
    let (occ, p) := o.cost
    let tl := if array then (s.die (dieOf c)).tl else 0
    let s1 := s.setCore c { k with mxs := k.mxs.modify i (fun q =>
      { q with started := true, occ := (occ * (8 + tl) + 7) / 8, deep := p }) }
    if o.kind.early then (cvAccess c i o s.seen s1).mxErrors c o s.damaged else s1

/-- R165: TSTAT. -/
def Tile.word (t : Tile) : BitVec 32 := t.stat.setWidth 32 ||| (if t.int then 0x100 else 0)

/-- R166: what an operation changed in the status of a tile is seen 32 cycles after its completion. -/
def State.publishTstat (s : State) (c x : Nat) (ts : List Nat) : State :=
  ts.foldl (fun s t =>
    let k := s.core c
    let w := (k.tile t).word
    let same := decide (Tab.get k.tvis t 0 = w) &&
      k.pend.all (fun p => match p.land with | .tstat t' _ => decide (t' ≠ t) | _ => true)
    if same then s else s.land c x (.tstat t w) 31) s

/-- R163, R164: whether an operation may complete: its occupancy and its depth have passed, and on the array pipe no
operation issued before it is left. -/
def Core.mxReady (k : Core) (i : Nat) (o : MxOp) : Bool :=
  o.started && decide (o.occ = 0) && decide (o.deep = 0) && (!o.kind.onArray || (k.mxs.take i).all (fun q => !q.kind.onArray))

/-- MX_OP_COMPLETION (R163, R164): an operation whose occupancy and depth have passed takes effect, and frees what it
held. -/
def State.mxComplete (s : State) (c i : Nat) : State :=
  match (s.core c).mxs[i]? with
  | none => s
  | some o =>
    if (s.core c).mxReady i o then
      let s0 := s.modCore c (fun k => { k with mxs := k.mxs.eraseIdx i })
      let s1 := (runMx c o s.seen s0).heal (inTiles c o.writes)
      let s2 := if o.kind.early then s1 else s1.mxErrors c o s.damaged
      s2.publishTstat c o.ctx o.tiles.dedup
    else s

end Sys2Proof.Machine
end

