-- ==== Sys2Proof/Machine/Tensor.lean ====
section
/-! DEFINITION. Tensors and the records on their rays: granules (R240), visibility (R249, R365), the read rule (R250),
cover stacks (R248), reference counts (R247) and the pool (R238). -/

set_option Elab.async false

namespace Sys2Proof.Machine

/-! ### Geometry (R240) -/

def Handle.sfmt (h : Handle) : Sfmt := (Sfmt.ofCode h.fmt).getD .fp32

/-- Whether coordinates lie inside the tensor. -/
def Handle.inside (h : Handle) (r c : Int) : Bool :=
  decide (0 ≤ r) && decide (r < h.rows) && decide (0 ≤ c) && decide (c < h.cols)

/-- The row-major number of an element. -/
def Handle.elem (h : Handle) (r c : Int) : Nat := r.toNat * h.cols + c.toNat

/-- The byte offset of an element's row-major place, in the tensor's format (R248). -/
def elemOff (f : Sfmt) (e : Nat) : Nat := f.bits * e / 8

/-- R318: granules in a row of granules; the granule of an element; a granule's first element. -/
def Handle.gcols (h : Handle) : Nat := (h.cols + 63) / 64
def Handle.granule (h : Handle) (e : Nat) : Nat := e / h.cols / 64 * h.gcols + e % h.cols / 64
def Handle.granFirst (h : Handle) (g : Nat) : Nat := g / h.gcols * 64 * h.cols + g % h.gcols * 64

/-- R240, R421: the beats of an element of a format in its granule's storage, row-major, and that of its index after them on a
scaled one. -/
def Handle.beats (h : Handle) (f : Sfmt) (scl : Bool) (e : Nat) : List Nat :=
  let r := e / h.cols % 64
  let a := f.bits * (64 * r + e % h.cols % 64)
  [a / 256, (a + f.bits - 1) / 256] ++ (if scl then [(512 * f.bits + r) / 32] else [])

/-- The elements of a granule that lie inside the tensor. -/
def Handle.granElems (h : Handle) (g : Nat) : List Nat :=
  (List.range 4096).filterMap (fun i =>
    let r := g / h.gcols * 64 + i / 64
    let c := g % h.gcols * 64 + i % 64
    if r < h.rows ∧ c < h.cols then some (r * h.cols + c) else none)

/-- R40: the base index of an element's group. -/
def Handle.baseIdx (h : Handle) (e : Nat) : Nat :=
  Tab.get h.idx (e / h.cols * ((h.cols + 31) / 32) + e % h.cols / 32) 0

/-- FR.ELEM: row and column of an element (R213). -/
def Handle.frElem (h : Handle) (e : Nat) : Word := BitVec.ofNat 64 (e / h.cols * 2 ^ 32 + e % h.cols)

/-! ### Records on rays (R242, R247, R249) -/

def Handle.ray (h : Handle) (k : Nat) : Ray := Tab.get h.rays k Ray.reset

/-- The rays that exist and hold a record. -/
def Handle.raysOf (h : Handle) (name : Nat) : List (Nat × Ray) :=
  h.rays.filter (fun r => r.2.alive && r.2.recs.contains name)

def Process.patch (p : Process) (name : Nat) : Option Patch := Tab.find p.patches name

/-- The records of a ray with their names, oldest first. -/
def Process.records (p : Process) (r : Ray) : List (Nat × Patch) :=
  r.recs.filterMap (fun n => (p.patch n).map (fun q => (n, q)))

/-- A reader of a tensor: an engine acting for a context of a device. -/
structure Reader where
  dev : Nat
  core : Nat
  ctx : Nat
  launch : Nat
  deriving DecidableEq, Repr

/-- R358, R362: whether two cores lie in one instance of a scope. -/
def sameScope (scope a b : Nat) : Bool :=
  match scope with
  | 0 => decide (a = b)
  | 1 => decide (clusterOf a = clusterOf b)
  | 2 => decide (dieOf a = dieOf b)
  | _ => true

/-- R243: whether a context owns a record. -/
def Patch.ownedBy (q : Patch) (x : Reader) : Bool :=
  decide (q.dev = x.dev) && decide (q.launch = x.launch) && decide (q.core = x.core) && decide (q.ctx = x.ctx)

/-- Whether a record is owned by a launch of a device. -/
def Patch.ofLaunch (q : Patch) (dev l : Nat) : Bool := decide (q.dev = dev) && decide (q.launch = l)

/-- R249, R365: whether an unapplied record takes part in a read. A record is published, once sealed, to the readers in
its owner's instance of its scope. -/
def Patch.visible (q : Patch) (x : Reader) : Bool :=
  match q.st with
  | .opened => q.ownedBy x
  | .sealed => if q.dev = x.dev then sameScope q.scope q.core x.core else decide (q.scope = 4)
  | _ => false

/-- R297: the pinned rays of a launch record: handle and ray. -/
def recPins (bs : List Byte) : List (BitVec 32 × Nat) :=
  (List.range 3).filterMap (fun i => if recPinH bs i = 0 then none else some (recPinH bs i, recPinRay bs i))

/-- The handle of a record's home tensor, as the OPEN or the TRANSPLANT found it. -/
def Patch.homeWord (q : Patch) : BitVec 32 := BitVec.ofNat 32 (q.home + q.homeGen * 2 ^ 24)

/-- R247: the number of rays other than the home ray that hold a record, plus the live launches that pin a ray
holding it. -/
def State.refs (s : State) (p name : Nat) (q : Patch) : Nat :=
  let rs := ((s.proc p).handles.filter (fun e => decide (e.1 = q.home))).flatMap (fun e => e.2.raysOf name)
  rs.countP (fun r => decide (r.1 ≠ q.ray)) +
    s.launches.countP (fun l => decide (l.2.proc = p) &&
      (recPins l.2.bytes).any (fun pin => decide (pin.1 = q.homeWord) && rs.any (fun r => decide (r.1 = pin.2))))

/-! ### The read rule (R250) -/

/-- The exact own value of a record's element. -/
def Patch.val (q : Patch) (e : Nat) : Fv := decodeElem ((Sfmt.ofCode q.dfmt).getD .fp32) (Tab.get q.vals e 0)

def Patch.covers (q : Patch) (e : Nat) : Bool := (Tab.find q.vals e).isSome

/-- An element as a read delivers it: its own value, its bits when no delta enters, its index, the granule whose
poisoned storage the value came from (R273), the records read, and whether the base was read. -/
structure ElemRead where
  val : Fv
  bits : Option Nat
  idx : Nat
  poison : Option Nat
  names : List Nat
  base : Bool

/-- R48, R56: RNE32 of a sum of two operands; a NaN operand keeps its payload. Assumption log 20 (DEDUCED). -/
def add32 (a b : Fv) : Fv := decodeFf fp32 (encodeFf fp32 .rne (Fv.add .rne a b))

/-- R250: u and the deltas, oldest first, of a tensor's format. -/
def readSum (f : Sfmt) (u : Fv) (ds : List Fv) : Fv :=
  match ds with
  | [] => u
  | d :: rest =>
    if f.isInt then ds.foldl (Fv.add .rne) u
    else add32 u (rest.foldl add32 d)

/-- R249, R250: element e through a ray. -/
def readElem (p : Process) (h : Handle) (ray : Nat) (x : Reader) (e : Nat) : ElemRead :=
  let recs := (p.records (h.ray ray)).filter (fun q => q.2.visible x && q.2.covers e)
  let newest := recs.reverse
  let adds := newest.takeWhile (fun q => q.2.isAdd)
  let rp := (newest.dropWhile (fun q => q.2.isAdd)).head?
  let g := h.granule e
  let bad := fun (q : Nat × Patch) => q.2.bad.contains g
  let bits := match rp with
    | some q => Tab.get q.2.vals e 0
    | none => Tab.get h.base e 0
  let poisoned := (match rp with
    | some q => bad q
    | none => h.poison.contains g) || adds.any bad
  { val := readSum h.sfmt (decodeElem h.sfmt bits) (adds.reverse.map (fun q => q.2.val e)),
    bits := if adds.isEmpty then some bits else none,
    idx := match rp with
      | some q => Tab.get q.2.idxs e 0
      | none => h.baseIdx e,
    poison := if poisoned then some g else none,
    names := (adds ++ rp.toList).map Prod.fst,
    base := rp.isNone }

/-! ### Cover stacks (R248) -/

/-- The granules that a record touches, ascending. -/
def touched (h : Handle) (vals : Tab Nat) : List Nat := (vals.map (fun v => h.granule v.1)).dedup.mergeSort (· ≤ ·)

/-- R248: the entries of a granule's cover stack on a ray. -/
def Process.stackDepth (p : Process) (h : Handle) (r : Ray) (g : Nat) : Nat :=
  (p.records r).countP (fun q =>
    (decide (q.2.st = .opened) || decide (q.2.st = .sealed)) && q.2.vals.any (fun v => decide (h.granule v.1 = g)))

/-- R248: the first granule, among those given, that already holds 32 entries. -/
def Process.stackFull (p : Process) (h : Handle) (r : Ray) (gs : List Nat) : Option Nat :=
  gs.find? (fun g => decide (32 ≤ p.stackDepth h r g))

/-! ### Storage (R238, R240, R241, R259) -/

/-- R240: the bytes of a granule's storage in a format, with the indices of a scaled tensor. -/
def granuleBytes (f : Sfmt) (scl : Bool) : Nat := 512 * f.bits + (if scl then 64 else 0)

/-- R241: the bytes of the masks of a granule that a record touches. -/
def maskBytes : Nat := 520

/-- The granules of a tensor. -/
def Handle.granules (h : Handle) : Nat := (h.rows + 63) / 64 * h.gcols

/-- The bytes of a region (R240). -/
def Handle.bytes (h : Handle) : Nat := if h.cls = clTensor then h.granules * granuleBytes h.sfmt h.scl else h.len

/-- The places where a region's storage stands: two while it moves (R327, R328), and then until a revocation frees both
(R326). -/
def Handle.places (h : Handle) : List Place :=
  if h.held then h.place :: (h.plan.or h.old).toList else []

/-- The pages that hold a number of bytes. -/
def pagesFor (n : Nat) : Nat := (n + Config.pageBytes - 1) / Config.pageBytes

/-- The bytes of one granule of a tensor, or of one page of another region, and how many of them it has. -/
def Handle.unitBytes (h : Handle) : Nat := if h.cls = clTensor then granuleBytes h.sfmt h.scl else Config.pageBytes
def Handle.units (h : Handle) : Nat := if h.cls = clTensor then h.granules else pagesFor h.len

/-- Whether a location lies on a stack of a device. -/
def Loc.on (l : Loc) (node k : Nat) : Bool := decide (l.node = node) && decide (l.stack = k)

/-- How many locations of a table lie on a stack of a device. -/
def locsOn (t : Tab Loc) (node k : Nat) : Nat := t.countP (fun l => l.2.on node k)

/-- How many pages or granules of a place lie on a stack of a device: those that the firmware put there, less those that an
APPLY has remapped away, and those remapped there. -/
def Place.unitsOn (q : Place) (node k : Nat) : Nat :=
  let put := (q.runs.map (fun r => if r.1 = k then r.2 else 0)).sum
  (if q.node = node then put - q.moved.countP (fun e => decide (runStack q.runs e.1 = k)) else 0) + locsOn q.moved node k

/-- How many pages or granules of a region lie on a stack of a device. -/
def Handle.unitsOn (h : Handle) (node k : Nat) : Nat := (h.places.map (fun q => q.unitsOn node k)).sum

/-- The bytes of a record's storage, its masks and its undo image, for the numbers of granules given of each. -/
def Process.patchBytes (p : Process) (q : Patch) (n : Tab Loc → Nat) : Nat :=
  let h := Tab.get p.handles q.home Handle.reset
  let f := (Sfmt.ofCode q.dfmt).getD .fp32
  n q.locs * granuleBytes f (h.scl && !q.isAdd) + n q.masks * maskBytes +
    (n q.undoLocs + n q.imgs) * granuleBytes h.sfmt h.scl

/-- The bytes of the granule pool of a process, which tensors and patches share, for the numbers given of the granules of
each. -/
def Process.poolBytes (p : Process) (units : Handle → Nat) (n : Tab Loc → Nat) : Nat :=
  ((p.handles.filter (fun e => decide (e.2.cls = clTensor))).map (fun e => units e.2 * e.2.unitBytes)).sum +
    (p.patches.map (fun q => p.patchBytes q.2 n)).sum

/-- R238: the pages of a process, for the numbers given of the pages or granules of its regions, of those of its patches and
of its receive queues: those of the pool, those of each other region, and those of the queues. Assumption log 12 (DESIGN
CHOICE). -/
def Process.pages (p : Process) (units : Handle → Nat) (n : Tab Loc → Nat) (queues : Nat) : Nat :=
  pagesFor (p.poolBytes units n) +
    ((p.handles.filter (fun e => decide (e.2.cls ≠ clTensor))).map (fun e => units e.2)).sum +
    pagesFor (queues * Config.recvBytes)

/-- How many receive queues of a process lie on a stack of a device. -/
def Process.linksOn (p : Process) (node k : Nat) : Nat := p.chans.countP (fun c => c.loc.on node k)

/-- The pages of every process on a stack. -/
def State.pagesOn (s : State) (k : Nat) : Nat :=
  (s.procs.map (fun p => p.2.pages (fun h => h.unitsOn s.node k) (fun t => locsOn t s.node k) (p.2.linksOn s.node k))).sum

/-- The pages of every process, wherever they lie. -/
def State.pagesAll (s : State) : Nat :=
  (s.procs.map (fun p => p.2.pages (fun h => h.places.length * h.units) List.length p.2.chans.length)).sum

/-- The pages that a stack holds. -/
def stackPages : Nat := Config.stackBytes / Config.pageBytes

/-- R238, R259: whether each stack holds what lies on it of what the device's processes map and record: so it is where one
stack would hold them all. -/
def State.fits (s : State) : Bool :=
  decide (s.pagesAll ≤ stackPages) || (List.range Config.stackCount).all (fun k => decide (s.pagesOn k ≤ stackPages))

/-- How many units of u bytes a stack can still take beside the b bytes of their kind that lie on it. -/
def State.unitsLeft (s : State) (k b u : Nat) : Nat :=
  ((stackPages - (s.pagesOn k - pagesFor b)) * Config.pageBytes - b) / u

/-- R238: n units placed: on the stacks that the firmware would take, as far as each has room, then on the first ones that
have; what no stack can take stands at stack 0. Assumption log 76 (DESIGN CHOICE). -/
def spread (room : Nat → Nat) (n : Nat) (wish : List (Nat × Nat)) : List (Nat × Nat) :=
  let all := wish.map (fun r => (r.1 % Config.stackCount, r.2)) ++ (List.range Config.stackCount).map (fun k => (k, n))
  let (left, runs) := all.foldl (fun (acc : Nat × List (Nat × Nat)) r =>
    let taken := (acc.2.map (fun q => if q.1 = r.1 then q.2 else 0)).sum
    let m := min r.2 (min acc.1 (room r.1 - taken))
    if m = 0 then acc else (acc.1 - m, acc.2 ++ [(r.1, m)])) (n, [])
  if left = 0 then runs else runs ++ [(0, left)]

/-- R238: the stacks of n granules, each of u bytes, in the pool of a process. -/
def State.poolRuns (s : State) (p u n : Nat) : List (Nat × Nat) :=
  spread (fun k => s.unitsLeft k ((s.proc p).poolBytes (fun h => h.unitsOn s.node k) (fun t => locsOn t s.node k)) u) n
    (Config.pageRuns s.draws)

/-- R238: the stacks of n pages of a region. -/
def State.pageRuns (s : State) (n : Nat) : List (Nat × Nat) :=
  spread (fun k => s.unitsLeft k 0 Config.pageBytes) n (Config.pageRuns s.draws)

/-- R310: where a new receive queue of a process lies. -/
def State.linkLoc (s : State) (p : Nat) : Loc :=
  let room := fun k => s.unitsLeft k ((s.proc p).linksOn s.node k * Config.recvBytes) Config.recvBytes
  locOn s.node (runStack (spread room 1 (Config.pageRuns s.draws)) 0) 128 s.draws 0

/-- R318: where the patch engine of a device puts the storage of granules, each of u bytes, in the pool of a process. -/
def State.newLocs (s : State) (p node u : Nat) (gs : List Nat) : Tab Loc :=
  let runs := s.poolRuns p u gs.length
  gs.zipIdx.foldl (fun t g => Tab.put t g.1 (locOn node (runStack runs g.2) 128 s.draws g.1)) []

/-- R213, R427: the granule of a tensor, or the page of a region, at a byte offset. -/
def Handle.unitAt (h : Handle) (off : Nat) : Nat :=
  if h.cls = clTensor then h.granule (8 * off / h.sfmt.bits) else pageOf off

/-- The granules of a rectangle that lie in the tensor. -/
def Handle.rectGrans (h : Handle) (row col : Int) (rows cols : Nat) : List Nat :=
  let r0 := max row 0
  let r1 := min (row + rows) h.rows
  let c0 := max col 0
  let c1 := min (col + cols) h.cols
  if r0 < r1 ∧ c0 < c1 then
    let gr := r0.toNat / 64
    let gc := c0.toNat / 64
    (List.range ((r1.toNat - 1) / 64 - gr + 1)).flatMap (fun i =>
      (List.range ((c1.toNat - 1) / 64 - gc + 1)).map (fun j => (gr + i) * h.gcols + gc + j))
  else []

def Process.chan (p : Process) (peer n : Nat) : Option Chan :=
  p.chans.find? (fun c => decide (c.peer = peer) && decide (c.chan = n))

/-- The die of a granule's storage, by the first of some tables that lists it. -/
def dieAmong (ts : List (Tab Loc)) (g : Nat) : Nat :=
  match ts.findSome? (fun t => Tab.find t g) with
  | some l => l.stack / 3
  | none => 0

/-- R421: the die of the base die that serves a word of device memory. -/
def State.damageDie (s : State) (d : Damage) : Nat :=
  match d with
  | .cell p i off => (s.handle p i).dieAt (pageOf off)
  | .base p i g _ => (s.handle p i).dieAt g
  | .store p n g _ =>
    match (s.proc p).patch n with
    | some q => dieAmong [q.locs] g
    | none => 0
  | .undo p n g _ =>
    match (s.proc p).patch n with
    | some q => dieAmong [q.undoLocs, q.imgs] g
    | none => 0
  | .link p peer n _ _ =>
    match (s.proc p).chan peer n with
    | some c => c.loc.stack / 3
    | none => 0
  | _ => 0

/-- R350, R421: reads of device memory correct the words of a predicate in which a correctable error stands. -/
def State.correctHbm (s : State) (p : Damage → Bool) : State :=
  (s.weak.filter p).foldl (fun t d => t.count (s.damageDie d) erCeHbm) s

/-- R350, R421: an agent that acts for no kernel reads words of device memory: the errors that ECC corrects are counted, and so
are those beyond correction. Whether it met one of these. -/
def State.readWords (s : State) (p : Damage → Bool) : State × Bool :=
  let s1 := s.correctHbm p
  let bad := s1.damaged.filter p
  (bad.foldl (fun t d => t.count (t.damageDie d) erUeHbm) s1, !bad.isEmpty)

/-- The words of device memory in which a region, or the base of a tensor, stands. -/
def regionWords (p i : Nat) (d : Damage) : Bool :=
  match d with
  | .cell p' i' _ | .base p' i' _ _ => decide (p' = p) && decide (i' = i)
  | _ => false

/-- R240, R421: the first element of a beat of a granule: of the row of the first index in it, for one of indices. -/
def Handle.beatElem (h : Handle) (g b : Nat) : Nat :=
  let k := if b < 16 * h.sfmt.bits then (256 * b + h.sfmt.bits - 1) / h.sfmt.bits else 64 * (32 * (b - 16 * h.sfmt.bits))
  h.granFirst g + k / 64 * h.cols + k % 64

/-- R328: the words of a 4 KiB line of a handle's storage: a beat of a tensor belongs to the line of its first element. -/
def State.lineWords (s : State) (p i n : Nat) (d : Damage) : Bool :=
  match d with
  | .cell _ _ o => regionWords p i d && decide (o / 4096 = n)
  | .base _ _ g b =>
    let h := s.handle p i
    regionWords p i d && decide (elemOff h.sfmt (h.beatElem g b) / 4096 = n)
  | _ => false

/-- R273: a granule of a tensor rewritten by the service firmware: its elements, in row-major order, take new bits, and
its poison and its errors are gone, and the caches drop what they hold of its map (R317). -/
def State.rewriteGranule (s : State) (w : GranuleWrite) : State :=
  let h := s.handle w.proc w.idx
  if h.cls ≠ clTensor ∨ h.st = .free ∨ h.st = .revoked then s
  else
    let base := ((h.granElems w.granule).zip w.bits).foldl (fun t e =>
      let v := e.2 % 2 ^ h.sfmt.bits
      if v = 0 then Tab.erase t e.1 else Tab.put t e.1 v) h.base
    ((s.heal (fun d => decide (d.unit = .base w.proc w.idx w.granule 0))).invalidate w.proc w.idx).setHandle w.proc w.idx
      { h with base := base, poison := h.poison.filter (fun g => decide (g ≠ w.granule)) }

end Sys2Proof.Machine
end

