-- ==== Sys2Proof/Machine/Dop.lean ====
section
/-! DEFINITION. D operations in common: their issue (R62, R64, R75, R234), their start with the handle lookup (R75,
R314, R327), and their completion with tokens and poison (R120, R210). -/

set_option Elab.async false

namespace Sys2Proof.Machine

/-! ### Issue -/

/-- The tokens that an operation consumes. -/
def dcToks (c : DC) : List Nat := [c.c0.toNat, c.c1.toNat, c.c2.toNat]

/-- Whether the slot in focus is DB. -/
def isDb (s : State) : Bool := decide (s.foc.slot = 5)

/-- R75, R120: the producers in flight that consumed tokens name, and the fault of the first poisoned one. -/
def Ctx.pending (x : Ctx) (ts : List Nat) : List Nat :=
  (x.producers ts).filterMap (fun t => match t with | .pending i => some i | .poisoned _ => none)

def Ctx.poison (x : Ctx) (ts : List Nat) : Option AFault :=
  ((x.producers ts).findSome? (fun t => match t with | .poisoned i => some i | .pending _ => none)).bind
    (fun i => x.untaken.find? (fun a => decide (a.id = i)))

/-- What an operation reads at its issue beside its own operands (R41, R44, R222, R323). -/
def sampleOf (s : State) (h : Nat) : Sample :=
  { shape := s.cur.shape h, rmode := s.cur.rmode, sc := s.cur.sc, bfmt := bfmts s }

/-- What one D operation gives its issue: whether it takes a transfer identifier; its kind, from the state in which it
joins its channel; what it sampled; the tokens it consumes; a fault found at issue that its token will carry (R426);
a further change; and, for a release, the cycles left to the bounds of the context's stores (R355). -/
structure DIssue where
  xfer : Bool
  kind : State → DKind
  smp : Sample
  toks : List Nat
  own : Option FaultRec
  also : State → State
  bound : Nat := 0

/-- R355: what a release that issues now waits for beside the operations in flight. -/
def storeBound (s : State) (release : Bool) : Nat := if release then (s.core s.foc.core).storeLeft s.foc.ctx else 0

/-- The operation joins its channel: it takes a number, and an identifier if it moves data; its token names it. -/
def dIssue (s : State) (c : DC) (d : DIssue) (t : State) : State :=
  let x := s.cur
  let id := t.stamp
  let chanB := isDb s
  let tkp := c.tkp.toNat
  let o : DOp :=
    { id := id, ctx := s.foc.ctx, chanB := chanB, pc := s.foc.pc, tkp := tkp, waits := x.pending d.toks,
      xfer := if d.xfer then some (if chanB then x.nextB else x.nextA) else none, kind := d.kind t, smp := d.smp,
      started := false, held := false, remote := false, performed := false, waited := 0, bound := d.bound, line := none,
      poison := (x.poison d.toks).or
        (d.own.map (fun r => { id := id, info := { r with slot := some s.foc.slot, line := s.foc.pc }, token := tkp, bare := false })) }
  let t1 := d.also t
  let t2 := t1.modCore s.foc.core (fun k => { k with dops := k.dops ++ [o] })
  let t3 := t2.modCur (fun y =>
    let y1 := if tkp = 0 then y else { y with tk := Tab.put y.tk tkp (.pending id) }
    if d.xfer then (if chanB then { y1 with nextB := y.nextB + 1 } else { y1 with nextA := y.nextA + 1 }) else y1)
  { t3 with stamp := id + 1 }

/-- A D operation at its issue: a fault of its bits whatever the guard; the stall on its token's previous producer,
whatever the guard (R62, R64); with a true guard, the stalls of a full channel (R26) and its own, then its checks; a
2^48th identifier is refused (R234). -/
def dOp (c : DC) (bad : Bool) (stalls : Bool) (check : Except FaultRec DIssue) (s : State) : Res :=
  let x := s.cur
  let tkp := c.tkp.toNat
  if bad then earlyAt s fcRegister
  else if tkp ≠ 0 ∧ x.tokPending tkp then .stall
  else if !x.guard c.g then
    .ok (fun t => if tkp = 0 then t else t.modCur (fun y => { y with tk := Tab.erase y.tk tkp }))
  else if Config.channelPlaces ≤ (s.core s.foc.core).chanLoad (isDb s) || stalls then .stall
  else
    match check with
    | .error r => .trap r
    | .ok d =>
      if d.xfer && decide (2 ^ 48 ≤ (if isDb s then x.nextB else x.nextA)) then trapAt s fcField
      else .ok (dIssue s c d)

/-- Checks in their order, then the operation. -/
def dCheck (checks : List (Option FaultRec)) (d : DIssue) : Except FaultRec DIssue :=
  match firstTrap checks with
  | some r => .error r
  | none => .ok d

/-- A fault of the slot in focus when a condition holds. -/
def trapIf (s : State) (code : Nat) (on : Bool) : Option FaultRec :=
  if on then some (faultRec code (some s.foc.slot)) else none

/-- A value that R427 puts into FR.OFFSET. -/
def trapVal (s : State) (code : Nat) (v : Option Int) : Option FaultRec := v.map (faultOff s code)

/-! ### Completion (R120, R210) -/

/-- A consumer of a completed producer: it no longer waits, and a poison it consumed passes to it before one of its
own. -/
def DOp.release (o : DOp) (id : Nat) (p : Option AFault) : DOp :=
  if o.waits.contains id then
    { o with
      waits := o.waits.filter (fun i => decide (i ≠ id))
      poison := (o.poison.filter (fun a => decide (a.id ≠ o.id))).or (p.or o.poison) }
  else o

/-- The asynchronous fault of an operation (R210, R212, R213). -/
def DOp.fault (o : DOp) (r : FaultRec) : AFault :=
  { id := o.id, info := { r with slot := some (if o.chanB then 5 else 4), line := o.pc }, token := o.tkp, bare := false }

/-- R327: an operation's access has been made or given up. -/
def State.leaveOp (s : State) (c id : Nat) : State := s.leave (fun w => decide (w = .op c id))

/-- The operation at a place leaves the channel; its token completes, poisoned if a fault is given, and a fault of its
own becomes untaken. A halted context then takes it (R122). -/
def State.dFinish (s : State) (c i : Nat) (fault : Option AFault) : State :=
  match (s.core c).dops[i]? with
  | none => s
  | some o =>
    let y := s.ctx c o.ctx
    -- a fault already taken through another token poisons nothing any more
    let p := fault.filter (fun a => decide (a.id = o.id) || y.untaken.any (fun b => decide (b.id = a.id)))
    let named := decide (Tab.find y.tk o.tkp = some (.pending o.id)) && decide (o.tkp ≠ 0)
    let tk := if named then
        (match p with | some a => Tab.put y.tk o.tkp (.poisoned a.id) | none => Tab.erase y.tk o.tkp) else y.tk
    let untaken := match p with
      | some a => if a.id = o.id then y.untaken ++ [a] else y.untaken
      | none => y.untaken
    let s1 := s.modCore c (fun k =>
      { k with dops := (k.dops.eraseIdx i).map (fun q => if q.ctx = o.ctx then q.release o.id p else q) })
    ((s1.leaveOp c o.id).modCtx c o.ctx (fun z => { z with tk := tk, untaken := untaken })).takeHalted c o.ctx

/-- An operation has made its accesses without a fault: it completes, or, where they are remote, waits for their
acknowledgement (R405). -/
def State.dDone (s : State) (c i : Nat) : State :=
  match (s.core c).dops[i]? with
  | none => s
  | some o =>
    if o.remote then
      (s.modCore c (fun k => { k with dops := k.dops.modify i (fun q => { q with performed := true }) })).leaveOp c o.id
    else s.dFinish c i none

/-- An operation completes with a fault of its own. -/
def State.dFail (s : State) (c i : Nat) (r : FaultRec) : State :=
  match (s.core c).dops[i]? with
  | none => s
  | some o => s.dFinish c i (some (o.fault r))

/-- A record that names a handle and an offset (R212). -/
def handleFault (code : Nat) (h : BitVec 32) (off : Nat) : FaultRec :=
  { faultRec code none with handle := h, offset := off }

/-- R212, R421: the fault of an error beyond correction in a word of a handle's storage. -/
def wordFault (h : BitVec 32) (off : Nat) (d : Damage) : FaultRec :=
  { handleFault fcMemory h off with word := some d }

/-! ### Start (R75) -/

/-- The reader that an engine is when it acts for a context. -/
def State.reader (s : State) (c x : Nat) : Reader := { dev := s.node, core := c, ctx := x, launch := (s.ctx c x).launch }

/-- R363: whether one of some granules and pages lies on another device. -/
def State.anyFar (s : State) (p : Nat) (units : List (Nat × Nat)) : Bool :=
  units.any (fun u => decide (((s.handle p u.1).locOf u.2).node ≠ s.node))

/-- R363, R405: the operation at a place makes accesses to granules and pages, remote where one lies on another device. -/
def State.goFar (s : State) (c i p : Nat) (units : List (Nat × Nat)) : State :=
  if s.anyFar p units then
    s.modCore c (fun k => { k with dops := k.dops.modify i (fun o => { o with remote := true }) })
  else s

/-- R326: whether an operation may have begun bursts on a handle before its revocation point: it was in flight there, had
started, and its access stands in no replay queue. -/
def State.begun (s : State) (c : Nat) (o : DOp) (ref : BitVec 32) : Bool :=
  let h := s.handle (s.procOf (s.ctx c o.ctx)) (hIndex ref)
  o.started && decide (h.st = .revoked) && decide ((hGen ref + 1) % 256 = h.gen) && h.live.contains (c, o.id) &&
    !s.isHeld (.op c o.id)

/-- The granules of a tensor that a rectangle reaches through a reference with a valid entry. -/
def State.rectUnits (s : State) (p : Nat) (ref : BitVec 32) (row col : Int) (rows : Nat) (cols : Handle → Nat) :
    List (Nat × Nat) :=
  match s.entry p ref clTensor with
  | some h => (h.rectGrans row col rows (cols h)).map (fun g => (hIndex ref, g))
  | none => []

/-- R326, R427: the first element of a rectangle that lies in the tensor, as a byte offset; 0 where there is none. -/
def firstOff (h : Handle) (row col : Int) (rows cols : Nat) : Nat :=
  let r := max row 0
  let c := max col 0
  if r < min (row + rows) h.rows ∧ c < min (col + cols) h.cols ∧ h.cls = clTensor then elemOff h.sfmt (h.elem r c) else 0

/-- R326: the rows, and the elements of the next one, that k bursts of a read of rows of n elements hold.
Assumption log 77 (DESIGN CHOICE). -/
def burstSplit (n k : Nat) : Nat × Nat :=
  let b := max 1 ((n + 31) / 32)
  (k / b, 32 * (k % b))

/-- R326: the lowest offset of a burst not made, of a read of rows of n elements of which the first r rows and e elements
of the next have been read; none when no element of the tensor is left. -/
def Handle.restOff (h : Handle) (row col : Int) (rows n r e : Nat) : Option Nat :=
  if r < rows ∧ h.rectGrans (row + r) (col + e) 1 (n - e) ≠ [] then some (firstOff h (row + r) (col + e) 1 (n - e))
  else if h.rectGrans (row + r + 1) col (rows - (r + 1)) n ≠ [] then some (firstOff h (row + r + 1) col (rows - (r + 1)) n)
  else none

/-- The fate of an operation's handle. -/
def State.fate (s : State) (p : Nat) (h : BitVec 32) (cls off : Nat) : Except FaultRec (Option Handle) :=
  match s.lookup p h cls with
  | .bad code => .error (handleFault code h off)
  | .wait => .ok none
  | .ok e => .ok (some e)

end Sys2Proof.Machine
end

