-- ==== Sys2Proof/Machine/Copies.lean ====
section
/-! DEFINITION. Issuing copies, streams, ring shifts, gathers, scatters, windows and joins (R224–R235, R426, R427): the
sides of a copy, the checks of each operation, and its meaning at issue. -/

set_option Elab.async false

namespace Sys2Proof.Machine

/-! ### The sides of a copy (R225, R226) -/

/-- A side addressed by bytes: its space (R97), address, row stride and, for space 4, the peer core. -/
structure ByteSide where
  space : Nat
  addr : Int
  stride : Int
  peer : Nat
  deriving DecidableEq, Repr

def ByteSide.at (b : ByteSide) (r : Nat) : Int := b.addr + r * b.stride

/-- R226: the format and the scale presence of a byte side at an address, given VFMT. -/
def byteFmt (bf : Tab (BitVec 16)) (space vfmt : Nat) (a : Int) : Sfmt × Bool :=
  match space with
  | 0 | 5 => ((Sfmt.ofCode vfmt).getD .fp32, false)
  | 6 => (.fp32, false)
  | _ => bankFmt bf (bankOf a.toNat)

/-- R226: the bytes of n elements on a side; the VRF holds four LNS6 codes in a lane. -/
def sideBytes (space : Nat) (f : Sfmt) (n : Nat) : Nat :=
  if (space = 0 ∨ space = 5) ∧ f = .lns6 then (n + 3) / 4 * 4 else rowBytes f n

/-- R225: the first byte of a row of n bytes that the side does not hold; `vunits` bounds the VRF. -/
def ByteSide.over (b : ByteSide) (vunits r n : Nat) : Option Int :=
  let a := b.at r
  let limit := fun (top : Nat) => if a < 0 then some a else if (top : Int) < a + n then some (max a top) else none
  match b.space with
  | 0 => limit (64 * 512 * vunits)
  | 6 => limit 65536
  | _ => firstBad a n

/-- A tensor side at issue: the reference, the coordinates, and the format and scale presence if the handle's entry
gives them (R426). -/
structure TenSide where
  ref : TRef
  row : Int
  col : Int
  fmt : Option (Sfmt × Bool)
  deriving DecidableEq, Repr

/-- R225: an address register value split into row and column. -/
def splitCoord (v : Int) : Int × Int :=
  let col := (BitVec.ofInt 32 v).toInt
  ((v - col) / 2 ^ 32, col)

/-- Whether a coordinate is a signed 32-bit number. -/
def coordOk (v : Int) : Bool := decide (-(2 ^ 31) ≤ v) && decide (v < 2 ^ 31)

/-- R225, R427: row × 2^32 + column of the first element of a row of n elements outside the signed 32-bit range. -/
def coordOver (row col : Int) (n : Nat) : Option Int :=
  if !coordOk row || !coordOk col then some (row * 2 ^ 32 + col)
  else if 2 ^ 31 ≤ col + n - 1 then some (row * 2 ^ 32 + 2 ^ 31)
  else none

/-- R131, R225, R427: the same for coordinates that an address register gives, whose exact value must lie in the signed 64-bit
range. -/
def splitOver (row col : Int) (n : Nat) : Option Int :=
  if fits64 (row * 2 ^ 32 + col) then coordOver row col n else some (row * 2 ^ 32 + col)

/-- The source of a copy at issue. -/
inductive Src where
  | bytes (b : ByteSide)
  | ten (t : TenSide)
  deriving DecidableEq, Repr

/-- R224: whether ROWB is a whole number of source elements. -/
def wholeElems (f : Sfmt) (rowb : Nat) : Bool := if f = .lns6 then decide (rowb % 3 = 0) else decide (8 * rowb % f.bits = 0)

/-- E: the elements in ROWB bytes. -/
def elemsIn (f : Sfmt) (rowb : Nat) : Nat := 8 * rowb / f.bits

/-- What an issue knows of a copy: the bank formats, VFMT, ROWS, ROWB, source and destination. For a flue, the
destination is space 5 and has no address. -/
structure Plan where
  bf : Tab (BitVec 16)
  vunits : Nat
  vfmt : Nat
  rows : Nat
  rowb : Nat
  src : Src
  dst : ByteSide

/-- The source format of a row, if known. -/
def Plan.srcFmt (p : Plan) (r : Nat) : Option (Sfmt × Bool) :=
  match p.src with
  | .bytes b => some (byteFmt p.bf b.space p.vfmt (b.at r))
  | .ten t => t.fmt

/-- The elements of a row, if known. -/
def Plan.elems (p : Plan) (r : Nat) : Option Nat := (p.srcFmt r).map (fun f => elemsIn f.1 p.rowb)

/-- R225: the first offending value of a row, the source before the destination. Assumption log 31 (DEDUCED). -/
def Plan.over (p : Plan) (r : Nat) : Option Int :=
  let n := (p.elems r).getD 1
  let s := match p.src with
    | .bytes b =>
      let f : Sfmt := ((p.srcFmt r).getD (.fp32, false)).1
      b.over p.vunits r (if b.space = 0 ∧ f = Sfmt.lns6 then sideBytes 0 f n else p.rowb)
    | .ten t => splitOver (t.row + r) t.col n
  let d := if p.dst.space = 5 then none
    else p.dst.over p.vunits r (sideBytes p.dst.space (byteFmt p.bf p.dst.space p.vfmt (p.dst.at r)).1 n)
  s.or d

/-- R224: the addresses, then the byte counts of the rows, then the column. -/
def Plan.misaligned (p : Plan) : Option Int :=
  let addr := fun (b : ByteSide) => if b.addr % 16 ≠ 0 then some b.addr else none
  let s := match p.src with
    | .bytes b => addr b
    | .ten _ => none
  let d := if p.dst.space = 5 then none else addr p.dst
  let row := fun r =>
    match p.srcFmt r with
    | none => none
    | some (f, scl) =>
      let (df, dscl) := byteFmt p.bf p.dst.space p.vfmt (p.dst.at r)
      let n := elemsIn f p.rowb
      if !wholeElems f p.rowb || ((scl || dscl) && decide (n % 32 ≠ 0)) || (decide (df = .lns6) && decide (n % 4 ≠ 0)) then
        some (p.rowb : Int)
      else if p.dst.space = 5 ∧ sideBytes 5 df n % 512 ≠ 0 then some (sideBytes 5 df n : Int)
      else none
  let col := match p.src with
    | .ten t =>
      match t.fmt with
      | some (f, scl) =>
        if (scl && decide (t.col % 32 ≠ 0)) || (decide (f = .lns6) && decide (t.col % 4 ≠ 0)) then some t.col else none
      | none => none
    | .bytes _ => none
  ((s.or d).or ((List.range p.rows).findSome? row)).or col

/-- R226: the first row of a peer side outside that core's home banks. -/
def Plan.notHome (p : Plan) (r : Nat) : Option Int :=
  let f := fun (b : ByteSide) =>
    if b.space = 4 && !isHome b.peer (bankOf (b.at r).toNat) then some (b.at r) else none
  (match p.src with
    | .bytes b => f b
    | .ten _ => none).or (f p.dst)

/-- The checks of a copy in their order (R226). -/
def Plan.checks (s : State) (p : Plan) : List (Option FaultRec) :=
  let rows := List.range p.rows
  [trapVal s fcOverflow (rows.findSome? p.over), trapVal s fcMisaligned p.misaligned,
   trapVal s fcHomeBank (rows.findSome? p.notHome)]

/-- A tensor side from a register and the coordinates, with the lookup of R426. -/
def tenSide (s : State) (w : Word) (v : Int) : TenSide :=
  let ref := trefOf w
  let e := s.entry (s.procOf s.cur) ref.handle clTensor
  { ref := ref, row := (splitCoord v).1, col := (splitCoord v).2, fmt := e.map (fun h => (h.sfmt, h.scl)) }

/-- R426: the fault that the token of an operation on an invalid tensor carries. -/
def tenFault (s : State) (t : TenSide) : Option FaultRec :=
  match s.lookup (s.procOf s.cur) t.ref.handle clTensor with
  | .bad code =>
    some (handleFault code t.ref.handle
      (firstOff (s.handle (s.procOf s.cur) (hIndex t.ref.handle)) t.row t.col 1 1))
  | _ => none

/-- A side as the operation keeps it. -/
def ByteSide.keep (b : ByteSide) : Side :=
  match b.space with
  | 0 => .vrf b.addr.toNat
  | 2 => .spl b.addr.toNat true
  | 4 => .peer b.peer b.addr.toNat
  | 6 => .cov b.addr.toNat
  | _ => .spl b.addr.toNat false

def Src.keep (x : Src) : Side :=
  match x with
  | .bytes b => b.keep
  | .ten t => .ten t.ref t.row t.col

/-- The source of a CPY or a STRM. Assumption log 30 (DEDUCED). -/
def copySrc (s : State) (f : CopyF) : Src :=
  let v := s.cur.xval f.xs.toNat
  if f.ssp = 3 then .ten (tenSide s (s.cur.rd f.sh.toNat) v)
  else .bytes { space := f.ssp.toNat, addr := v, stride := shSstr (s.cur.shape f.h.toNat), peer := f.peer.toNat }

/-- R222, R226: the register values that a copy refuses as illegal fields. -/
def copyField (s : State) (f : CopyF) : Bool :=
  decide (shRows (s.cur.shape f.h.toNat) = 0) || (decide (f.ssp = 3) && trefBad (s.cur.rd f.sh.toNat))

/-- The plan of a copy. -/
def planOf (s : State) (h : Nat) (src : Src) (dst : ByteSide) : Plan :=
  let sh := s.cur.shape h
  { bf := bfmts s, vunits := s.cur.vunits, vfmt := shVfmt sh, rows := shRows sh, rowb := shRowb sh, src := src, dst := dst }

def Src.fault (s : State) (x : Src) : Option FaultRec :=
  match x with
  | .ten t => tenFault s t
  | .bytes _ => none

/-- CPY (R226). -/
def opCpy (c : DC) (f : CopyF) (s : State) : Res :=
  let src := copySrc s f
  let dst : ByteSide :=
    { space := f.dsp.toNat, addr := s.cur.xval f.xd.toNat, stride := shDstr (s.cur.shape f.h.toNat), peer := f.peer.toNat }
  dOp c false (f.ssp = 6 && (s.core s.foc.core).covBusy)
    (dCheck (trapIf s fcField (copyField s f) :: (planOf s f.h.toNat src dst).checks s)
      { xfer := true, kind := fun _ => .copy src.keep dst.keep, smp := sampleOf s f.h.toNat, toks := dcToks c,
        own := src.fault s, also := id }) s

/-- The meaning of CPY. -/
def execCpy (c : DC) (f : CopyF) (s : State) : Host.Outcome State Fault Refusal := commit (opCpy c f s) s

/-- STRM (R227). -/
def opStrm (c : DC) (f : CopyF) (s : State) : Res :=
  let src := copySrc s f
  let dst : ByteSide := { space := 5, addr := 0, stride := 0, peer := 0 }
  dOp c false false
    (dCheck (trapIf s fcField (copyField s f) :: (planOf s f.h.toNat src dst).checks s)
      { xfer := true, kind := fun _ => .strm src.keep f.dsp.toNat 0, smp := sampleOf s f.h.toNat, toks := dcToks c,
        own := src.fault s, also := id }) s

/-- The meaning of STRM. -/
def execStrm (c : DC) (f : CopyF) (s : State) : Host.Outcome State Fault Refusal := commit (opStrm c f s) s

/-! ### RING (R228) -/

/-- The next core of a mask above a local core, cyclically. -/
def ringNext (mask : BitVec 8) (l : Nat) : Nat :=
  (((List.range 8).map (fun d => (l + d + 1) % 8)).find? (fun j => mask.getLsbD j)).getD l

/-- The place of a core's count of RINGs under a mask. -/
def ringKey (c : Nat) (mask : BitVec 8) : Nat := 256 * c + mask.toNat

/-- R228: the number of RINGs that a launch has issued on a core under a mask. Assumption log 26 (DEDUCED). -/
def State.ringCount (s : State) (x : Ctx) (key : Nat) : Nat :=
  match s.launchOf x with
  | some l => Tab.get l.rings key 0
  | none => 0

/-- RING (R228). Assumption log 27 (DEDUCED). -/
def opRing (c : DC) (f : RingF) (s : State) : Res :=
  let l := localOf s.foc.core
  let sh := s.cur.shape f.h.toNat
  let src : ByteSide := { space := 4, addr := s.cur.xval f.xs.toNat, stride := shSstr sh, peer := l }
  let dst : ByteSide := { space := 4, addr := s.cur.xval f.xd.toNat, stride := shDstr sh, peer := ringNext f.mask l }
  let key := ringKey s.foc.core f.mask
  if !f.mask.getLsbD l then earlyAt s fcField
  else
    dOp c false false
      (dCheck (trapIf s fcField (decide (shRows sh = 0)) :: (planOf s f.h.toNat (.bytes src) dst).checks s)
        { xfer := true,
          kind := fun t => .ring f.mask.toNat (t.ringCount s.cur key) src.addr.toNat dst.addr.toNat false,
          smp := sampleOf s f.h.toNat, toks := dcToks c, own := none,
          also := fun t => t.modLaunch s.cur.launch (fun l => { l with rings := Tab.put l.rings key (Tab.get l.rings key 0 + 1) }) }) s

/-- The meaning of RING. -/
def execRing (c : DC) (f : RingF) (s : State) : Host.Outcome State Fault Refusal := commit (opRing c f s) s

/-! ### GATH and SCAT (R229) -/

/-- R229: the checks of the base address. -/
def baseChecks (s : State) (v : Int) : List (Option FaultRec) :=
  [trapVal s fcOverflow (if v < 0 ∨ 2 ^ 25 ≤ v ∨ Config.bankBytes ≤ offIn v.toNat then some v else none),
   trapVal s fcMisaligned (if v % 4 ≠ 0 then some v else none)]

/-- GATH (R229). -/
def opGath (c : DC) (f : GathF) (s : State) : Res :=
  let n := f.nv.toNat + 1
  let v := s.cur.xval f.xs.toNat
  dOp c (noVecs s f.vi n || noVecs s f.vd n) false
    (dCheck (baseChecks s v)
      { xfer := true,
        kind := fun _ => .gath (s.cur.phys f.vi.toNat) (s.cur.phys f.vd.toNat) n v.toNat f.v,
        smp := sampleOf s 0, toks := dcToks c, own := none, also := id }) s

/-- The meaning of GATH. -/
def execGath (c : DC) (f : GathF) (s : State) : Host.Outcome State Fault Refusal := commit (opGath c f s) s

/-- R229: the bank format that a SCAT type needs. -/
def scatFmt (ty : BitVec 3) : Sfmt := if ty = 0 then .fp32 else if ty = 3 then .int32 else .ui32

/-- SCAT (R229). -/
def opScat (c : DC) (f : ScatF) (s : State) : Res :=
  let n := f.nv.toNat + 1
  let v := s.cur.xval f.xd.toNat
  dOp c (noVecs s f.vi n || noVecs s f.vv n) false
    (dCheck (baseChecks s v ++
        [trapVal s fcFormat (if bankFmt (bfmts s) (bankOf v.toNat) ≠ (scatFmt f.ty, false) then some v else none)])
      { xfer := true,
        kind := fun _ => .scat (s.cur.phys f.vi.toNat) (s.cur.phys f.vv.toNat) n v.toNat f.v f.op.toNat f.ty.toNat,
        smp := sampleOf s 0, toks := dcToks c, own := none, also := id }) s

/-- The meaning of SCAT. -/
def execScat (c : DC) (f : ScatF) (s : State) : Host.Outcome State Fault Refusal := commit (opScat c f s) s

/-! ### Windows (R230–R233) -/

/-- R230: the fields of a descriptor. -/
def wLane (d : List Lane) (i : Nat) : Nat := (d.getD i 0).toNat
def wInt (d : List Lane) (i : Nat) : Int := (d.getD i 0).toInt
def wHandle (d : List Lane) : BitVec 32 := d.getD 0 0
def wRay (d : List Lane) : Nat := wLane d 1 % 64
def wRnd (d : List Lane) : Nat := wLane d 1 / 2 ^ 8 % 8
def wFill (d : List Lane) : Nat := wLane d 1 / 2 ^ 16
def wRows (d : List Lane) : Nat := wLane d 4 % 2 ^ 16
def wDepth (d : List Lane) : Nat := wLane d 4 / 2 ^ 16
def wElems (d : List Lane) : Nat := wLane d 5 % 2 ^ 20
def wBase (d : List Lane) : Nat := wLane d 6 % 2 ^ 25
def wPitch (d : List Lane) : Nat := wLane d 7 % 2 ^ 20

/-- R230: the tensor row of a window row. -/
def wRow (d : List Lane) (i : Nat) : Int := wInt d 2 + i * wInt d 8

/-- R230, R231: a reserved field that is nonzero, or a limit that is broken. -/
def wBad (v : Vec) : Bool :=
  let d := (List.range 16).map (fun i => BitVec.ofNat 32 (vlane v i))
  decide (wLane d 1 / 2 ^ 6 % 4 ≠ 0) || decide (wLane d 1 / 2 ^ 11 % 32 ≠ 0) || decide (4 < wRnd d) ||
    decide (2 ^ 20 ≤ wLane d 5) || decide (2 ^ 25 ≤ wLane d 6) || decide (2 ^ 20 ≤ wLane d 7) ||
    decide (wRows d = 0) || decide (wDepth d < wRows d) || decide (wElems d = 0) ||
    (List.range 7).any (fun i => decide (wLane d (9 + i) ≠ 0))

/-- R231: the rows from `first` on, and the columns, that leave the signed 32-bit range. -/
def wOver (d : List Lane) (first n : Nat) : Option Int :=
  (List.range n).findSome? (fun i => coordOver (wRow d (first + i)) (wInt d 3) (wElems d))

/-- R231 check 3: the ring's alignment, then the length of a converted row, then R224's rule for scaled and LNS6 data. -/
def wMisaligned (bf : Tab (BitVec 16)) (d : List Lane) (fmt : Option (Sfmt × Bool)) : Option Int :=
  let (f, scl) := bankFmt bf (bankOf (wBase d))
  let n := wElems d
  let sscl := match fmt with
    | some q => q.2
    | none => false
  let col := wInt d 3
  if wBase d % 128 ≠ 0 then some (wBase d : Int)
  else if wPitch d % 128 ≠ 0 then some (wPitch d : Int)
  else if wPitch d < rowBytes f n then some (rowBytes f n : Int)
  else if ((scl || sscl) && decide (n % 32 ≠ 0)) || (decide (f = .lns6) && decide (n % 4 ≠ 0)) then some (rowBytes f n : Int)
  else if (sscl && decide (col % 32 ≠ 0)) || (decide (fmt.map Prod.fst = some .lns6) && decide (col % 4 ≠ 0)) then some col
  else none

/-- The tensor of a window as its issue finds it. -/
def wTen (s : State) (d : List Lane) : TenSide :=
  let e := s.entry (s.procOf s.cur) (wHandle d) clTensor
  { ref := { handle := wHandle d, ray := wRay d }, row := wInt d 2, col := wInt d 3, fmt := e.map (fun h => (h.sfmt, h.scl)) }

/-- The identifier that an operation of the slot in focus takes next. -/
def nextXfer (s : State) (t : State) : Nat := if isDb s then t.cur.nextB else t.cur.nextA

/-- R230: a descriptor with RND's default resolved by RMODE, as WDEF samples it. -/
def wSampled (v : Vec) (rmode : BitVec 3) : List Lane :=
  (List.range 9).map (fun i =>
    let w := BitVec.ofNat 32 (vlane v i)
    if i = 1 ∧ w.toNat / 2 ^ 8 % 8 = 0 then w + BitVec.ofNat 32 ((rmode.toNat + 1) * 2 ^ 8) else w)

/-- WDEF (R231). Assumption log 33 (DEDUCED). -/
def opWdef (c : DC) (f : WdefF) (s : State) : Res :=
  let w := f.w.toNat
  let src := s.cur.vsrc f.v.toNat
  let v := s.vread src
  let d := wSampled v s.cur.rmode
  let ten := wTen s d
  dOp c (src = .bad) (s.cur.srcEmpty src)
    (dCheck
      [trapIf s fcField ((Tab.find s.cur.wins w).isSome || wBad v),
       trapVal s fcOverflow ((wOver d 0 (wRows d)).or (firstBad (wBase d) (wDepth d * wPitch d))),
       trapVal s fcMisaligned (wMisaligned (bfmts s) d ten.fmt),
       trapVal s fcHomeBank (if isHome (localOf s.foc.core) (bankOf (wBase d)) then none else some (wBase d : Int))]
      { xfer := true, kind := fun _ => .fetch w 0 (wRows d) d, smp := sampleOf s 0, toks := dcToks c, own := tenFault s ten,
        also := fun t => (popAll s.cur [f.v.toNat] t).modCur (fun x =>
          let win : Win := { desc := d, next := wRows d, oldest := 0, lastId := nextXfer s t, landed := 0 }
          { x with wins := Tab.put x.wins w win }) }) s

/-- The meaning of WDEF. -/
def execWdef (c : DC) (f : WdefF) (s : State) : Host.Outcome State Fault Refusal := commit (opWdef c f s) s

/-- WADV (R232). Of two of one window in a bundle (R237), that in DB fetches the rows after those of DA, and both are checked
from the position before the bundle. Assumption log 103 (DESIGN CHOICE). -/
def opWadv (c : DC) (f : WadvF) (s : State) : Res :=
  let w := f.w.toNat
  let win := Tab.find s.cur.wins w
  let n := if f.s then (s.cur.rd (f.n.toNat / 2 ^ 10)).toNat else f.n.toNat
  let d := match win with
    | some q => q.desc
    | none => []
  let next := match win with
    | some q => q.next
    | none => 0
  let ten := wTen s d
  dOp c false false
    (dCheck
      [trapIf s fcField (win.isNone || decide (n = 0) || decide (wRows d < n)),
       trapVal s fcOverflow (wOver d next n), trapVal s fcMisaligned (wMisaligned (bfmts s) d ten.fmt)]
      { xfer := true,
        kind := fun t => .fetch w (match Tab.find t.cur.wins w with | some q => q.next | none => next) n d,
        smp := sampleOf s 0, toks := dcToks c, own := tenFault s ten,
        also := fun t => t.modCur (fun x =>
          match Tab.find x.wins w with
          | some q =>
            let win : Win := { q with next := q.next + n, oldest := q.oldest + n, lastId := nextXfer s t }
            { x with wins := Tab.put x.wins w win }
          | none => x) }) s

/-- The meaning of WADV. -/
def execWadv (c : DC) (f : WadvF) (s : State) : Host.Outcome State Fault Refusal := commit (opWadv c f s) s

/-- The fetches of a window in flight. -/
def Core.fetches (k : Core) (x w : Nat) : List Nat :=
  (k.dops.filter (fun o => decide (o.ctx = x) &&
    (match o.kind with | .fetch w' _ _ _ => decide (w' = w) | _ => false))).map (fun o => o.id)

/-- WREL (R233). -/
def opWrel (c : DC) (f : WrelF) (s : State) : Res :=
  let w := f.w.toNat
  dOp c false false
    (dCheck [trapIf s fcField (Tab.find s.cur.wins w).isNone]
      { xfer := false, kind := fun _ => .release w ((s.core s.foc.core).fetches s.foc.ctx w), smp := sampleOf s 0,
        toks := dcToks c, own := none, also := fun t => t.modCur (fun x => { x with wins := Tab.erase x.wins w }) }) s

/-- The meaning of WREL. -/
def execWrel (c : DC) (f : WrelF) (s : State) : Host.Outcome State Fault Refusal := commit (opWrel c f s) s

/-! ### TJOIN (R235) -/

/-- TJOIN (R235). -/
def opTjoin (c : DC) (f : JoinF) (s : State) : Res :=
  let more := [f.t3, f.t4, f.t5, f.t6, f.t7, f.t8, f.t9, f.t10, f.t11].map BitVec.toNat
  dOp c false false
    (.ok { xfer := false, kind := fun _ => .join, smp := sampleOf s 0, toks := dcToks c ++ more, own := none, also := id }) s

/-- The meaning of TJOIN. -/
def execTjoin (c : DC) (f : JoinF) (s : State) : Host.Outcome State Fault Refusal := commit (opTjoin c f s) s

end Sys2Proof.Machine
end

