-- ==== Sys2Proof/Machine/CopyRun.lean ====
section
/-! DEFINITION. What copies, streams, ring shifts, gathers, scatters and window fetches move (R42, R226–R232), and their
completions. An engine operation makes all its accesses at its completion. -/

set_option Elab.async false

namespace Sys2Proof.Machine

/-! ### Reading a row (R38, R42, R226) -/

/-- A source element: own value, value with its scale, its bits where they can move unchanged, and its index. -/
structure SrcElem where
  own : Fv
  full : Fv
  bits : Option Nat
  idx : Nat

/-- R226: the rounding mode that a RND field gives. -/
def rndOf (rnd : Nat) (rmode : BitVec 3) : Rmode := Rmode.ofCode (if rnd = 0 then rmode.toNat else rnd - 1)

/-- The bits of bytes of a partition of the VRF from a byte address on. -/
def Core.vrfBits (k : Core) (phys a n : Nat) : Nat :=
  let v0 := a / 512
  let cnt := (a + n - 1) / 512 - v0 + 1
  ((List.range cnt).foldr (fun i acc => (k.vec (phys + v0 + i)).toNat + acc * 2 ^ 4096) 0) / 2 ^ (8 * (a % 512))

/-- The format and scale presence of a side's row at its address. -/
def sideFmt (smp : Sample) (sd : Side) (stride : Int) (r : Nat) : Sfmt × Bool :=
  let row := fun (a : Nat) => (a : Int) + r * stride
  match sd with
  | .vrf a => byteFmt smp.bfmt 0 (shVfmt smp.shape) (row a)
  | .spl a _ | .peer _ a => byteFmt smp.bfmt 1 0 (row a)
  | .cov _ => (.fp32, false)
  | .ten _ _ _ => (.fp32, false)

/-- The raw bits of a row of a byte side, each element at its place, for the context of a core. -/
def sideBits (v : State) (c phys : Nat) (sd : Side) (stride : Int) (r n : Nat) : Nat :=
  let row := fun (a : Nat) => ((a : Int) + r * stride).toNat
  match sd with
  | .vrf a => (v.core c).vrfBits phys (row a) n
  | .spl a swz => (v.cluster (clusterOf c)).rowNat swz (row a) n
  | .peer _ a => (v.cluster (clusterOf c)).rowNat false (row a) n
  | .cov a =>
    (List.range ((n + 3) / 4)).foldr (fun i acc => (v.core c).covAt (row a / 4 + i) + acc * 2 ^ 32) 0
  | .ten _ _ _ => 0

/-- R39, R217: the sidecar entry of a group of a row, from the linear place of its first byte.
Assumption log 32 (DEDUCED). -/
def groupEntry (f : Sfmt) (swz : Bool) (a g : Nat) : Nat :=
  let lin := linear swz (a + 4 * f.bits * g)
  bankOf lin * 16384 + offIn lin / (4 * f.bits)

/-- Whether a side is in the swizzled view. -/
def Side.swz (sd : Side) : Bool :=
  match sd with
  | .spl _ z => z
  | _ => false

/-- The address of a byte side's row. -/
def Side.rowAddr (sd : Side) (stride : Int) (r : Nat) : Nat :=
  match sd with
  | .vrf a | .spl a _ | .peer _ a | .cov a => ((a : Int) + r * stride).toNat
  | .ten _ _ _ => 0

/-- The elements of a row of a byte side. -/
def readBytes (v : State) (c phys : Nat) (smp : Sample) (sd : Side) (stride : Int) (r n : Nat) : List SrcElem :=
  let (f, scl) := sideFmt smp sd stride r
  let isVrf := match sd with | .vrf _ => true | _ => false
  let bits := sideBits v c phys sd stride r (sideBytes (if isVrf then 0 else 1) f n)
  let cl := v.cluster (clusterOf c)
  let a := sd.rowAddr stride r
  (List.range n).map (fun e =>
    let code := bits / 2 ^ (if isVrf then elemPos f e else f.bits * e) % 2 ^ f.bits
    let idx := if scl then (Tab.get cl.side (groupEntry f sd.swz a (e / 32)) 0).toNat else 0
    { own := decodeElem f code, full := scaled f code (if scl then some (Tab.get smp.sc idx 0) else none),
      bits := some code, idx := idx })

/-- R273: the fault of a read that meets a poisoned granule. -/
def poisonFault (h : Handle) (ref : BitVec 32) (g : Nat) : FaultRec :=
  { handleFault fcPoisoned ref (elemOff h.sfmt (h.granFirst g)) with elem := h.frElem (h.granFirst g) }

/-- R225, R250: the elements of a tensor row through a ray; elements outside the tensor are FILL, with index 0.
Assumption log 86 (DEDUCED). -/
def readTensor (p : Process) (h : Handle) (ref : TRef) (x : Reader) (sc : Tab (BitVec 16)) (fill : Nat)
    (row col : Int) (n : Nat) : Except FaultRec (List SrcElem) :=
  let es := (List.range n).map (fun (i : Nat) =>
    if h.inside row (col + i) then some (readElem p h ref.ray x (h.elem row (col + i))) else none)
  match es.findSome? (fun e => e.bind (fun q => q.poison)) with
  | some g => .error (poisonFault h ref.handle g)
  | none =>
    .ok (es.map (fun e =>
      match e with
      | none => { own := decodeFf bf16 fill, full := decodeFf bf16 fill, bits := none, idx := 0 }
      | some q =>
        let full := if h.scl then scaleVal (Tab.get sc q.idx 0) q.val else q.val
        { own := q.val, full := full, bits := q.bits, idx := q.idx }))

/-! ### Conversion (R42) -/

/-- R42: the codes and the indices that a row of elements becomes; the index of a group is that of its first element. -/
def convRow (mode : Rmode) (sc : Tab (BitVec 16)) (src dst : Sfmt × Bool) (es : List SrcElem) : List Nat × List Nat :=
  let same := decide (src = dst)
  let code := fun (e : SrcElem) =>
    match (if same then e.bits else none) with
    | some b => b
    | none =>
      encodeElem dst.1 mode
        (if dst.2 then (if src.2 then e.own else unscaleVal (Tab.get sc 0 0) e.full) else if same then e.own else e.full)
  let idx := if dst.2 && src.2 then (List.range ((es.length + 31) / 32)).map (fun g =>
      match es[32 * g]? with
      | some e => e.idx
      | none => 0)
    else List.replicate ((es.length + 31) / 32) 0
  (es.map code, idx)

/-! ### Writing a row -/

/-- The bits of a vector row that a copy of n elements writes; an LNS6 lane is written whole, the byte above its four codes
zero. Assumption log 84 (DESIGN CHOICE). -/
def vrfSel (f : Sfmt) (n : Nat) : Nat := if f = .lns6 then 2 ^ (32 * ((n + 3) / 4)) - 1 else 2 ^ (f.bits * n) - 1

/-- Elements at their places in a row. -/
def packRow (isVrf : Bool) (f : Sfmt) (codes : List Nat) : Nat :=
  (codes.zipIdx).foldl (fun acc q => acc + q.1 % 2 ^ f.bits * 2 ^ (if isVrf then elemPos f q.2 else f.bits * q.2)) 0

/-- Bits of a partition of the VRF replaced from a byte address on. -/
def Core.putVrf (k : Core) (phys a sel new : Nat) : Core :=
  let s := sel * 2 ^ (8 * (a % 512))
  let v := new * 2 ^ (8 * (a % 512))
  let cnt := s.log2 / 4096 + 1
  (List.range cnt).foldl
    (fun k i =>
      let q := phys + a / 512 + i
      let si := BitVec.ofNat 4096 (s / 2 ^ (4096 * i))
      let vi := BitVec.ofNat 4096 (v / 2 ^ (4096 * i))
      { k with vrf := Tab.put k.vrf q (((k.vec q) &&& ~~~ si) ||| (vi &&& si)) }) k

/-- Write the sidecar entries of a row. -/
def Cluster.putSide (k : Cluster) (f : Sfmt) (swz : Bool) (a : Nat) (idx : List Nat) : Cluster :=
  { k with side := (idx.zipIdx).foldl (fun t q => Tab.put t (groupEntry f swz a q.2) (BitVec.ofNat 4 q.1)) k.side }

/-- The sidecar entries of a row's groups. -/
def rowEntries (f : Sfmt) (swz : Bool) (a groups : Nat) : List Nat := (List.range groups).map (groupEntry f swz a)

/-- A row of codes, with its indices for a scaled bank, stored on a byte side. -/
def writeRow (c phys : Nat) (smp : Sample) (sd : Side) (stride : Int) (r : Nat) (codes idx : List Nat) (s : State) :
    State :=
  let (f, scl) := sideFmt smp sd stride r
  let a := sd.rowAddr stride r
  match sd with
  | .vrf _ =>
    (s.engineWrites c phys a (sideBytes 0 f codes.length)).modCore c (fun k =>
      k.putVrf phys a (vrfSel f codes.length) (packRow true f codes))
  | .spl _ _ | .peer _ _ =>
    let s1 := s.healSpl (clusterOf c) sd.swz a (rowBytes f codes.length)
    let s2 := if scl then s1.healSide (clusterOf c) (rowEntries f sd.swz a idx.length) else s1
    s2.modCluster (clusterOf c) (fun k =>
      let k1 := k.putRow sd.swz a (f.bits * codes.length) (packRow false f codes)
      if scl then k1.putSide f sd.swz a idx else k1)
  | _ => s

/-! ### Damage met (R421) -/

/-- A row of a byte side: its format and scale presence, its address, its elements and its bytes. -/
structure SideRow where
  fmt : Sfmt
  scl : Bool
  addr : Nat
  elems : Nat
  bytes : Nat

/-- Row r of a byte side that an operation reads. -/
def DOp.row (o : DOp) (sd : Side) (r : Nat) : SideRow :=
  let stride := shSstr o.smp.shape
  let (f, scl) := sideFmt o.smp sd stride r
  let n := elemsIn f (shRowb o.smp.shape)
  let isVrf := match sd with | .vrf _ => true | _ => false
  { fmt := f, scl := scl, addr := sd.rowAddr stride r, elems := n, bytes := sideBytes (if isVrf then 0 else 1) f n }

/-- The words that a row of a byte side stands in: lanes, scratchpad words with their sidecar entries, cover entries. -/
def SideRow.holds (w : SideRow) (c phys : Nat) (sd : Side) (d : Damage) : Bool :=
  match sd, d with
  | .vrf _, .lane c' p i =>
    decide (c' = c) && decide (phys ≤ p) && decide (w.addr < 512 * (p - phys) + 4 * i + 4) &&
      decide (512 * (p - phys) + 4 * i < w.addr + w.bytes)
  | .spl _ _, .spl k a | .peer _ _, .spl k a =>
    decide (k = clusterOf c) && (List.range w.bytes).any (fun i => decide (linear sd.swz (w.addr + i) / 8 = a))
  | .spl _ _, .side k e | .peer _ _, .side k e =>
    w.scl && decide (k = clusterOf c) && (rowEntries w.fmt sd.swz w.addr ((w.elems + 31) / 32)).contains e
  | .cov _, .cov c' e => decide (c' = c) && decide (w.addr / 4 ≤ e) && decide (e < (w.addr + w.bytes + 3) / 4)
  | _, _ => false

/-- R212: where a row in the scratchpad is damaged first, in its words or in the sidecar entry of a group, as an address; 0
for a damaged lane of the VRF. An error in the cover store fails no copy (R194). -/
def rowHurt (s : State) (c phys : Nat) (sd : Side) (w : SideRow) : Option Nat :=
  if s.damaged.isEmpty then none
  else
    match sd with
    | .vrf _ => if s.damaged.any (w.holds c phys sd) then some 0 else none
    | .spl _ _ | .peer _ _ =>
      let cl := clusterOf c
      ((List.range w.bytes).find? (fun i =>
        s.hurt (.spl cl (linear sd.swz (w.addr + i) / 8)) ||
          (w.scl && s.hurt (.side cl (groupEntry w.fmt sd.swz w.addr (i / (4 * w.fmt.bits))))))).map
        (fun i => linear sd.swz (w.addr + i))
    | _ => none

/-! ### Handles at the access (R314, R326–R328, R363) -/

/-- The tensor that a side or an operation reads, at the access: a fault, a wait, or the entry. -/
def State.tenAt (s : State) (c x : Nat) (ref : TRef) (row col : Int) (rows cols : Nat) : Except FaultRec (Option Handle) :=
  let p := s.procOf (s.ctx c x)
  let h := s.handle p (hIndex ref.handle)
  match s.fate p ref.handle clTensor (firstOff h row col rows cols) with
  | .error r => .error r
  | .ok none => .ok none
  | .ok (some e) =>
    if (e.ray ref.ray).alive then .ok (some e)
    else .error (handleFault fcInvalid ref.handle (firstOff h row col rows cols))

/-- The lines that hold a rectangle of a tensor, row by row. -/
def Handle.lines (h : Handle) (row col : Int) (rows cols : Nat) : List Nat :=
  ((List.range rows).flatMap (fun (r : Nat) =>
    let c0 := max col 0
    let c1 := min (col + cols) h.cols
    if h.inside (row + r) c0 ∧ c0 < c1 then
      let a := elemOff h.sfmt (h.elem (row + r) c0) / 4096
      let b := elemOff h.sfmt (h.elem (row + r) (c1 - 1)) / 4096
      (List.range (b - a + 1)).map (· + a)
    else [])).dedup

/-- The tensor side of an operation, if it has one. -/
def Side.tensor (sd : Side) : Option (TRef × Int × Int) :=
  match sd with
  | .ten ref row col => some (ref, row, col)
  | _ => none

/-- R251: the words that a read of one element through a ray uses: those of each record that contributes to it, and of the
base where its value comes from there; with the line of the base that holds it. -/
def State.elemWords (s : State) (p : Nat) (h : Handle) (ref : TRef) (x : Reader) (e : Nat) : List Damage × List Nat :=
  let r := readElem (s.proc p) h ref.ray x e
  let g := h.granule e
  let stored := fun (n : Nat) =>
    match (s.proc p).patch n with
    | some q => (h.beats ((Sfmt.ofCode q.dfmt).getD .fp32) (h.scl && !q.isAdd) e).map (Damage.store p n g)
    | none => []
  (r.names.flatMap stored ++ (if r.base then (h.beats h.sfmt h.scl e).map (.base p (hIndex ref.handle) g) else []),
   if r.base then [elemOff h.sfmt e / 4096] else [])

/-- R212: the fault of the first damaged word among those that a read of a tensor row uses. -/
def State.rowDamage (s : State) (p : Nat) (h : Handle) (ref : TRef) (x : Reader) (row col : Int) (n : Nat) :
    Option FaultRec :=
  if s.damaged.isEmpty then none
  else
    (List.range n).findSome? (fun (k : Nat) =>
      if h.inside row (col + k) then
        let e := h.elem row (col + k)
        ((s.elemWords p h ref x e).1.find? s.hurt).map (wordFault ref.handle (elemOff h.sfmt (h.granFirst (h.granule e))))
      else none)

/-- R226: the source elements of row r of an operation's source side, in the state `v` as reads find it; `ten` is the
entry for a tensor side. -/
def srcRow (v : State) (c : Nat) (o : DOp) (sd : Side) (ten : Option Handle) (r n : Nat) : Except FaultRec (List SrcElem) :=
  let x := v.ctx c o.ctx
  let phys := 64 * x.vbase
  let stride := shSstr o.smp.shape
  match sd, ten with
  | .ten ref row col, some h =>
    match v.rowDamage (v.procOf x) h ref (v.reader c o.ctx) (row + r) col n with
    | some e => .error e
    | none =>
      readTensor (v.proc (v.procOf x)) h ref (v.reader c o.ctx) o.smp.sc (shFill o.smp.shape).toNat (row + r) col n
  | .ten _ _ _, none => .ok []
  | _, _ =>
    match rowHurt v c phys sd (o.row sd r) with
    | some a => .error { faultRec fcMemory none with offset := a }
    | none => .ok (readBytes v c phys o.smp sd stride r n)

/-- The format and scale presence of row r of a source. -/
def srcFmt (o : DOp) (sd : Side) (ten : Option Handle) (r : Nat) : Sfmt × Bool :=
  match ten with
  | some h => (h.sfmt, h.scl)
  | none => sideFmt o.smp sd (shSstr o.smp.shape) r

/-- The first n source rows of an operation, each with its format; the first fault in row order. -/
def srcRows (v : State) (c : Nat) (o : DOp) (sd : Side) (ten : Option Handle) (n : Nat) :
    Except FaultRec (List ((Sfmt × Bool) × List SrcElem)) :=
  (List.range n).foldr
    (fun r acc =>
      let f := srcFmt o sd ten r
      match srcRow v c o sd ten r (elemsIn f.1 (shRowb o.smp.shape)) with
      | .error e => .error e
      | .ok es => acc.map (fun rest => (f, es) :: rest)) (.ok [])

/-- The entry that a source side reads through from row r on: none for a byte side. -/
def State.srcTen (s : State) (c : Nat) (o : DOp) (sd : Side) (r : Nat) : Except FaultRec (Option (Option Handle)) :=
  match sd.tensor with
  | none => .ok (some none)
  | some (ref, row, col) =>
    let h := s.handle (s.procOf (s.ctx c o.ctx)) (hIndex ref.handle)
    match s.tenAt c o.ctx ref (row + r) col (shRows o.smp.shape - r) (elemsIn h.sfmt (shRowb o.smp.shape)) with
    | .error r => .error r
    | .ok none => .ok none
    | .ok (some e) => .ok (some (some e))

/-- R251: the same of the elements of a rectangle that lie in the tensor. -/
def State.rectWords (s : State) (p : Nat) (ref : TRef) (x : Reader) (row col : Int) (rows cols : Nat) :
    List Damage × List Nat :=
  let h := s.handle p (hIndex ref.handle)
  let each := (List.range rows).flatMap (fun (i : Nat) => (List.range cols).filterMap (fun (j : Nat) =>
    if h.inside (row + i) (col + j) then some (s.elemWords p h ref x (h.elem (row + i) (col + j))) else none))
  (each.flatMap Prod.fst, (each.flatMap Prod.snd).dedup)

/-- R251, R328, R421: what reading a rectangle of a tensor does: it pulls the lines of the base that it reads, and corrects
the words that it uses. -/
def State.afterTensor (s : State) (p : Nat) (ref : TRef) (x : Reader) (row col : Int) (rows cols : Nat) : State :=
  let i := hIndex ref.handle
  if s.weak.isEmpty && !(s.handle p i).pull then s
  else
    let (words, lines) := s.rectWords p ref x row col rows cols
    (s.touch p i lines).correctHbm (fun d => words.contains d)

/-- R194, R210, R350, R421: the errors that the reads of n rows of a byte side from row r on meet: those corrected, and
those of cover entries, which read as +∞ and of which no token carries the fault. -/
def State.afterRows (s : State) (c : Nat) (o : DOp) (sd : Side) (r n : Nat) : State :=
  let phys := 64 * (s.ctx c o.ctx).vbase
  let holds := fun d => (List.range n).any (fun k => (o.row sd (r + k)).holds c phys sd d)
  let s1 := s.correct (dieOf c) erCeSram holds
  let hits := match sd with
    | .cov _ => s1.damaged.filter holds
    | _ => []
  if hits.isEmpty then s1
  else
    (s1.countErrors (dieOf c) hits).missBy c o.ctx o.id
      { faultRec fcMemory (some (if o.chanB then 5 else 4)) with line := o.pc }

/-- What reading n rows of a source side from row r on does beside delivering their elements. -/
def State.afterRead (s : State) (c : Nat) (o : DOp) (sd : Side) (r n : Nat) : State :=
  match sd.tensor with
  | none => s.afterRows c o sd r n
  | some (ref, row, col) =>
    let p := s.procOf (s.ctx c o.ctx)
    s.afterTensor p ref (s.reader c o.ctx) (row + r) col n (elemsIn (s.handle p (hIndex ref.handle)).sfmt (shRowb o.smp.shape))

/-- The granules that rows of a source side from row r on read. -/
def State.sideUnits (s : State) (c : Nat) (o : DOp) (sd : Side) (r n : Nat) : List (Nat × Nat) :=
  match sd.tensor with
  | none => []
  | some (ref, row, col) =>
    s.rectUnits (s.procOf (s.ctx c o.ctx)) ref.handle (row + r) col n (fun h => elemsIn h.sfmt (shRowb o.smp.shape))

/-- An operation may make its accesses: it has started, and has not made them. Assumption log 35 (DEDUCED).
Assumption log 72 (DEDUCED). -/
def DOp.ready (o : DOp) : Bool := o.started && !o.performed && o.poison.isNone && o.waits.isEmpty

/-- R272: whether a record that a launch owns has a nonzero count. -/
def State.countedRecord (s : State) (p l : Nat) : Bool :=
  (s.proc p).patches.any (fun q => q.2.ofLaunch s.node l && decide (s.refs p q.1 q.2 ≠ 0))

/-- R272: whether a launch may be rolled back. -/
def State.replayable (s : State) (l : Nat) : Bool :=
  match Tab.find s.launches l with
  | some v => !v.once && decide (v.st = .live) && !s.countedRecord v.proc l
  | none => false

/-- The granules of a tensor, of a record or of an undo image that are poisoned, with one more. -/
def poisoned (gs : List Nat) (g : Nat) : List Nat := if gs.contains g then gs else gs ++ [g]

/-- R273: the granule of a tensor, of a record or of the undo image of one in which an error persists is marked poisoned.
Assumption log 44 (DEDUCED). -/
def State.persist (s : State) (d : Damage) : State :=
  let mark := fun (k : State → State) =>
    (k (s.heal (fun v => decide (v.unit = d.unit)))).count (s.damageDie d) erPoisoned
  let rec_ := fun (p n : Nat) (f : Patch → Patch) =>
    mark (fun t => t.modProc p (fun v =>
      { v with patches := v.patches.map (fun q => if q.1 = n then (q.1, f q.2) else q) }))
  match d with
  | .base p i g _ => mark (fun t => t.modHandle p i (fun h => { h with poison := poisoned h.poison g }))
  | .store p n g _ => rec_ p n (fun q => { q with bad := poisoned q.bad g })
  | .undo p n g _ => rec_ p n (fun q => { q with undoBad := poisoned q.undoBad g })
  | _ => s

/-- R273, R350: an error beyond correction met in a word of device memory is counted at the die of its stack, and persists. -/
def State.hbmError (s : State) (d : Damage) : State := (s.count (s.damageDie d) erUeHbm).persist d

/-- R117, R271–R273, R350: an operation of a kernel fails. An uncorrectable error that it met is counted; one in a tensor
poisons its granule, and rolls a replayable launch back, for which the operation completes. -/
def State.dFailCounted (s : State) (c i : Nat) (r : FaultRec) : State :=
  if r.code ≠ fcMemory then s.dFail c i r
  else
    match r.word, (s.core c).dops[i]? with
    | none, _ => (s.count (dieOf c) erUeSram).dFail c i r
    | _, none => s
    | some d, some o =>
      let x := s.ctx c o.ctx
      let s1 := s.hbmError d
      if s.replayable x.launch then (s1.modLaunch x.launch (fun l => { l with rollback := true })).dDone c i
      else s1.dFail c i r

/-! ### CPY and GATH -/

/-- R226: the rows of a copy, converted and stored. -/
def copyInto (c : Nat) (o : DOp) (dst : Side) (rows : List ((Sfmt × Bool) × List SrcElem)) (s : State) : State :=
  let phys := 64 * (s.ctx c o.ctx).vbase
  let stride := shDstr o.smp.shape
  let mode := rndOf (shRnd o.smp.shape) o.smp.rmode
  (rows.zipIdx).foldl
    (fun s q =>
      let (codes, idx) := convRow mode o.smp.sc q.1.1 (sideFmt o.smp dst stride q.2) q.1.2
      writeRow c phys o.smp dst stride q.2 codes idx s) s

/-- R229: the address of a gathered or scattered element; none when it is dropped. -/
def indexAddr (base : Nat) (swz : Bool) (idx : Nat) : Option Nat :=
  let a := base + 4 * idx
  if idx = 0xFFFFFFFF ∨ bankOf a ≠ bankOf base ∨ Config.bankBytes < offIn a + 4 then none else some (linear swz a)

/-- The indices of a block of vectors, in element order. -/
def indexBlock (k : Core) (v n : Nat) : List Nat := (List.range n).flatMap (fun j => (List.range 128).map (vlane (k.vec (v + j))))

/-- R229: GATH. -/
def gatherInto (c vi vd nv addr : Nat) (swz : Bool) (v s : State) : State :=
  let spl := (v.cluster (clusterOf c)).spl
  (List.range nv).foldl
    (fun s j =>
      let lanes := (List.range 128).map (fun i =>
        match indexAddr addr swz (vlane ((v.core c).vec (vi + j)) i) with
        | some a => Memory.readNat spl a 4
        | none => 0)
      (s.engineWrites c (vd + j) 0 512).modCore c (fun k => k.setLanes (vd + j) allLanes (vecOfList lanes))) s

/-- R326: a CPY whose source was revoked while it ran: the bursts begun before are made, and the rest fault.
Assumption log 77 (DESIGN CHOICE). -/
def State.copyCut (s : State) (c i : Nat) (o : DOp) (src dst : Side) (ref : TRef) (row col : Int) (r : FaultRec) : State :=
  let h := s.handle (s.procOf (s.ctx c o.ctx)) (hIndex ref.handle)
  let rows := shRows o.smp.shape
  let n := elemsIn h.sfmt (shRowb o.smp.shape)
  let (q, e) := burstSplit n (Config.burstsMade s.draws)
  let x := s.reader c o.ctx
  let p := s.procOf (s.ctx c o.ctx)
  let t := (s.draw.afterTensor p ref x row col (min rows q) n).afterTensor p ref x (row + q) col (if q < rows then 1 else 0) e
  match srcRows s.seen c o src (some h) (min rows (if e = 0 then q else q + 1)) with
  | .error f => t.dFailCounted c i f
  | .ok lines =>
    let t1 := copyInto c o dst (lines.take q ++ (lines.drop q).map (fun l => (l.1, l.2.take e))) t
    match h.restOff row col rows n q e with
    | none => t1.dDone c i
    | some off => t1.dFail c i { r with offset := off }

/-- R226: a CPY at its accesses. -/
def State.copyRun (s0 : State) (c i : Nat) (o : DOp) (src dst : Side) : State :=
  let rows := shRows o.smp.shape
  let p := s0.procOf (s0.ctx c o.ctx)
  let units := s0.sideUnits c o src 0 rows
  match s0.gate p units (.op c o.id) with
  | some t => t
  | none =>
    let s := s0.goFar c i p units
    match s.srcTen c o src 0 with
    | .error r =>
      match src.tensor with
      | some (ref, row, col) => if s.begun c o ref.handle then s.copyCut c i o src dst ref row col r else s.dFail c i r
      | none => s.dFail c i r
    | .ok none => s
    | .ok (some ten) =>
      match srcRows s.seen c o src ten rows with
      | .error r => s.dFailCounted c i r
      | .ok lines => ((copyInto c o dst lines s).afterRead c o src 0 rows).dDone c i

/-- R229: the lanes of the index vectors, and the words in the scratchpad, that a gather or a scatter reads. -/
def gathHolds (c : Nat) (vecs : List Nat) (addrs : List Nat) (d : Damage) : Bool :=
  match d with
  | .lane c' p _ => decide (c' = c) && vecs.contains p
  | .spl k w => decide (k = clusterOf c) && addrs.any (fun a => decide (a / 8 = w))
  | _ => false

/-- R212: where the words that a gather or a scatter reads are damaged first: a lane, given as 0, or a word's address. -/
def gathHurt (s : State) (c : Nat) (vecs addrs : List Nat) : Option Nat :=
  if s.damaged.any (gathHolds c vecs []) then some 0
  else addrs.find? (fun a => s.hurt (.spl (clusterOf c) (a / 8)))

/-- COPY_COMPLETION (R226): a CPY or a GATH makes its accesses and completes. Assumption log 7 (DESIGN CHOICE). -/
def State.copyComplete (s : State) (c i : Nat) : State :=
  match (s.core c).dops[i]? with
  | none => s
  | some o =>
    if !o.ready then s
    else
      match o.kind with
      | .copy src dst => s.copyRun c i o src dst
      | .gath vi vd nv addr swz =>
        let v := s.seen
        let vecs := (List.range nv).map (· + vi)
        let addrs := (indexBlock (v.core c) vi nv).filterMap (indexAddr addr swz)
        match gathHurt s c vecs addrs with
        | some a => s.dFailCounted c i { faultRec fcMemory none with offset := a }
        | none =>
          (gatherInto c vi vd nv addr swz v (s.correct (dieOf c) erCeSram (gathHolds c vecs addrs))).dDone c i
      | _ => s

/-! ### STRM (R227, R289) -/

/-- The row and the place in it of a stream's next vector; `n` bounds the rows. -/
def strmAt (per : Nat → Nat) : Nat → Nat → Nat → Option (Nat × Nat)
  | 0, _, _ => none
  | n + 1, r, k => if k < per r then some (r, k) else strmAt per n (r + 1) (k - per r)

/-- R227: whether an earlier stream of the same channel into the same flue has vectors to enter. -/
def strmBlocked (k : Core) (i : Nat) (o : DOp) (flue : Nat) : Bool :=
  (k.dops.take i).any (fun q => decide (q.ctx = o.ctx) && q.chanB == o.chanB &&
    (match q.kind with | .strm _ f _ => decide (f = flue) | _ => false))

/-- The vectors of a converted row. -/
def rowVecs (codes : List Nat) (f : Sfmt) (k : Nat) : Vec :=
  BitVec.ofNat 4096 (packRow true f codes / 2 ^ (4096 * k))

/-- R207, R289, R290: whether a flue of a context takes a vector: below its depth, or beyond it after HALT, during an
eviction, and once a fault has stopped a context that is marked for one. -/
def Ctx.room (x : Ctx) (flue : Nat) : Bool :=
  decide ((x.flue flue).length < Config.flueDepth) || decide (x.st = .halted) || decide (x.st = .evicting) ||
    (decide (x.st = .faulted) && x.marked)

/-- The format of a stream's vectors. -/
def DOp.strmFmt (o : DOp) : Sfmt := (Sfmt.ofCode (shVfmt o.smp.shape)).getD .fp32

/-- R227, R252: row r of a stream read and converted, with the state after its accesses; or the state of a stream that
waits or fails there. -/
def State.strmRead (s0 : State) (c i : Nat) (o : DOp) (src : Side) (r : Nat) : Except State (List Nat × State) :=
  let p := s0.procOf (s0.ctx c o.ctx)
  let units := s0.sideUnits c o src r 1
  let s := s0.goFar c i p units
  let conv := fun (ten : Option Handle) (es : List SrcElem) =>
    (convRow (rndOf (shRnd o.smp.shape) o.smp.rmode) o.smp.sc (srcFmt o src ten r) (o.strmFmt, false) es).1
  let read := fun (t : State) (ten : Option Handle) =>
    match srcRow s.seen c o src ten r (elemsIn (srcFmt o src ten r).1 (shRowb o.smp.shape)) with
    | .error e => .error (t.dFailCounted c i e)
    | .ok es => .ok (conv ten es, (t.afterRead c o src r 1).leaveOp c o.id)
  match s0.gate p units (.op c o.id) with
  | some t => .error t
  | none =>
    match s.srcTen c o src r, src.tensor with
    | .error e, some (ref, row, col) =>
      if s.begun c o ref.handle then
        let h := s.handle (s.procOf (s.ctx c o.ctx)) (hIndex ref.handle)
        let n := elemsIn h.sfmt (shRowb o.smp.shape)
        let (q, m) := burstSplit n (Config.burstsMade s.draws)
        if q = 0 then
          .error (s.draw.dFail c i
            { e with offset := (h.restOff (row + r) col (shRows o.smp.shape - r) n 0 m).getD e.offset })
        else read s.draw (some h)
      else .error (s.dFail c i e)
    | .error e, none => .error (s.dFail c i e)
    | .ok none, _ => .error s
    | .ok (some ten), _ => read s ten

/-- STRM_VECTOR_ENTRY (R227, R252, R289, R290): the next vector enters its flue; the last one completes the stream. A row is
read and converted once, when its first vector enters. -/
def State.strmEntry (s : State) (c i : Nat) : State :=
  match (s.core c).dops[i]? with
  | none => s
  | some o =>
    match o.kind with
    | .strm src flue done =>
      let x := s.ctx c o.ctx
      if !o.ready || !x.room flue || strmBlocked (s.core c) i o flue then s
      else
        let ten := src.tensor.map (fun q => s.handle (s.procOf x) (hIndex q.1.handle))
        let per := fun r => sideBytes 5 o.strmFmt (elemsIn (srcFmt o src ten r).1 (shRowb o.smp.shape)) / 512
        let rows := shRows o.smp.shape
        match strmAt per rows 0 done with
        | none =>
          match s.srcTen c o src 0 with
          | .error r => s.dFail c i r
          | .ok _ => s.dDone c i
        | some (r, k) =>
          let row : Except State (List Nat × State) := match o.line with
            | some (r', codes) => if r' = r then .ok (codes, s) else s.strmRead c i o src r
            | none => s.strmRead c i o src r
          match row with
          | .error t => t
          | .ok (codes, t) =>
            let vec := rowVecs codes o.strmFmt k
            let t1 := t.modCtx c o.ctx (fun y => { y with flues := Tab.put y.flues flue (y.flue flue ++ [vec]) })
            let t2 := t1.modCore c (fun q =>
              { q with dops := q.dops.modify i (fun o =>
                  { o with kind := .strm src flue (done + 1), line := some (r, codes) }) })
            if (strmAt per rows 0 (done + 1)).isNone then t2.dDone c i else t2
    | _ => s

/-! ### RING (R228) -/

/-- The place of the kth RING of a launch on a core under a mask, if it may move. Assumption log 26 (DEDUCED). -/
def Core.ringAt (k : Core) (launch mask n : Nat) : Option (Nat × DOp) :=
  ((k.dops.zipIdx).map (fun q => (q.2, q.1))).find? (fun q =>
    q.2.ready && decide ((k.ctx q.2.ctx).launch = launch) &&
      (match q.2.kind with | .ring m j _ _ _ => decide (m = mask) && decide (j = n) | _ => false))

/-- RING_SHIFT_START (R228): once every participant's kth RING may move, each block moves to its successor and the
participants' tokens complete. All blocks are read before one is written; a participant whose block cannot be read fails
alone, and one that never moves keeps the others waiting. Assumption log 87 (DEDUCED). -/
def State.ringShift (s : State) (c i : Nat) : State :=
  match (s.core c).dops[i]? with
  | none => s
  | some o =>
    match o.kind with
    | .ring mask n _ _ _ =>
      let l := (s.ctx c o.ctx).launch
      let base := 8 * clusterOf c
      let cores := (bitsOn mask 8).map (· + base)
      let parts := cores.filterMap (fun q => ((s.core q).ringAt l mask n).map (fun r => (q, r.2)))
      if parts.length ≠ cores.length then s
      else
        let v := s.seen
        let blocks := parts.map (fun q =>
          match q.2.kind with
          | .ring _ _ xs xd _ => (q.1, q.2, xs, xd, srcRows v q.1 q.2 (.peer 0 xs) none (shRows q.2.smp.shape))
          | _ => (q.1, q.2, 0, 0, .ok []))
        blocks.foldl
          (fun s b =>
            let at_ := (s.core b.1).ringAt l mask n
            match b.2.2.2.2, at_ with
            | .error r, some (j, _) => s.dFailCounted b.1 j r
            | .ok rows, some (j, _) =>
              ((copyInto b.1 b.2.1 (.peer 0 b.2.2.2.1) rows s).afterRead b.1 b.2.1 (.peer 0 b.2.2.1) 0 rows.length).dDone b.1 j
            | _, none => s) s
    | _ => s

/-! ### Windows (R230–R233) -/

/-- R232: whether the slot of row i is still being filled by the fetch of row i − RDEPTH. -/
def winBlocked (k : Core) (x w : Nat) (d : List Lane) (row : Nat) : Bool :=
  decide (wDepth d ≤ row) &&
    k.dops.any (fun q => decide (q.ctx = x) &&
      (match q.kind with
       | .fetch w' first count d' =>
         decide (w' = w) && decide (d' = d) && decide (first ≤ row - wDepth d) && decide (row - wDepth d < first + count)
       | _ => false))

/-- R51: the fill elements of a row that a window lands at an address. Assumption log 34 (DEDUCED). -/
def fillMarks (h : Handle) (row col : Int) (f : Sfmt) (a n : Nat) : List Nat :=
  (List.range n).filterMap (fun (e : Nat) => if h.inside row (col + e) then none else some (8 * a + f.bits * e))

/-- R230: a window's row of tensor elements, or its first damaged granule's fault (R212). -/
def winRead (s : State) (c : Nat) (o : DOp) (h : Handle) (ref : TRef) (d : List Lane) (row : Int) (n : Nat) :
    Except FaultRec (List SrcElem) :=
  let p := s.procOf (s.ctx c o.ctx)
  match s.rowDamage p h ref (s.reader c o.ctx) row (wInt d 3) n with
  | some e => .error e
  | none => readTensor (s.proc p) h ref (s.reader c o.ctx) o.smp.sc (wFill d) row (wInt d 3) n

/-- R51, R230: elements of a window's row, converted, in the slot of row number `k`. -/
def State.winLand (s : State) (c : Nat) (o : DOp) (h : Handle) (d : List Lane) (k : Nat) (es : List SrcElem) : State :=
  let a := wBase d + k % wDepth d * wPitch d
  let (f, scl) := bankFmt o.smp.bfmt (bankOf a)
  let (codes, idx) := convRow (rndOf (wRnd d) 0) o.smp.sc (h.sfmt, h.scl) (f, scl) es
  let n := es.length
  let s1 := s.healSpl (clusterOf c) false a (rowBytes f n)
  let s2 := if scl then s1.healSide (clusterOf c) (rowEntries f false a idx.length) else s1
  s2.modCluster (clusterOf c) (fun q =>
    let q1 := q.putRow false a (f.bits * n) (packRow false f codes)
    let q2 := if scl then q1.putSide f false a idx else q1
    { q2 with marks := (fillMarks h (wRow d k) (wInt d 3) f a n ++ q2.marks).mergeSort (· ≤ ·) })

/-- R232: a fetch has landed its next row. -/
def State.winNext (s : State) (c i : Nat) (o : DOp) (w first count : Nat) (d : List Lane) : State :=
  let s1 := (s.leaveOp c o.id).modCtx c o.ctx (fun x =>
    match Tab.find x.wins w with
    | some q => if q.desc = d then { x with wins := Tab.put x.wins w { q with landed := q.landed + 1 } } else x
    | none => x)
  if count ≤ 1 then s1.dDone c i
  else s1.modCore c (fun k => { k with dops := k.dops.modify i (fun q => { q with kind := .fetch w (first + 1) (count - 1) d }) })

/-- R326: a window fetch whose tensor was revoked while it ran: of its next row, the bursts begun before land, and a row
not landed whole faults. Assumption log 77 (DESIGN CHOICE). -/
def State.winCut (s : State) (c i : Nat) (o : DOp) (w first count : Nat) (d : List Lane) (ref : TRef) (r : FaultRec) : State :=
  let h := s.handle (s.procOf (s.ctx c o.ctx)) (hIndex ref.handle)
  let n := wElems d
  let (q, e) := burstSplit n (Config.burstsMade s.draws)
  let m := if q = 0 then min e n else n
  let p := s.procOf (s.ctx c o.ctx)
  let s1 := s.draw.afterTensor p ref (s.reader c o.ctx) (wRow d first) (wInt d 3) 1 m
  match winRead s c o h ref d (wRow d first) m with
  | .error f => s1.dFailCounted c i f
  | .ok es =>
    let t := s1.winLand c o h d first es
    match (if q = 0 then h.restOff (wRow d first) (wInt d 3) 1 n 0 e else none) with
    | some off => t.dFail c i { r with offset := off }
    | none => t.winNext c i o w first count d

/-- WINDOW_ROW_FETCH (R232, R233): a window fetch lands its next row in the row's slot, and completes with its last
row; a WREL completes once the window's fetches have. -/
def State.windowFetch (s0 : State) (c i : Nat) : State :=
  match (s0.core c).dops[i]? with
  | none => s0
  | some o =>
    match o.kind with
    | .release _ after =>
      if o.ready && after.all (fun j => !(s0.core c).inFlight j) then s0.dDone c i else s0
    | .fetch w first count d =>
      if !o.ready || winBlocked (s0.core c) o.ctx w d first then s0
      else
        let ref : TRef := { handle := wHandle d, ray := wRay d }
        let row := wRow d first
        let col := wInt d 3
        let n := wElems d
        let p := s0.procOf (s0.ctx c o.ctx)
        let units := s0.rectUnits p ref.handle row col 1 (fun _ => n)
        match s0.gate p units (.op c o.id) with
        | some t => t
        | none =>
          let s := s0.goFar c i p units
          match s.tenAt c o.ctx ref row col 1 n with
          | .error r =>
            if s.begun c o ref.handle then s.winCut c i o w first count d ref r else s.dFail c i r
          | .ok none => s
          | .ok (some h) =>
            match winRead s c o h ref d row n with
            | .error r => s.dFailCounted c i r
            | .ok es => ((s.winLand c o h d first es).afterTensor p ref (s.reader c o.ctx) row col 1 n).winNext c i o w first count d
    | _ => s0

/-! ### SCAT (R229) -/

/-- R229: the combination of two values under an operation and a type; of an f32 sum the first NaN stays.
Assumption log 20 (DEDUCED). -/
def scatOp (op ty a b : Nat) : Nat :=
  let t := vtOfCode (BitVec.ofNat 3 ty)
  match op with
  | 0 => if t.isF then fAdd fp32 .rne a b else (a + b) % 2 ^ 32
  | 1 => eMax t a b 0
  | 2 => eMin t a b 0
  | _ => b

/-- R229: one window of 64 elements, as address and value in element order, applied address by address. -/
def scatWindow (op ty : Nat) (es : List (Nat × Nat)) (k : Cluster) : Cluster :=
  ((es.map Prod.fst).dedup).foldl
    (fun k a =>
      match (es.filter (fun e => decide (e.1 = a))).map Prod.snd with
      | [] => k
      | v :: rest =>
        let comb := rest.foldl (scatOp op ty) v
        let new := if op = 3 then comb else scatOp op ty (Memory.readNat k.spl a 4) comb
        k.store a (leBytes new 4)) k

/-- SCATTER_UPDATE (R229): the engine applies a SCAT's windows in order, and the SCAT completes. -/
def State.scatter (s : State) (c i : Nat) : State :=
  match (s.core c).dops[i]? with
  | none => s
  | some o =>
    match o.kind with
    | .scat vi vv nv addr swz op ty =>
      if !o.ready then s
      else
        let k := s.seen.core c
        let pairs := ((indexBlock k vi nv).zip (indexBlock k vv nv)).map (fun q => (indexAddr addr swz q.1, q.2))
        let vecs := (List.range nv).map (· + vi) ++ (List.range nv).map (· + vv)
        let addrs := pairs.filterMap Prod.fst
        match gathHurt s c vecs addrs with
        | some a => s.dFailCounted c i { faultRec fcMemory none with offset := a }
        | none =>
          ((s.correct (dieOf c) erCeSram (gathHolds c vecs addrs)).modCluster (clusterOf c) (fun k => (List.range (2 * nv)).foldl
            (fun k w =>
              scatWindow op ty (((pairs.drop (64 * w)).take 64).filterMap (fun q => q.1.map (fun a => (a, q.2)))) k) k)).dDone c i
    | _ => s

/-- TOKEN_JOIN_COMPLETION (R235): the producers that a TJOIN consumed have completed; a poison passes on. -/
def State.joinComplete (s : State) (c i : Nat) : State :=
  match (s.core c).dops[i]? with
  | none => s
  | some o =>
    match o.kind with
    | .join => if o.waits.isEmpty then s.dFinish c i o.poison else s
    | _ => s

end Sys2Proof.Machine
end

