-- ==== Sys2Proof/Machine/Patches.lean ====
section
/-! DEFINITION. STOW and the patch and ray operations at issue (R245, R246, R253–R269). -/

set_option Elab.async false

namespace Sys2Proof.Machine

/-! ### Operands (R253, R254) -/

/-- R253: whether a patch operand names a scalar register. -/
def pScalar (p : BitVec 7) : Bool := p.getLsbD 6

/-- The name register of an operand, if it names one that holds a patch. -/
def Ctx.pReg (x : Ctx) (p : BitVec 7) : Option NameReg := if pScalar p then none else Tab.find x.n (p.toNat % 8)

/-- The operand as read at issue. -/
def Ctx.pArg (x : Ctx) (p : BitVec 7) : PArg :=
  if pScalar p then { name := (x.rd (p.toNat % 64)).toNat % 2 ^ 24, reg := none }
  else { name := match x.pReg p with | some r => r.name | none => 0, reg := some (p.toNat % 8) }

/-- R253: bits [63:24] of a scalar name must be zero. -/
def pHigh (s : State) (p : BitVec 7) : Option FaultRec :=
  trapIf s fcField (pScalar p && decide (2 ^ 24 ≤ (s.cur.rd (p.toNat % 64)).toNat))

/-- R213: FR.PA or FR.PB of a name and the ray of its patch. -/
def paOf (name ray : Nat) : Word := BitVec.ofNat 64 (name + ray * 2 ^ 24)

/-- R211: the precise unknown-name fault of an operand. -/
def pUnknown (s : State) (p : BitVec 7) : Option FaultRec :=
  if pScalar p then none
  else
    let f := fun (n : Nat) => some { faultRec fcUnknown (some s.foc.slot) with pa := paOf n 0 }
    match s.cur.pReg p with
    | none => f 0
    | some r => if r.sum.st = .discarded then f r.name else none

/-- The checks of an operand that must name a patch. -/
def pChecks (s : State) (p : BitVec 7) : List (Option FaultRec) := [pHigh s p, pUnknown s p]

/-- R254: a status code that is neither 0xFF0 nor a vector of the partition. -/
def badStatus (s : State) (v : BitVec 12) : Bool := decide (v ≠ 0xFF0) && !s.cur.vdst v.toNat

/-- R272: the launch of the context becomes non-replayable. -/
def State.notReplayable (s : State) (c x : Nat) : State := s.modLaunch (s.ctx c x).launch (fun l => { l with once := true })

/-- R272: an operation that makes its launch non-replayable at issue. -/
def marksOnce (on : Bool) (s t : State) : State := if on then t.notReplayable s.foc.core s.foc.ctx else t

/-- R272: whether a name is that of an applied record. -/
def State.isApplied (s : State) (p name : Nat) : Bool :=
  match (s.proc p).patch name with
  | some q => decide (q.st = .applied)
  | none => false

/-- A patch operation that moves no data at its issue. -/
def pIssue (s : State) (c : DC) (op : State → PatchOp) (status : Nat) (also : State → State) : DIssue :=
  { xfer := false, kind := fun t => .patch (op t) status, smp := sampleOf s 0, toks := dcToks c, own := none, also := also }

/-! ### PATCH.OPEN (R245, R257) -/

/-- The names that the reserve of a core holds for a process (R245). -/
def Core.reserve (k : Core) (p : Nat) : List Nat := Tab.get k.names p []

/-- R257: the code of a delta's format. -/
def deltaFmt (d : BitVec 2) : Sfmt :=
  match d.toNat with
  | 0 => .fp32
  | 1 => .fp16
  | 2 => .bf16
  | _ => .int32

/-- R245, R246, R211: the first name of the reserve goes into n[N], with its summary. -/
def takeName (s : State) (f : OpenF) (t : State) : State :=
  let p := s.procOf s.cur
  let rs := (t.core s.foc.core).reserve p
  let ref := trefOf (s.cur.rd f.st.toNat)
  let e := s.entry p ref.handle clTensor
  let sum : Summary :=
    { isAdd := f.kind, st := .opened, keep := f.keep, undo := false, handle := ref.handle,
      fmt := e.map (fun h => (h.fmt, h.scl)) }
  let t1 := t.modCore s.foc.core (fun k => { k with names := Tab.put k.names p (rs.drop 1) })
  t1.modCur (fun x => { x with n := Tab.put x.n f.n.toNat { name := rs.headD 0, sum := sum } })

/-- PATCH.OPEN (R257). -/
def opPatchOpen (c : DC) (f : OpenF) (s : State) : Res :=
  let w := s.cur.rd f.st.toNat
  let p := s.procOf s.cur
  dOp c (badStatus s f.status) ((s.core s.foc.core).reserve p).isEmpty
    (dCheck [trapIf s fcField (trefBad w)]
      (pIssue s c
        (fun t => .openRec (((t.core s.foc.core).reserve p).headD 0) f.n.toNat (trefOf w) f.kind (deltaFmt f.dfmt).code f.keep)
        f.status.toNat (takeName s f))) s

/-- The meaning of PATCH.OPEN. -/
def execPatchOpen (c : DC) (f : OpenF) (s : State) : Host.Outcome State Fault Refusal := commit (opPatchOpen c f s) s

/-! ### STOW (R258, R426) -/

/-- R224, R426: the checks that need the tensor's format: the elements of each row, then the column. -/
def stowTensor (fmt : Sfmt × Bool) (es : List Nat) (rowb : Nat) (col : Int) : Option Int :=
  let n : Nat := if fmt.2 then 32 else if fmt.1 = .lns6 then 4 else 1
  if es.any (fun e => decide (e % n ≠ 0)) then some (rowb : Int)
  else if col % n ≠ 0 then some col
  else none

/-- The source of a STOW. -/
def stowSrc (s : State) (f : StowF) : ByteSide :=
  { space := f.ssp.toNat, addr := s.cur.xval f.xs.toNat, stride := shSstr (s.cur.shape f.h.toNat), peer := f.peer.toNat }

/-- R225: the first offending value of a row of a STOW, the source before the coordinates. -/
def stowOver (pl : Plan) (row col : Int) (r : Nat) : Option Int :=
  (pl.over r).or (splitOver (row + r) col (max ((pl.elems r).getD 1) 1))

/-- R258: the checks of a STOW at issue, in their order. -/
def stowChecks (s : State) (f : StowF) : List (Option FaultRec) :=
  let x := s.cur
  let src := stowSrc s f
  let pl := planOf s f.h.toNat (.bytes src) src
  let (row, col) := splitCoord (x.xval f.xd.toNat)
  let rows := List.range pl.rows
  let fmt := (x.pReg f.p).bind (fun r => r.sum.fmt)
  let ten := fmt.bind (fun q =>
    stowTensor ((Sfmt.ofCode q.1).getD .fp32, q.2) (rows.map (fun r => (pl.elems r).getD 1)) pl.rowb col)
  [trapIf s fcField (decide (pl.rows = 0)), pHigh s f.p,
   trapVal s fcOverflow (rows.findSome? (stowOver pl row col)), trapVal s fcMisaligned (pl.misaligned.or ten),
   trapVal s fcHomeBank (rows.findSome? pl.notHome), pUnknown s f.p,
   trapIf s fcField (match x.pReg f.p with | some r => decide (r.sum.st ≠ .opened) | none => false)]

/-- STOW (R258). -/
def opStow (c : DC) (f : StowF) (s : State) : Res :=
  let (row, col) := splitCoord (s.cur.xval f.xd.toNat)
  dOp c false false
    (dCheck (stowChecks s f)
      { xfer := true, kind := fun _ => .patch (.stow (s.cur.pArg f.p) (stowSrc s f).keep row col) 0xFF0,
        smp := sampleOf s f.h.toNat, toks := dcToks c, own := none, also := id }) s

/-- The meaning of STOW. -/
def execStow (c : DC) (f : StowF) (s : State) : Host.Outcome State Fault Refusal := commit (opStow c f s) s

/-! ### PATCH.SEAL (R260) -/

/-- R260: the STOWs of a context into a patch that are in flight. -/
def Core.stows (k : Core) (x name : Nat) : List Nat :=
  (k.dops.filter (fun o => decide (o.ctx = x) &&
    (match o.kind with | .patch (.stow p _ _ _) _ => decide (p.name = name) | _ => false))).map (fun o => o.id)

/-- R246: the summary of a name register is marked sealed. -/
def sealReg (p : BitVec 7) (t : State) : State :=
  t.modCur (fun x =>
    match x.pReg p with
    | some r =>
      if r.sum.st = .opened then { x with n := Tab.put x.n (p.toNat % 8) { r with sum := { r.sum with st := .sealed } } } else x
    | none => x)

/-- R260, R353, R405: what a SEAL waits for, of what issued before its bundle: the context's STOWs into the patch, and at
DOMAIN scope its every access. -/
def sealAfter (s : State) (name scope : Nat) : List Nat :=
  let k := s.core s.foc.core
  if scope = 4 then k.earlier s.foc.ctx else k.stows s.foc.ctx name

/-- PATCH.SEAL (R260). -/
def opPatchSeal (c : DC) (f : SealF) (s : State) : Res :=
  let a := s.cur.pArg f.p
  dOp c false false
    (dCheck (pChecks s f.p)
      { pIssue s c (fun _ => .seal a f.scope.toNat (sealAfter s a.name f.scope.toNat)) 0xFF0 (sealReg f.p) with
        bound := storeBound s (decide (f.scope = 4)) }) s

/-- The meaning of PATCH.SEAL. -/
def execPatchSeal (c : DC) (f : SealF) (s : State) : Host.Outcome State Fault Refusal := commit (opPatchSeal c f s) s

/-! ### Operations on one patch (R261, R263, R267) -/

/-- PATCH.APPLY (R261). -/
def opPatchApply (c : DC) (f : PatchF) (s : State) : Res :=
  dOp c (badStatus s f.status) false
    (dCheck (pChecks s f.p) (pIssue s c (fun _ => .apply (s.cur.pArg f.p)) f.status.toNat (marksOnce true s))) s

/-- The meaning of PATCH.APPLY. -/
def execPatchApply (c : DC) (f : PatchF) (s : State) : Host.Outcome State Fault Refusal := commit (opPatchApply c f s) s

/-- R211: INVERT through a name register of an applied REPLACE without an undo image. -/
def pNotInvertible (s : State) (p : BitVec 7) : Option FaultRec :=
  match s.cur.pReg p with
  | some r =>
    if r.sum.st = .applied ∧ !r.sum.isAdd ∧ !r.sum.undo then
      some { faultRec fcNotInvertible (some s.foc.slot) with pa := paOf r.name 0 }
    else none
  | none => none

/-- PATCH.INVERT (R263). -/
def opPatchInvert (c : DC) (f : PatchF) (s : State) : Res :=
  let a := s.cur.pArg f.p
  dOp c (badStatus s f.status) false
    (dCheck (pChecks s f.p ++ [pNotInvertible s f.p])
      (pIssue s c (fun _ => .invert a) f.status.toNat (marksOnce (s.isApplied (s.procOf s.cur) a.name) s))) s

/-- The meaning of PATCH.INVERT. -/
def execPatchInvert (c : DC) (f : PatchF) (s : State) : Host.Outcome State Fault Refusal := commit (opPatchInvert c f s) s

/-- PATCH.DISCARD (R267). -/
def opPatchDiscard (c : DC) (f : PatchF) (s : State) : Res :=
  dOp c (badStatus s f.status) false
    (dCheck (pChecks s f.p) (pIssue s c (fun _ => .discard (s.cur.pArg f.p)) f.status.toNat id)) s

/-- The meaning of PATCH.DISCARD. -/
def execPatchDiscard (c : DC) (f : PatchF) (s : State) : Host.Outcome State Fault Refusal := commit (opPatchDiscard c f s) s

/-! ### Operations on two patches (R264, R266, R268) -/

/-- PATCH.COMMUTE (R264). -/
def opPatchCommute (c : DC) (f : CommuteF) (s : State) : Res :=
  dOp c (badStatus s f.status) false
    (dCheck (pChecks s f.p ++ pChecks s f.q)
      (pIssue s c (fun _ => .commute (s.cur.pArg f.p) (s.cur.pArg f.q) f.loose) f.status.toNat id)) s

/-- The meaning of PATCH.COMMUTE. -/
def execPatchCommute (c : DC) (f : CommuteF) (s : State) : Host.Outcome State Fault Refusal := commit (opPatchCommute c f s) s

/-- PATCH.SQUASH (R266). -/
def opPatchSquash (c : DC) (f : TwoPatchF) (s : State) : Res :=
  let a := s.cur.pArg f.p
  dOp c (badStatus s f.status) false
    (dCheck (pChecks s f.p ++ pChecks s f.q)
      (pIssue s c (fun _ => .squash a (s.cur.pArg f.q)) f.status.toNat
        (marksOnce (s.isApplied (s.procOf s.cur) a.name) s))) s

/-- The meaning of PATCH.SQUASH. -/
def execPatchSquash (c : DC) (f : TwoPatchF) (s : State) : Host.Outcome State Fault Refusal := commit (opPatchSquash c f s) s

/-- PATCH.QUERY (R268). -/
def opPatchQuery (c : DC) (f : TwoPatchF) (s : State) : Res :=
  dOp c (badStatus s f.status) false
    (dCheck [pHigh s f.p, pHigh s f.q]
      (pIssue s c (fun _ => .query (s.cur.pArg f.p) (s.cur.pArg f.q)) f.status.toNat id)) s

/-- The meaning of PATCH.QUERY. -/
def execPatchQuery (c : DC) (f : TwoPatchF) (s : State) : Host.Outcome State Fault Refusal := commit (opPatchQuery c f s) s

/-! ### TRANSPLANT and RAY.FORK (R265, R269) -/

/-- PATCH.TRANSPLANT (R265). -/
def opPatchTransplant (c : DC) (f : TransplantF) (s : State) : Res :=
  let w := s.cur.rd f.st.toNat
  let (dr, dc) := splitCoord (s.cur.rd f.so.toNat).toInt
  dOp c (badStatus s f.status) false
    (dCheck (trapIf s fcField (trefBad w) :: trapIf s fcField (decide (dr % 64 ≠ 0) || decide (dc % 64 ≠ 0)) :: pChecks s f.p)
      (pIssue s c (fun _ => .transplant (s.cur.pArg f.p) (trefOf w) f.loose dr dc) f.status.toNat (marksOnce true s))) s

/-- The meaning of PATCH.TRANSPLANT. -/
def execPatchTransplant (c : DC) (f : TransplantF) (s : State) : Host.Outcome State Fault Refusal :=
  commit (opPatchTransplant c f s) s

/-- RAY.FORK (R269). -/
def opRayFork (c : DC) (f : ForkF) (s : State) : Res :=
  let w := s.cur.rd f.st.toNat
  let h := if f.s then (s.cur.rd (f.h.toNat / 2 ^ 6)).toNat else f.h.toNat
  dOp c (badStatus s f.status) false
    (dCheck [trapIf s fcField (trefBad w)]
      (pIssue s c (fun _ => .fork (trefOf w) f.k.toNat h) f.status.toNat (marksOnce true s))) s

/-- The meaning of RAY.FORK. -/
def execRayFork (c : DC) (f : ForkF) (s : State) : Host.Outcome State Fault Refusal := commit (opRayFork c f s) s

end Sys2Proof.Machine
end

