-- ==== Sys2Proof/Machine/PatchRun.lean ====
section
/-! DEFINITION. The patch engine (R244–R248, R256–R269) and the deferred applies of retirement (R270). -/

set_option Elab.async false

namespace Sys2Proof.Machine

/-! ### Status codes (R255) -/

def stRefcount : Nat := 1
def stNotLowest : Nat := 2
def stState : Nat := 3
def stNotAdjacent : Nat := 4
def stShared : Nat := 5
def stExcluded : Nat := 6
def stRay : Nat := 7
def stUnknown : Nat := 8

/-- What an operation of the patch engine comes to: a wait (R327), a status of four lanes with the state it leaves, or
a fault with the state it leaves. -/
inductive PRes where
  | wait
  | done (code count a b : Nat) (s : State)
  | fail (r : FaultRec) (s : State)

/-! ### Tables whose entries may return to their default -/

/-- List a value, or remove the entry of a value that an unlisted key reads as. -/
def Tab.putNat (t : Tab Nat) (k v : Nat) : Tab Nat := if v = 0 then Tab.erase t k else Tab.put t k v

/-- The handle of an entry as software holds it. -/
def Handle.word (h : Handle) (i : Nat) : BitVec 32 := BitVec.ofNat 32 (i + h.gen * 2 ^ 24)

/-- The scale group of an element (R40). -/
def Handle.group (h : Handle) (e : Nat) : Nat := e / h.cols * ((h.cols + 31) / 32) + e % h.cols / 32

/-- A base element replaced, with its scale index on a scaled tensor. -/
def Handle.setElem (h : Handle) (e bits : Nat) (idx : Option Nat) : Handle :=
  { h with
    base := Tab.putNat h.base e bits,
    idx := match idx with
      | some i => if h.scl then Tab.putNat h.idx (h.group e) i else h.idx
      | none => h.idx }

/-- R264, R268: the first element that two coverages of one tensor share. -/
def overlap (p q : Patch) : Option Nat :=
  if p.home ≠ q.home then none else (p.vals.find? (fun v => q.covers v.1)).map Prod.fst

/-! ### Records leaving and changing (R242, R244, R246) -/

def Process.setPatch (p : Process) (n : Nat) (q : Patch) : Process := { p with patches := Tab.put p.patches n q }

/-- R242: a record leaves every ray that holds it; a fork height above its position falls by one. -/
def Handle.unlink (h : Handle) (name : Nat) : Handle :=
  { h with rays := h.rays.map (fun e =>
      let up := (h.ray e.2.parent).recs
      let r := { e.2 with recs := e.2.recs.filter (fun n => decide (n ≠ name)) }
      (e.1, if up.contains name && decide (up.idxOf name < e.2.forkH) then { r with forkH := e.2.forkH - 1 } else r)) }

/-- A change of the name registers of every context of a process, evicted ones included. -/
def State.modNames (s : State) (p : Nat) (f : Tab NameReg → Tab NameReg) : State :=
  let saved := fun (v : Saved) => { v with ctx := { v.ctx with n := f v.ctx.n } }
  { s with
    cores := s.cores.map (fun k =>
      (k.1, { k.2 with ctxs := k.2.ctxs.map (fun x =>
        (x.1, if s.procOf x.2 = p then { x.2 with n := f x.2.n } else x.2)) })),
    launches := s.launches.map (fun l => (l.1, if l.2.proc = p then { l.2 with saved := l.2.saved.map saved } else l.2)) }

/-- R246: every name register that holds a name is cleared. -/
def State.clearName (s : State) (p name : Nat) : State :=
  s.modNames p (fun n => n.filter (fun r => decide (r.2.name ≠ name)))

/-- R211: the summaries of a record follow it. -/
def State.modSum (s : State) (p name : Nat) (f : Summary → Summary) : State :=
  s.modNames p (fun n => n.map (fun r => (r.1, if r.2.name = name then { r.2 with sum := f r.2.sum } else r.2)))

/-- Whether a launch number is that of a launch that has not retired. -/
def State.liveLaunch (s : State) (l : Nat) : Bool :=
  (Tab.find s.launches l).isSome

/-- R270: the record right above one on ray 0 of a tensor, once that one is applied or removed: if its launch, one of this
device, has retired, the launch unit is to try its apply. -/
def State.raise (s : State) (p i name : Nat) : State :=
  match (((s.handle p i).ray 0).recs.dropWhile (fun n => decide (n ≠ name))).drop 1 with
  | [] => s
  | n :: _ =>
    match (s.proc p).patch n with
    | none => s
    | some q =>
      if q.st = .sealed ∧ q.dev = s.node ∧ !s.liveLaunch q.launch then s.modProc p (fun v => v.setPatch n { q with due := true }) else s

/-- R421: the words of a record's storage and of its undo image. -/
def recWords (p name : Nat) (d : Damage) : Bool :=
  match d with
  | .store p' n _ _ | .undo p' n _ _ => decide (p' = p) && decide (n = name)
  | _ => false

/-- R244, R246: a record is discarded and freed with its storage, and its name becomes unknown. -/
def State.dropRec (s : State) (p name : Nat) (q : Patch) : State :=
  let s1 := ((s.raise p q.home name).heal (recWords p name)).modHandle p q.home (fun h => h.unlink name)
  (s1.modProc p (fun v => { v with patches := Tab.erase v.patches name })).clearName p name

/-! ### Finding a record (R256 step 2) -/

/-- The record of a name with its tensor: the unknown-name fault, the fate of its handle, or both. -/
def State.recOf (s : State) (p : Nat) (x : Reader) (name : Nat) : Except FaultRec (Option (Patch × Handle)) :=
  let unknown : FaultRec := { faultRec fcUnknown none with pa := paOf name 0 }
  match (s.proc p).patch name with
  | none => .error unknown
  | some q =>
    if q.st = .discarded ∨ (q.st = .opened ∧ !q.ownedBy x) then .error unknown
    else
      match s.fate p (q.homeWord) clTensor 0 with
      | .error r => .error r
      | .ok none => .ok none
      | .ok (some h) => .ok (some (q, h))

/-- An operation on a found record. -/
def State.withRec (s : State) (p : Nat) (x : Reader) (name : Nat) (k : Patch → Handle → PRes) : PRes :=
  match s.recOf p x name with
  | .error r => .fail r s
  | .ok none => .wait
  | .ok (some (q, h)) => k q h

/-- A refusal (R255). -/
def refuse (code name : Nat) (s : State) : PRes := .done code 0 name 0 s

/-- The first refusal that holds, or the operation. Assumption log 41 (DEDUCED). -/
def refusals (xs : List (Bool × Nat)) (name : Nat) (s : State) (k : Unit → PRes) : PRes :=
  match xs.find? (fun x => x.1) with
  | some x => refuse x.2 name s
  | none => k ()

/-! ### The storage that an operation reads (R271, R273, R421) -/

/-- The granule of a damaged word of a tensor or of a record. -/
def Damage.granule (d : Damage) : Nat :=
  match d with
  | .base _ _ g _ | .store _ _ g _ | .undo _ _ g _ => g
  | _ => 0

/-- An operation of the patch engine that reads the whole storage of some granules of a tensor and of its records: an error
beyond correction fails it, then a poisoned granule does; else it goes on, its words corrected. Assumption log 47 (DEDUCED). -/
def readStore (p : Nat) (h : Handle) (hw : BitVec 32) (units : List Damage) (s : State) (k : State → PRes) : PRes :=
  let poisoned := fun (d : Damage) =>
    match d with
    | .base _ _ g _ => h.poison.contains g
    | .store _ n g _ =>
      match (s.proc p).patch n with
      | some q => q.bad.contains g
      | none => false
    | .undo _ n g _ =>
      match (s.proc p).patch n with
      | some q => q.undoBad.contains g
      | none => false
    | _ => false
  match units.findSome? (fun u => s.damaged.find? (fun d => decide (d.unit = u))) with
  | some d => .fail (wordFault hw (elemOff h.sfmt (h.granFirst d.granule)) d) s
  | none =>
    match units.find? poisoned with
    | some d => .fail (poisonFault h hw d.granule) s
    | none => k (s.correctHbm (fun d => units.contains d.unit))

/-! ### OPEN and STOW -/

/-- R245, R246: an OPEN that makes no record gives its name back, and no register keeps it. -/
def State.unopened (s : State) (c : Nat) (o : DOp) : State :=
  match o.kind with
  | .patch (.openRec name _ _ _ _ _) _ =>
    let p := s.procOf (s.ctx c o.ctx)
    (s.modCore c (fun k => { k with names := Tab.put k.names p (k.reserve p ++ [name]) })).clearName p name
  | _ => s

/-- R257: PATCH.OPEN at the engine. Assumption log 42 (DEDUCED). -/
def runOpen (p : Nat) (x : Reader) (name : Nat) (ref : TRef) (isAdd : Bool) (dfmt : Nat) (keep : Bool) (s : State) : PRes :=
  match s.fate p ref.handle clTensor 0 with
  | .error r => .fail r s
  | .ok none => .wait
  | .ok (some h) =>
    if !(h.ray ref.ray).alive then .fail (handleFault fcInvalid ref.handle 0) s
    else if 2 ^ 24 - 1 ≤ (s.proc p).patches.length then .fail { faultRec fcPool none with handle := ref.handle } s
    else
      let i := hIndex ref.handle
      let q : Patch :=
        { isAdd := isAdd, dfmt := if isAdd then dfmt else h.fmt, st := .opened, keep := keep, dev := x.dev, launch := x.launch,
          core := x.core, ctx := x.ctx, home := i, homeGen := hGen ref.handle, ray := ref.ray, scope := 0, vals := [],
          idxs := [], undo := [], locs := [], masks := [], undoLocs := [], imgs := [], born := s.draws, bad := [],
          undoBad := [], due := false }
      let r := h.ray ref.ray
      let s1 := (s.draw.modProc p (fun v => v.setPatch name q)).modHandle p i
        (fun h => { h with rays := Tab.put h.rays ref.ray { r with recs := r.recs ++ [name] } })
      .done 0 0 name r.recs.length s1

/-- R42, R258: the elements of a row as a patch holds them: element, value, index. -/
def stowRow (h : Handle) (q : Patch) (mode : Rmode) (sc : Tab (BitVec 16)) (src : Sfmt × Bool) (es : List SrcElem)
    (row col : Int) : List (Nat × Nat × Nat) :=
  let df := (Sfmt.ofCode q.dfmt).getD .fp32
  let (codes, idx) := convRow mode sc src (df, !q.isAdd && h.scl) es
  (codes.zipIdx).filterMap (fun v =>
    if h.inside row (col + (v.2 : Int)) then some (h.elem row (col + (v.2 : Int)), v.1, idx.getD (v.2 / 32) 0) else none)

/-- R258: values recorded in a patch. -/
def Patch.record (q : Patch) (scl : Bool) (vs : List (Nat × Nat × Nat)) : Patch :=
  vs.foldl (fun q v =>
    { q with vals := Tab.put q.vals v.1 v.2.1,
             idxs := if scl && !q.isAdd then Tab.put q.idxs v.1 v.2.2 else q.idxs }) q

/-- The bytes of one element of a record's values in a granule, with the indices of a scaled one (R240). -/
def Patch.unitBytes (q : Patch) (h : Handle) : Nat := granuleBytes ((Sfmt.ofCode q.dfmt).getD .fp32) (h.scl && !q.isAdd)

/-- R248, R258, R259: values recorded in an open record: granules that it touches for the first time take storage, unless
their cover stack is full or the pool is. `also` is what the accesses of the STOW do beside. -/
def stowIn (p name : Nat) (q : Patch) (h : Handle) (vs : List (Nat × Nat × Nat)) (also : State → State) (s : State) : PRes :=
  let q1 := q.record h.scl vs
  let old := touched h q.vals
  let new := (touched h q1.vals).filter (fun g => !old.contains g)
  let room := s.newLocs p h.place.node (q.unitBytes h + maskBytes) new
  let with_ := fun (t : Tab Loc) => room.foldl (fun t l => Tab.put t l.1 l.2) t
  let t := also (s.draw.modProc p (fun v => v.setPatch name { q1 with locs := with_ q1.locs, masks := with_ q1.masks }))
  match (s.proc p).stackFull h (h.ray q.ray) new with
  | some g =>
    .fail { faultRec fcStackFull none with
      pa := paOf name q.ray, handle := q.homeWord, offset := elemOff h.sfmt (h.granFirst g) } s
  | none => if t.fits then .done 0 0 name 0 t else .fail { faultRec fcPool none with handle := q.homeWord } s

/-- R258: STOW at the engine. -/
def runStow (c : Nat) (o : DOp) (p : Nat) (x : Reader) (a : PArg) (src : Side) (row col : Int) (s : State) : PRes :=
  let rowb := shRowb o.smp.shape
  let rows := shRows o.smp.shape
  let unknown : FaultRec := { faultRec fcUnknown none with pa := paOf a.name 0 }
  match (s.proc p).patch a.name with
  | none => .fail unknown s
  | some q =>
    if q.st ≠ .opened ∨ !q.ownedBy x then .fail unknown s
    else
      let hw := q.homeWord
      let es := (List.range rows).map (fun r => elemsIn (srcFmt o src none r).1 rowb)
      match s.fate p hw clTensor (firstOff (s.handle p q.home) row col rows (es.headD 1)) with
      | .error r => .fail r s
      | .ok none => .wait
      | .ok (some h) =>
        match stowTensor (h.sfmt, h.scl) es rowb col with
        | some v => .fail { faultRec fcMisaligned none with offset := low48 v } s
        | none =>
          match srcRows s.seen c o src none rows with
          | .error r => .fail r s
          | .ok lines =>
            let mode := rndOf (shRnd o.smp.shape) o.smp.rmode
            let vs := (lines.zipIdx).flatMap (fun l => stowRow h q mode o.smp.sc l.1.1 l.1.2 (row + (l.2 : Int)) col)
            stowIn p a.name q h vs (fun t => t.afterRead c o src 0 rows) s

/-! ### SEAL -/

/-- R260: PATCH.SEAL at the engine. Assumption log 46 (DEDUCED). -/
def runSeal (p : Nat) (x : Reader) (a scope : Nat) (s : State) : PRes :=
  s.withRec p x a (fun q _ =>
    if q.st = .opened then
      let s1 := s.modProc p (fun v => v.setPatch a { q with st := .sealed, scope := scope })
      .done 0 0 a 0 (s1.modSum p a (fun m => { m with st := .sealed }))
    else .done 0 0 a 0 s)

/-! ### APPLY (R261) -/

/-- R48, R56: RNEF of a sum of two operands; a NaN operand keeps its payload. -/
def encodeSum (f : Sfmt) (v : Fv) : Nat :=
  match f, v with
  | .e5m2, .fin .. => rnef f v
  | _, _ => encodeElem f .rne v

/-- Whether a result was rounded or saturated. -/
def inexact (f : Sfmt) (v : Fv) (code : Nat) : Bool :=
  match v with
  | .nan _ _ => false
  | _ => decide (Fv.cmp v (decodeElem f code) ≠ .eq)

/-- The granules that a REPLACE covers fully (R241). -/
def Patch.fullGranules (q : Patch) (h : Handle) : List Nat :=
  if q.isAdd then [] else (touched h q.vals).filter (fun g => (h.granElems g).all q.covers)

/-- R261: the base of a tensor with a patch folded in, and COUNT. Assumption log 44 (DEDUCED). -/
def foldIn (h : Handle) (q : Patch) : Handle × Nat :=
  let f := h.sfmt
  let (h1, n) := q.vals.foldl (fun (acc : Handle × Nat) v =>
    if q.isAdd then
      let r := Fv.add .rne (decodeElem f (Tab.get h.base v.1 0)) (q.val v.1)
      let code := encodeSum f r
      (acc.1.setElem v.1 code none, acc.2 + (inexact f r code).toNat)
    else (acc.1.setElem v.1 v.2 (some (Tab.get q.idxs v.1 0)), acc.2)) (h, 0)
  let full := q.fullGranules h
  ({ h1 with poison := h1.poison.filter (fun g => !full.contains g) ++ full.filter (fun g => q.bad.contains g) }, n)

/-- R261: the undo image that an APPLY keeps. -/
def undoImage (h : Handle) (q : Patch) : Tab (Nat × Nat) :=
  if q.keep then q.vals.map (fun v => (v.1, Tab.get h.base v.1 0, h.baseIdx v.1)) else []

/-- R263: whether a record holds an undo image for every element it covers; one that holds some (R266) counts as one that
holds none. Assumption log 104 (DEDUCED). -/
def Patch.undoHeld (q : Patch) : Bool :=
  if q.vals.isEmpty then q.keep else q.vals.all (fun v => (Tab.find q.undo v.1).isSome)

/-- R261: the refusals of an APPLY, in order. -/
def applyRefusals (v : Process) (h : Handle) (name : Nat) (q : Patch) : List (Bool × Nat) :=
  let lowest := ((v.records (h.ray 0)).find? (fun r => decide (r.2.st ≠ .applied))).map Prod.fst
  [(decide (q.st ≠ .sealed), stState), (decide (lowest ≠ some name), stNotLowest),
   (h.rays.any (fun r => r.2.alive && !r.2.recs.contains name), stExcluded)]

/-- The 4 KiB lines of the elements of a patch. -/
def Patch.lines (q : Patch) (h : Handle) : List Nat := (q.vals.map (fun v => elemOff h.sfmt v.1 / 4096)).dedup

/-- R261: the storage that an APPLY reads, granule by granule: a granule that the patch covers fully is remapped unread. -/
def applyWords (p : Nat) (h : Handle) (name : Nat) (q : Patch) : List Damage :=
  let full := q.fullGranules h
  ((touched h q.vals).filter (fun g => !full.contains g)).flatMap (fun g =>
    (if q.isAdd || q.keep then [Damage.base p q.home g 0] else []) ++ [.store p name g 0])

/-- R261, R318: the granules that a REPLACE covers fully take the record's storage; their old storage is freed, or is the
undo image. -/
def remap (h : Handle) (q : Patch) : Handle × Patch :=
  (q.fullGranules h).foldl (fun (acc : Handle × Patch) g =>
    match Tab.find q.locs g with
    | none => acc
    | some l =>
      ({ acc.1 with place := { acc.1.place with moved := Tab.put acc.1.place.moved g l } },
       { acc.2 with
         locs := Tab.erase acc.2.locs g,
         undoLocs := if q.keep then Tab.put acc.2.undoLocs g (h.locOf g) else acc.2.undoLocs })) (h, q)

/-- The errors of a device renamed: those of storage that passes from one use to another. -/
def State.moveDamage (s : State) (f : Damage → Damage) : State :=
  { s with damaged := s.damaged.map f, weak := s.weak.map f }

/-- R261, R421: at a remap, the errors of a record's storage become those of the base, and those of the base those of the
undo image, where one is kept. -/
def State.remapDamage (s : State) (p i name : Nat) (keep : Bool) (gs : List Nat) : State :=
  let s1 := if keep then s else s.heal (fun d => gs.any (fun g => decide (d.unit = .base p i g 0)))
  s1.moveDamage (fun d =>
    match d with
    | .base p' i' g b => if p' = p ∧ i' = i ∧ gs.contains g then .undo p name g b else d
    | .store p' n g b => if p' = p ∧ n = name ∧ gs.contains g then .base p i g b else d
    | _ => d)

/-- R263, R421: at a restore, the errors of an undo image mapped back become those of the base again. -/
def State.restoreDamage (s : State) (p i name : Nat) (gs : List Nat) : State :=
  (s.heal (fun d => gs.any (fun g => decide (d.unit = .base p i g 0)))).moveDamage (fun d =>
    match d with
    | .undo p' n g b => if p' = p ∧ n = name ∧ gs.contains g then .base p i g b else d
    | _ => d)

/-- R261: the granules of which an APPLY copies an undo image. -/
def Patch.copied (q : Patch) (h : Handle) : List Nat :=
  let full := q.fullGranules h
  if q.keep then (touched h q.vals).filter (fun g => !full.contains g) else []

/-- R261: a record that no refusal holds back is applied; none when the pool cannot hold the undo image. -/
def State.applyRec (s : State) (p name : Nat) (q : Patch) (h : Handle) : Option (State × Nat) :=
  let (h1, n) := foldIn h q
  let (h2, q1) := remap h1 q
  let full := q.fullGranules h
  let q2 : Patch :=
    { q1 with
      st := .applied, undo := undoImage h q, due := false,
      imgs := s.newLocs p h.place.node h.unitBytes (q.copied h),
      undoBad := if q.keep then full.filter (fun g => h.poison.contains g) else [] }
  let s1 := ((s.draw.modProc p (fun v => v.setPatch name q2)).setHandle p q.home h2).raise p q.home name
  if !s1.fits then none
  else
    let s2 := (s1.remapDamage p q.home name q.keep full).modSum p name (fun m => { m with st := .applied, undo := q2.undoHeld })
    some (s2.touch p q.home (q.lines h), n)

/-- R261: PATCH.APPLY at the engine. -/
def runApply (p : Nat) (x : Reader) (a : Nat) (s : State) : PRes :=
  s.withRec p x a (fun q h =>
    refusals (applyRefusals (s.proc p) h a q) a s (fun _ =>
      readStore p h q.homeWord (applyWords p h a q) s (fun t =>
        match t.applyRec p a q h with
        | none => .fail { faultRec fcPool none with handle := q.homeWord } s
        | some (t, n) => .done 0 n a 0 t)))

/-! ### INVERT and DISCARD (R263, R267) -/

/-- R263: the applied records above a record on ray 0 that overlap it. -/
def appliedAbove (v : Process) (h : Handle) (name : Nat) (q : Patch) : List (Nat × Patch) :=
  let rs := v.records (h.ray 0)
  (rs.dropWhile (fun r => decide (r.1 ≠ name))).filter (fun r =>
    decide (r.1 ≠ name) && decide (r.2.st = .applied) && (overlap q r.2).isSome)

/-- R263: the base with an undo image restored, the old storage of a remapped granule mapped back with its mark (R273). -/
def restoreUndo (h : Handle) (q : Patch) : Handle :=
  let back := q.undoLocs.map Prod.fst
  q.undo.foldl (fun h u => h.setElem u.1 u.2.1 (if q.isAdd then none else some u.2.2))
    { h with
      place := { h.place with moved := q.undoLocs.foldl (fun t l => Tab.put t l.1 l.2) h.place.moved }
      poison := h.poison.filter (fun g => !back.contains g) ++ q.undoBad.filter (fun g => back.contains g) }

/-- R263: the base with an ADD subtracted, and COUNT. -/
def subtractOut (h : Handle) (q : Patch) : Handle × Nat :=
  let f := h.sfmt
  q.vals.foldl (fun (acc : Handle × Nat) v =>
    let r := Fv.add .rne (decodeElem f (Tab.get h.base v.1 0)) (q.val v.1).neg
    let code := encodeSum f r
    (acc.1.setElem v.1 code none, acc.2 + (inexact f r code).toNat)) (h, 0)

/-- R272: the launch of a context of this device becomes non-replayable at the engine. -/
def State.spoil (s : State) (x : Reader) : State :=
  if x.dev = s.node then s.modLaunch x.launch (fun l => { l with once := true }) else s

/-- R263: an undo image restored: images that were copied are read, and old storage is mapped back unread. -/
def restoreRec (p a : Nat) (q : Patch) (h : Handle) (s : State) : PRes :=
  let back := q.undoLocs.map Prod.fst
  readStore p h q.homeWord (q.imgs.map (fun l => Damage.undo p a l.1 0)) s (fun s =>
    let t := ((s.setHandle p q.home (restoreUndo h q)).restoreDamage p q.home a back).touch p q.home (q.lines h)
    .done 0 0 a 0 (t.dropRec p a q))

/-- R263: the undo image of a record is released, with the errors in it. -/
def State.dropUndo (s : State) (p : Nat) (r : Nat × Patch) : State :=
  ((s.heal (fun d => match d with | .undo p' n _ _ => decide (p' = p) && decide (n = r.1) | _ => false)).modProc p (fun v =>
    v.setPatch r.1 { r.2 with undo := [], undoLocs := [], imgs := [], undoBad := [] })).modSum p r.1
      (fun m => { m with undo := false })

/-- R263: an ADD subtracted from the base; the applied records above that overlap it lose their undo images. -/
def subtractRec (p a : Nat) (q : Patch) (h : Handle) (above : List (Nat × Patch)) (s : State) : PRes :=
  readStore p h q.homeWord ((touched h q.vals).flatMap (fun g => [Damage.base p q.home g 0, .store p a g 0])) s (fun s =>
    let (h', n) := subtractOut h q
    let t := above.foldl (fun t r => t.dropUndo p r) ((s.setHandle p q.home h').touch p q.home (q.lines h))
    .done 0 n a 0 (t.dropRec p a q))

/-- R263: PATCH.INVERT at the engine. -/
def runInvert (p : Nat) (x : Reader) (a : Nat) (s : State) : PRes :=
  s.withRec p x a (fun q h =>
    if q.st ≠ .applied then
      refusals [(decide (s.refs p a q ≠ 0), stRefcount)] a s (fun _ => .done 0 0 a 0 (s.dropRec p a q))
    else
      let above := appliedAbove (s.proc p) h a q
      if q.undoHeld && above.isEmpty then restoreRec p a q h (s.spoil x)
      else if q.isAdd then subtractRec p a q h above (s.spoil x)
      else .fail { faultRec fcNotInvertible none with pa := paOf a q.ray } s)

/-- R267: PATCH.DISCARD at the engine. -/
def runDiscard (p : Nat) (x : Reader) (a : Nat) (s : State) : PRes :=
  s.withRec p x a (fun q _ =>
    refusals [(decide (q.st = .applied), stState), (decide (s.refs p a q ≠ 0), stRefcount)] a s (fun _ =>
      .done 0 0 a 0 (s.dropRec p a q)))

/-! ### COMMUTE (R264) -/

/-- R264: whether two records may swap. -/
def swapOk (p q : Patch) (loose : Bool) : Bool :=
  let int := fun (r : Patch) => decide (r.dfmt = Sfmt.int32.code)
  (overlap p q).isNone ||
    (p.isAdd && q.isAdd && ((int p && int q) || (loose && !int p && !int q)))

/-- R264: the conflict fault of p and q. -/
def conflict (h : Handle) (np nq : Nat) (p q : Patch) : FaultRec :=
  { faultRec fcConflict none with
    pa := paOf np p.ray, pb := paOf nq q.ray, elem := h.frElem ((overlap p q).getD 0) }

/-- The rays that hold both names, with their positions. -/
def bothOn (h : Handle) (a b : Nat) : List (Ray × Nat × Nat) :=
  h.rays.filterMap (fun r =>
    if r.2.alive && r.2.recs.contains a && r.2.recs.contains b then some (r.2, r.2.recs.idxOf a, r.2.recs.idxOf b) else none)

/-- R264, R266: whether a ray forked from one that holds a record has its fork height in a range. -/
def forkIn (h : Handle) (name lo hi : Nat) : Bool :=
  h.rays.any (fun r => r.2.alive && decide (lo ≤ r.2.forkH) && decide (r.2.forkH ≤ hi) && decide (r.1 ≠ 0) &&
    (h.ray r.2.parent).recs.contains name)

/-- R264: two records exchanged on every ray that holds both. -/
def swapNames (h : Handle) (a b : Nat) : Handle :=
  { h with rays := h.rays.map (fun r =>
      (r.1, if r.2.recs.contains a && r.2.recs.contains b then
          { r.2 with recs := r.2.recs.map (fun n => if n = a then b else if n = b then a else n) }
        else r.2)) }

/-- R264: PATCH.COMMUTE at the engine. Lane 2 of its status names the first record. Assumption log 96 (DESIGN CHOICE). -/
def runCommute (p : Nat) (x : Reader) (a b : Nat) (loose : Bool) (s : State) : PRes :=
  s.withRec p x a (fun qa h => s.withRec p x b (fun qb _ =>
    let next := (bothOn h a b).find? (fun r => decide (r.2.1 + 1 = r.2.2) || decide (r.2.2 + 1 = r.2.1))
    let shared := match next with
      | some r =>
        let hi := max r.2.1 r.2.2
        forkIn h (r.1.recs.getD (hi - 1) 0) hi hi
      | none => false
    refusals
      [(decide (qa.st ≠ .sealed) || decide (qb.st ≠ .sealed), stState),
       (decide (qa.home ≠ qb.home) || next.isNone, stNotAdjacent), (shared, stShared)] a s (fun _ =>
        if swapOk qa qb loose then .done 0 0 a 0 (s.modHandle p qa.home (fun h => swapNames h a b))
        else .fail (conflict h a b qa qb) s)))

/-! ### TRANSPLANT (R265) -/

/-- R265: a granule's place after a shift by rows and columns. -/
def shiftGran (h d : Handle) (dr dc : Int) (g : Nat) : Nat :=
  ((g / h.gcols : Nat) + dr / 64).toNat * d.gcols + ((g % h.gcols : Nat) + dc / 64).toNat

/-- R265: a patch with its coverage, its storage and its poisoned granules shifted into a destination tensor. -/
def Patch.shift (q : Patch) (h d : Handle) (dr dc : Int) (ref : TRef) : Patch :=
  let at_ := fun (e : Nat) => d.elem ((e / h.cols : Nat) + dr) ((e % h.cols : Nat) + dc)
  let gran := shiftGran h d dr dc
  { q with
    home := hIndex ref.handle, homeGen := hGen ref.handle, ray := ref.ray, vals := q.vals.foldl (fun t v => Tab.put t (at_ v.1) v.2) [],
    idxs := q.idxs.foldl (fun t v => Tab.put t (at_ v.1) v.2) [], bad := q.bad.map gran,
    locs := q.locs.foldl (fun t v => Tab.put t (gran v.1) v.2) [],
    masks := q.masks.foldl (fun t v => Tab.put t (gran v.1) v.2) [] }

/-- R265: the errors in a patch's storage move with it. -/
def State.shiftDamage (s : State) (p name : Nat) (gran : Nat → Nat) : State :=
  s.moveDamage (fun d =>
    match d with
    | .store p' n g b => if p' = p ∧ n = name then .store p' n (gran g) b else d
    | _ => d)

/-- R265: PATCH.TRANSPLANT at the engine. Assumption log 45 (DEDUCED). -/
def runTransplant (p : Nat) (x : Reader) (a : Nat) (ref : TRef) (loose : Bool) (dr dc : Int) (s : State) : PRes :=
  let di := hIndex ref.handle
  s.withRec p x a (fun q h =>
    match s.fate p ref.handle clTensor 0 with
    | .error r => .fail r s
    | .ok none => .wait
    | .ok (some d) =>
      let outside := q.vals.any (fun v => !d.inside ((v.1 / h.cols : Nat) + dr) ((v.1 % h.cols : Nat) + dc))
      refusals
        [(decide (q.st ≠ .sealed), stState), (decide (s.refs p a q ≠ 0), stRefcount),
         (!(d.ray ref.ray).alive || (!q.isAdd && decide ((d.fmt, d.scl) ≠ (q.dfmt, h.scl))) || outside, stRay)] a s (fun _ =>
          let above := ((s.proc p).records (h.ray q.ray)).dropWhile (fun r => decide (r.1 ≠ a))
          match (above.drop 1).find? (fun r => !swapOk q r.2 loose) with
          | some r => .fail (conflict h a r.1 q r.2) s
          | none =>
            let q' := q.shift h d dr dc ref
            let t := ((s.raise p q.home a).modHandle p q.home (fun h => h.unlink a)).shiftDamage p a
              (shiftGran h d dr dc)
            let d' := t.handle p di
            match (t.proc p).stackFull d' (d'.ray ref.ray) (touched d' q'.vals) with
            | some g =>
              .fail { faultRec fcStackFull none with
                pa := paOf a q.ray, handle := ref.handle, offset := elemOff d'.sfmt (d'.granFirst g) } s
            | none =>
              let r := d'.ray ref.ray
              let t1 := (t.modProc p (fun v => v.setPatch a q')).modHandle p di
                (fun h => { h with rays := Tab.put h.rays ref.ray { r with recs := r.recs ++ [a] } })
              .done 0 0 a 0 t1))

/-! ### SQUASH (R266) -/

/-- R35, R56: whether RNEF into a format saturates. -/
def saturates (f : Sfmt) (v : Fv) : Bool :=
  match f, v with
  | _, .nan _ _ => false
  | .e4m3, .inf _ => true
  | .e4m3, .fin _ m e => decide (0x7E < roundFf fp8e4 0x7FFF true .rne false m e)
  | .lns6, .inf _ => true
  | .lns6, .fin _ m e => decide (Fv.cmp (.fin false m e) (lnslin 31) = .gt)
  | f, v => f.isInt && inexact f (match v with | .fin s m e => .fin s (roundMag .rne s m e) 0 | w => w) (encodeElem f .rne v)

/-- R266: an element of a merged record: value, index, whether it saturated; none for an ADD with no REPLACE below. The
deltas of an all-ADD run that is not all INT32 are summed as FP32, the oldest rounded to it first. Assumption log 88
(DEDUCED). -/
def squashElem (h : Handle) (run : List Patch) (e : Nat) : Option (Nat × Nat × Bool) :=
  let rs := run.filter (fun q => q.covers e)
  let f := h.sfmt
  if run.all (fun q => q.isAdd) then
    let ds := rs.map (fun q => q.val e)
    if run.all (fun q => decide (q.dfmt = Sfmt.int32.code)) then
      let v := ds.foldl (Fv.add .rne) .zero
      some (encodeElem .int32 .rne v, 0, saturates .int32 v)
    else
      match ds with
      | [] => none
      | d :: rest => some (encodeFf fp32 .rne (rest.foldl add32 (decodeFf fp32 (encodeFf fp32 .rne d))), 0, false)
  else
    let newest := rs.reverse
    let adds := (newest.takeWhile (fun q => q.isAdd)).reverse
    -- every ADD of the run needs a REPLACE below it
    match rs.head?, (newest.dropWhile (fun q => q.isAdd)).head? with
    | some low, some w =>
      if low.isAdd then none
      else
        let bits := Tab.get w.vals e 0
        let idx := Tab.get w.idxs e 0
        if adds.isEmpty then some (bits, idx, false)
        else
          let v := readSum f (decodeElem f bits) (adds.map (fun q => q.val e))
          some (encodeSum f v, idx, saturates f v)
    | _, _ => none

/-- The storage of a merged record: of each granule, that of the oldest record. -/
def oldest (ts : List (Tab Loc)) : Tab Loc :=
  ts.foldl (fun t u => u.foldl (fun t l => if (Tab.find t l.1).isSome then t else Tab.put t l.1 l.2) t) []

/-- R266: the merged record of a run, with COUNT; or the first element that an ADD covers with no REPLACE below. -/
def squashed (h : Handle) (p : Patch) (run : List Patch) : Except Nat (Patch × Nat) :=
  let es := (run.flatMap (fun q => q.vals.map Prod.fst)).dedup.mergeSort (· ≤ ·)
  let isAdd := run.all (fun q => q.isAdd)
  let ints := run.all (fun q => decide (q.dfmt = Sfmt.int32.code))
  let dfmt := if !isAdd then h.fmt else if ints then Sfmt.int32.code else Sfmt.fp32.code
  let whole := oldest (run.map (fun q => q.undoLocs))
  let undoOf := fun e => ((run.find? (fun q => q.covers e)).bind (fun q => Tab.find q.undo e)).map (fun u => (e, u))
  es.foldl (fun acc e =>
      match acc, squashElem h run e with
      | .error x, _ => .error x
      | .ok _, none => .error e
      | .ok (q, n), some (v, i, sat) =>
        .ok ({ q with vals := Tab.put q.vals e v, idxs := if isAdd || !h.scl then q.idxs else Tab.put q.idxs e i }, n + sat.toNat))
    (.ok ({ p with
        isAdd := isAdd, dfmt := dfmt, vals := [], idxs := [], undo := es.filterMap undoOf,
        locs := oldest (run.map (fun q => q.locs)), masks := oldest (run.map (fun q => q.masks)),
        undoLocs := whole,
        imgs := (oldest (run.map (fun q => q.imgs))).filter (fun l => (Tab.find whole l.1).isNone),
        bad := (run.flatMap (fun q => q.bad)).dedup, undoBad := (run.flatMap (fun q => q.undoBad)).dedup }, 0))

/-- The granules of which a record holds an undo image. -/
def Patch.imaged (q : Patch) : List Nat := q.undoLocs.map Prod.fst ++ q.imgs.map Prod.fst

/-- R266, R421: the words that a merger of a run reads: the values, and the undo images of granules of which several records
hold one. -/
def squashWords (p : Nat) (h : Handle) (run : List (Nat × Patch)) : List Damage :=
  run.flatMap (fun r => (touched h r.2.vals).map (fun g => Damage.store p r.1 g 0) ++
    (r.2.imaged.filter (fun g => decide (1 < run.countP (fun q => q.2.imaged.contains g)))).map (fun g => .undo p r.1 g 0))

/-- R266, R421: the errors of undo images that pass to the merged record move with them. -/
def State.squashDamage (s : State) (p name : Nat) (run : List (Nat × Patch)) : State :=
  s.moveDamage (fun d =>
    match d with
    | .undo p' n g b => if p' = p ∧ run.any (fun r => decide (r.1 = n)) then .undo p name g b else d
    | _ => d)

/-- R266: PATCH.SQUASH at the engine. -/
def runSquash (p : Nat) (x : Reader) (a b : Nat) (s : State) : PRes :=
  s.withRec p x a (fun qa h => s.withRec p x b (fun qb _ =>
    let place := (bothOn h a b).find? (fun r => decide (r.2.1 ≤ r.2.2))
    let names := match place with
      | some r => (r.1.recs.drop r.2.1).take (r.2.2 + 1 - r.2.1)
      | none => []
    let run := names.filterMap (fun n => ((s.proc p).patch n).map (fun q => (n, q)))
    let all : PState → Bool := fun st => run.all (fun r => decide (r.2.st = st))
    let shared := match place with
      | some r => forkIn h a (r.2.1 + 1) r.2.2
      | none => false
    refusals
      [(decide (qa.home ≠ qb.home) || place.isNone, stNotAdjacent), (!(all .sealed || all .applied), stState),
       (shared, stShared)] a s (fun _ =>
        if run.length ≤ 1 then .done 0 0 a 0 s
        else
          match squashed h qa (run.map Prod.snd) with
          | .error e => .fail { faultRec fcSquash none with pa := paOf a qa.ray, elem := h.frElem e } s
          | .ok (q, n) =>
            readStore p h qa.homeWord (squashWords p h run) s (fun s =>
              let t : State := (if qa.st = .applied then s.spoil x else s).squashDamage p a run
              let t1 := ((run.drop 1).foldl (fun t r => t.dropRec p r.1 r.2) t).modProc p (fun v => v.setPatch a q)
              if t1.fits then
                .done 0 n a 0 (t1.modSum p a (fun m =>
                  { m with isAdd := q.isAdd, undo := decide (q.st = .applied) && q.undoHeld }))
              else .fail { faultRec fcPool none with handle := qa.homeWord } s))))

/-! ### QUERY and FORK (R268, R269) -/

/-- R268: a record that a context may query. Assumption log 43 (DEDUCED). -/
def State.queried (s : State) (p : Nat) (x : Reader) (name : Nat) : Option Patch :=
  ((s.proc p).patch name).filter (fun q => decide (q.st = .applied) || q.visible x)

/-- R268: PATCH.QUERY at the engine. -/
def runQuery (p : Nat) (x : Reader) (a b : Nat) (s : State) : PRes :=
  match s.queried p x a, s.queried p x b with
  | some qa, some qb =>
    match overlap qa qb with
    | some e => .done 0 1 (e / (s.handle p qa.home).cols) (e % (s.handle p qa.home).cols) s
    | none => .done 0 0 0 0 s
  | _, _ => .done stUnknown 0 0 0 s

/-- R269: RAY.FORK at the engine. Lane 2 of its status holds 0. Assumption log 96 (DESIGN CHOICE). -/
def runFork (p : Nat) (ref : TRef) (k hgt : Nat) (s : State) : PRes :=
  match s.fate p ref.handle clTensor 0 with
  | .error r => .fail r s
  | .ok none => .wait
  | .ok (some h) =>
    let j := h.ray ref.ray
    let rs := (s.proc p).records j
    let applied := rs.countP (fun r => decide (r.2.st = .applied))
    refusals
      [((h.ray k).alive || !j.alive || decide (j.recs.length < hgt) || decide (hgt < applied) ||
          (rs.take hgt).any (fun r => decide (r.2.st = .opened)), stRay)] 0 s (fun _ =>
        let r : Ray :=
          { alive := true, parent := ref.ray, forkH := hgt, pins := 0, recs := j.recs.take hgt, born := s.draws }
        .done 0 0 0 0 (s.draw.modHandle p (hIndex ref.handle) (fun h => { h with rays := Tab.put h.rays k r })))

/-! ### The engine -/

/-- R256: whether an operation of the same channel and context reached the engine before. -/
def patchBlocked (k : Core) (i : Nat) (o : DOp) : Bool :=
  (k.dops.take i).any (fun q => decide (q.ctx = o.ctx) && q.chanB == o.chanB &&
    (match q.kind with | .patch _ _ => true | _ => false))

/-- R256–R269: an operation of the patch engine. -/
def runPatch (c : Nat) (o : DOp) (op : PatchOp) (s : State) : PRes :=
  let p := s.procOf (s.ctx c o.ctx)
  let x := s.reader c o.ctx
  match op with
  | .openRec name _ ref isAdd dfmt keep => runOpen p x name ref isAdd dfmt keep s
  | .stow a src row col => runStow c o p x a src row col s
  | .seal a scope _ => runSeal p x a.name scope s
  | .apply a => runApply p x a.name s
  | .invert a => runInvert p x a.name s
  | .commute a b loose => runCommute p x a.name b.name loose s
  | .transplant a ref loose dr dc => runTransplant p x a.name ref loose dr dc s
  | .squash a b => runSquash p x a.name b.name s
  | .discard a => runDiscard p x a.name s
  | .query a b => runQuery p x a.name b.name s
  | .fork ref k h => runFork p ref k h s

/-! ### The operations of contexts of other devices (R363) -/

/-- R363, R258: a STOW of another device, its rows converted there. -/
def runFarStow (p : Nat) (x : Reader) (name : Nat) (row col : Int) (rows : List (List Nat × List Nat)) (s : State) : PRes :=
  s.withRec p x name (fun q h =>
    if q.st ≠ .opened then .fail { faultRec fcUnknown none with pa := paOf name 0 } s
    else
      let at_ := fun (r : (List Nat × List Nat) × Nat) =>
        (r.1.1.zipIdx).filterMap (fun (v : Nat × Nat) =>
          let i := row + (r.2 : Int)
          let j := col + (v.2 : Int)
          if h.inside i j then some (h.elem i j, v.1 % 2 ^ ((Sfmt.ofCode q.dfmt).getD .fp32).bits, r.1.2.getD (v.2 / 32) 0 % 16)
          else none)
      stowIn p name q h ((rows.zipIdx).flatMap at_) id s)

/-- R363: the patch engine carries out an operation of a context of another device. -/
def runFar (p : Nat) (x : Reader) (op : FarPatch) (s : State) : PRes :=
  match op with
  | .openRec name h ray isAdd dfmt keep =>
    if ((s.proc p).patch name).isSome then .fail { faultRec fcUnknown none with pa := paOf name 0 } s
    else runOpen p x name { handle := h, ray := ray } isAdd dfmt keep s
  | .stow name row col rows => runFarStow p x name row col rows s
  | .seal name scope => runSeal p x name scope s
  | .apply name => runApply p x name s
  | .invert name => runInvert p x name s
  | .commute a b loose => runCommute p x a b loose s
  | .transplant name h ray loose dr dc => runTransplant p x name { handle := h, ray := ray } loose dr dc s
  | .squash a b => runSquash p x a b s
  | .discard name => runDiscard p x name s
  | .query a b => runQuery p x a b s
  | .fork h ray k hgt => runFork p { handle := h, ray := ray } k hgt s

/-- R254: lanes 0 to 3 of the status vector. -/
def putStatus (c : Nat) (o : DOp) (status : Nat) (code count a b : Nat) (s : State) : State :=
  if status = 0xFF0 then s
  else
    let v := vecOfList [code, count % 2 ^ 32, a % 2 ^ 32, b % 2 ^ 32]
    s.settle c o.ctx (.vreg ((s.ctx c o.ctx).phys status) (lanesParts 0xF) v 32)

/-- The granules of a record, or its tensor's first one. -/
def State.recUnits (s : State) (p name : Nat) : List (Nat × Nat) :=
  match (s.proc p).patch name with
  | none => []
  | some q =>
    match s.entry p q.homeWord clTensor with
    | none => []
    | some h =>
      let gs := touched h q.vals
      (if gs.isEmpty then [0] else gs).map (fun g => (q.home, g))

/-- A tensor's first granule. -/
def State.tenUnits (s : State) (p : Nat) (h : BitVec 32) : List (Nat × Nat) :=
  if (s.entry p h clTensor).isSome then [(hIndex h, 0)] else []

/-- The granules that a TRANSPLANT reaches: of its record, and of the place to which it moves. -/
def State.moveUnits (s : State) (p name : Nat) (handle : BitVec 32) (dr dc : Int) : List (Nat × Nat) :=
  s.recUnits p name ++
    (match (s.proc p).patch name, s.entry p handle clTensor with
     | some q, some d =>
       let h := s.handle p q.home
       (touched h q.vals).map (fun g => (hIndex handle, shiftGran h d dr dc g))
     | _, _ => []) ++ s.tenUnits p handle

/-- The granules of device memory that an operation of the patch engine reaches: of its records, of the tensors that it
names, and of the place to which a TRANSPLANT moves. -/
def State.patchUnits (s : State) (c : Nat) (o : DOp) (op : PatchOp) : List (Nat × Nat) :=
  let p := s.procOf (s.ctx c o.ctx)
  match op with
  | .openRec _ _ ref _ _ _ | .fork ref _ _ => s.tenUnits p ref.handle
  | .stow a src row col =>
    match (s.proc p).patch a.name with
    | none => []
    | some q =>
      s.rectUnits p q.homeWord row col (shRows o.smp.shape) (fun _ => elemsIn (srcFmt o src none 0).1 (shRowb o.smp.shape))
  | .seal a _ _ | .apply a | .invert a | .discard a => s.recUnits p a.name
  | .commute a b _ | .squash a b => s.recUnits p a.name ++ s.recUnits p b.name
  | .query _ _ => []
  | .transplant a ref _ dr dc => s.moveUnits p a.name ref.handle dr dc

/-- The same of an operation of a context of another device. -/
def State.farUnits (s : State) (p : Nat) (op : FarPatch) : List (Nat × Nat) :=
  match op with
  | .openRec _ h _ _ _ _ | .fork h _ _ _ => s.tenUnits p h
  | .stow name row col rows =>
    match (s.proc p).patch name with
    | none => []
    | some q => s.rectUnits p q.homeWord row col rows.length (fun _ => (rows.headD ([], [])).1.length)
  | .seal name _ | .apply name | .invert name | .discard name => s.recUnits p name
  | .commute a b _ | .squash a b => s.recUnits p a ++ s.recUnits p b
  | .query _ _ => []
  | .transplant name h _ _ dr dc => s.moveUnits p name h dr dc

/-- PATCH_ENGINE_OPERATION (R256): the patch engine carries out a STOW or a patch operation wholly. -/
def State.patchOperation (s : State) (c i : Nat) : State :=
  match (s.core c).dops[i]? with
  | none => s
  | some o =>
    match o.kind with
    | .patch op status =>
      let stows := match op with
        | .seal _ scope after => after.any ((s.core c).unseen scope)
        | _ => false
      if !o.ready || decide (o.bound ≠ 0) || patchBlocked (s.core c) i o || stows then s
      else
        let p := s.procOf (s.ctx c o.ctx)
        let units := s.patchUnits c o op
        match s.gate p units (.op c o.id) with
        | some t => t
        | none =>
          match runPatch c o op ((s.goFar c i p units).cacheGranules p units) with
          | .wait => s
          | .fail r t => (t.unopened c o).dFailCounted c i r
          | .done code count a b t => (putStatus c o status code count a b t).dDone c i
    | _ => s

/-! ### Names (R245) -/

/-- The name of an OPEN in flight. -/
def DOp.opening (o : DOp) : Option Nat :=
  match o.kind with
  | .patch (.openRec n _ _ _ _ _) _ => some n
  | _ => none

/-- The names that a process may not be given: those of records, of reserves, and of OPENs in flight or withdrawn at an
eviction. -/
def State.namesTaken (s : State) (p : Nat) : List Nat :=
  (s.proc p).patches.map Prod.fst ++
    s.cores.flatMap (fun k => k.2.reserve p ++
      (k.2.dops.filter (fun o => decide (s.procOf (k.2.ctx o.ctx) = p))).filterMap DOp.opening) ++
    (s.launches.filter (fun l => decide (l.2.proc = p))).flatMap (fun l =>
      l.2.saved.flatMap (fun v => v.ops.filterMap DOp.opening))

/-- The first n numbers from `k` on that are not taken; `fuel` bounds the search. -/
def freeNames (taken : List Nat) : Nat → Nat → Nat → List Nat
  | 0, _, _ => []
  | _, 0, _ => []
  | fuel + 1, n + 1, k =>
    if 2 ^ 24 ≤ k then []
    else if taken.contains k then freeNames taken fuel (n + 1) (k + 1) else k :: freeNames taken fuel n (k + 1)

/-- The block of names of a refill: of the names that the engine would give, those that are free; the least free name
if there is none. -/
def blockOfNames (taken : List Nat) (draw : Nat) : List Nat :=
  let ns := ((Config.nameBlock draw).filter (fun n => decide (1 ≤ n ∧ n < 2 ^ 24) && !taken.contains n)).dedup
  if ns.isEmpty then freeNames taken (taken.length + 1) 1 1 else ns

/-- NAME_RESERVE_REFILL (R245): a block of names reaches the reserve of a core. -/
def State.refillNames (s : State) (c p : Nat) : State :=
  if !(s.proc p).alive then s
  else
    let ns := blockOfNames (s.namesTaken p) s.draws
    { s.modCore c (fun k => { k with names := Tab.put k.names p (k.reserve p ++ ns) }) with draws := s.draws + 1 }

/-! ### Deferred applies (R270) -/

/-- R270: a SEALED record on ray 0 of an AUTO tensor that no refusal holds back, with its tensor. -/
def State.autoRec (s : State) (p name : Nat) : Option (Patch × Handle) :=
  match (s.proc p).patch name with
  | none => none
  | some q =>
    match s.lookup p (q.homeWord) clTensor with
    | .ok h => if !h.auto || (applyRefusals (s.proc p) h name q).any (fun r => r.1) then none else some (q, h)
    | _ => none

/-- R270: such a record applied, unless storage that it reads is in error. -/
def State.autoApply (s : State) (p name : Nat) : Option State :=
  match s.autoRec p name with
  | none => none
  | some (q, h) =>
    match readStore p h q.homeWord (applyWords p h name q) s (.done 0 0 0 0) with
    | .done _ _ _ _ t => (t.applyRec p name q h).map Prod.fst
    | _ => none

/-- R273, R350, R421: the error beyond correction that such an apply meets counts, and poisons its granule. -/
def State.autoErrors (s : State) (p name : Nat) : State :=
  match s.autoRec p name with
  | none => s
  | some (q, h) =>
    match readStore p h q.homeWord (applyWords p h name q) s (.done 0 0 0 0) with
    | .fail r _ => r.word.elim s s.hbmError
    | _ => s

/-- DEFERRED_AUTO_APPLY (R270): a record left SEALED at its launch's retirement, the record below which has been applied or
removed, is applied, or its apply is refused once more. -/
def State.deferredApply (s : State) (p name : Nat) : State :=
  match (s.proc p).patch name with
  | none => s
  | some q =>
    if !q.due then s
    else
      (s.gate p (s.recUnits p name) (.auto p name)).getD
        (((s.autoApply p name).getD ((s.autoErrors p name).modProc p (fun v => v.setPatch name { q with due := false }))).leaveUnit
          (.auto p name))

/-- R270: at the retirement of a launch, the OPEN records that it owns are discarded. -/
def State.discardOpen (s : State) (p l : Nat) : State × Nat :=
  let mine := (s.proc p).patches.filter (fun q => q.2.ofLaunch s.node l && decide (q.2.st = .opened))
  (mine.foldl (fun s q => s.dropRec p q.1 q.2) s, mine.length)

/-- R270: the launch's SEALED records on ray 0 of AUTO tensors are applied in position order; those left are counted. -/
def State.applySealed (s : State) (p l : Nat) : State × Nat :=
  let autos := (s.proc p).handles.filter (fun h => h.2.auto && decide (h.2.cls = clTensor))
  let names := autos.flatMap (fun h => (h.2.ray 0).recs)
  names.foldl (fun (acc : State × Nat) n =>
    match (acc.1.proc p).patch n with
    | some q =>
      if q.ofLaunch s.node l ∧ q.st = .sealed then
        match acc.1.autoApply p n with
        | some t => (t, acc.2)
        | none => (acc.1.autoErrors p n, acc.2 + 1)
      else acc
    | none => acc) (s, 0)

/-- R271: the OPEN and SEALED unapplied records that a launch owns are discarded. -/
def State.discardUnapplied (s : State) (p l : Nat) : State :=
  let mine := (s.proc p).patches.filter (fun q => q.2.ofLaunch s.node l && decide (q.2.st ≠ .applied))
  mine.foldl (fun s q => s.dropRec p q.1 q.2) s

/-! ### The meanings of the engine's events -/

/-- The meaning of PATCH_ENGINE_OPERATION. -/
def execPatchEngineOperation (core idx : Nat) (s : State) : Host.Outcome State Fault Refusal := .next (s.patchOperation core idx)

/-- The meaning of NAME_RESERVE_REFILL. -/
def execNameReserveRefill (core proc : Nat) (s : State) : Host.Outcome State Fault Refusal := .next (s.refillNames core proc)

/-- The meaning of DEFERRED_AUTO_APPLY. -/
def execDeferredAutoApply (proc name : Nat) (s : State) : Host.Outcome State Fault Refusal := .next (s.deferredApply proc name)

end Sys2Proof.Machine
end

