-- ==== Sys2Proof/Machine/Sync.lean ====
section
/-! DEFINITION. Sync cells: the SYNC operations at issue and at the atomic unit (R277–R284), the atomics that hosts and
other devices perform (R406), and the start of D operations (R75, R277, R314, R327, R426). -/

set_option Elab.async false

namespace Sys2Proof.Machine

/-! ### The atomic operations (R281) -/

/-- The integer of n bytes, signed or unsigned. -/
def bytesInt (sgn : Bool) (n v : Nat) : Int := if sgn then intOfBits (8 * n) v else (v % 2 ^ (8 * n) : Nat)

/-- R281: what an operation stores into n bytes that hold `c`; none when it writes nothing. -/
def atomicNew (op : Nat) (sgn : Bool) (n c v w : Nat) : Option Nat :=
  match op with
  | 0x13 => some ((c + v) % 2 ^ (8 * n))
  | 0x14 => some (if bytesInt sgn n c < bytesInt sgn n v then v else c)
  | 0x15 => some (c ||| v)
  | 0x16 => if c = v then some w else none
  | 0x17 | 0x19 => some v
  | _ => none

/-- R281: the value that a result register receives. -/
def atomicResult (sgn : Bool) (n c : Nat) : Word := BitVec.ofInt 64 (bytesInt sgn n c)

/-- R421: whether a cell is damaged beyond correction. -/
def State.cellHurt (s : State) (p i off : Nat) : Bool := s.damaged.any (cellWords p i off 1)

/-- R278, R281: one step of a cell's order: the region with the write made, and the bytes read. -/
def Handle.atomic (h : Handle) (op : Nat) (sgn : Bool) (off n v w : Nat) : Handle × Nat :=
  let c := Memory.readNat h.data off n
  match atomicNew op sgn n c (v % 2 ^ (8 * n)) (w % 2 ^ (8 * n)) with
  | some c' => ({ h with data := Memory.writeNat h.data off n c' }, c)
  | none => (h, c)

/-- R328, R281: the atomic unit's step on a region of a process; the cell's correctable errors are counted (R421). -/
def State.atomicAt (s : State) (p i op : Nat) (sgn : Bool) (off n v w : Nat) : State × Nat :=
  let (h, c) := (s.handle p i).atomic op sgn off n v w
  (((s.setHandle p i h).touch p i [off / 4096]).correctHbm (cellWords p i off 1), c)

/-! ### SYNC at issue (R279–R281) -/

/-- A SYNC operation at its issue. -/
def syncOp (op : Nat) (c : DC) (f : SyncF) (s : State) : Res :=
  let x := s.cur
  let n := 2 ^ f.size.toNat
  let h := x.rd f.h.toNat
  let off := (x.rd f.o.toNat).toNat
  let release := f.ord && decide (op ≠ 0x18)
  dOp c false false
    (dCheck
      [trapIf s fcField (decide (2 ^ 32 ≤ h.toNat)),
       trapVal s fcOverflow (if 2 ^ 48 ≤ off then some (off : Int) else none),
       trapVal s fcMisaligned (if off % n ≠ 0 then some (off : Int) else none)]
      { xfer := false,
        kind := fun _ => .sync op (h.setWidth 32) off n f.ord f.sgn f.scope.toNat (x.rd f.v.toNat) (x.rd f.n.toNat)
          f.d.toNat (if release then (s.core s.foc.core).earlier s.foc.ctx else []),
        smp := sampleOf s 0, toks := dcToks c, own := none, also := marksOnce (decide (op ≠ 0x18)) s,
        bound := storeBound s release }) s

/-- SYNC.ADD (R280, R281). -/
def opSyncAdd (c : DC) (f : SyncF) (s : State) : Res := syncOp 0x13 c f s

/-- The meaning of SYNC.ADD. -/
def execSyncAdd (c : DC) (f : SyncF) (s : State) : Host.Outcome State Fault Refusal := commit (opSyncAdd c f s) s

/-- SYNC.MAX (R280, R281). -/
def opSyncMax (c : DC) (f : SyncF) (s : State) : Res := syncOp 0x14 c f s

/-- The meaning of SYNC.MAX. -/
def execSyncMax (c : DC) (f : SyncF) (s : State) : Host.Outcome State Fault Refusal := commit (opSyncMax c f s) s

/-- SYNC.OR (R280, R281). -/
def opSyncOr (c : DC) (f : SyncF) (s : State) : Res := syncOp 0x15 c f s

/-- The meaning of SYNC.OR. -/
def execSyncOr (c : DC) (f : SyncF) (s : State) : Host.Outcome State Fault Refusal := commit (opSyncOr c f s) s

/-- SYNC.CAS (R280, R281). -/
def opSyncCas (c : DC) (f : SyncF) (s : State) : Res := syncOp 0x16 c f s

/-- The meaning of SYNC.CAS. -/
def execSyncCas (c : DC) (f : SyncF) (s : State) : Host.Outcome State Fault Refusal := commit (opSyncCas c f s) s

/-- SYNC.SWAP (R280, R281). -/
def opSyncSwap (c : DC) (f : SyncF) (s : State) : Res := syncOp 0x17 c f s

/-- The meaning of SYNC.SWAP. -/
def execSyncSwap (c : DC) (f : SyncF) (s : State) : Host.Outcome State Fault Refusal := commit (opSyncSwap c f s) s

/-- SYNC.LDA (R280, R281). -/
def opSyncLda (c : DC) (f : SyncF) (s : State) : Res := syncOp 0x18 c f s

/-- The meaning of SYNC.LDA. -/
def execSyncLda (c : DC) (f : SyncF) (s : State) : Host.Outcome State Fault Refusal := commit (opSyncLda c f s) s

/-- SYNC.STL (R280, R281). -/
def opSyncStl (c : DC) (f : SyncF) (s : State) : Res := syncOp 0x19 c f s

/-- The meaning of SYNC.STL. -/
def execSyncStl (c : DC) (f : SyncF) (s : State) : Host.Outcome State Fault Refusal := commit (opSyncStl c f s) s

/-! ### The atomic unit (R278, R281–R283) -/

/-- R278: an earlier SYNC of the same context and channel on the same cell has not been performed. One that has, and waits for
its acknowledgement, delays nothing (R405); a QPUSH or a QPOP, whose cells are a queue's own, is none.
Assumption log 94 (DEDUCED). -/
def cellBlocked (k : Core) (i : Nat) (o : DOp) (handle : BitVec 32) (off : Nat) : Bool :=
  (k.dops.take i).any (fun q => decide (q.ctx = o.ctx) && q.chanB == o.chanB && !q.performed &&
    (match q.kind with
     | .sync _ h a .. => decide (hIndex h = hIndex handle) && decide (a / 8 = off / 8)
     | _ => false))

/-- R281: the faults of a SYNC at the unit: a range outside the region, then a damaged cell. -/
def syncFault (s : State) (p : Nat) (h : Handle) (handle : BitVec 32) (off n : Nat) : Option FaultRec :=
  if h.len < off + n then some (handleFault fcInvalid handle off)
  else (s.damaged.find? (cellWords p (hIndex handle) off 1)).map (wordFault handle off)

/-- R281, R350: a SYNC at the unit fails; an error in its cell is counted, and rolls nothing back.
Assumption log 95 (DEDUCED). -/
def State.syncFail (s : State) (c i : Nat) (r : FaultRec) : State :=
  (r.word.elim s (fun d => s.count (s.damageDie d) erUeHbm)).dFail c i r

/-- ATOMIC_UNIT_OPERATION (R278, R281): a SYNC takes its place in the cell order; its result lands (R282). -/
def State.atomicUnit (s0 : State) (c i : Nat) : State :=
  match (s0.core c).dops[i]? with
  | none => s0
  | some o =>
    match o.kind with
    | .sync op handle off n _ sgn scope v w d after =>
      let p := s0.procOf (s0.ctx c o.ctx)
      let k := s0.core c
      let units := s0.regionUnits p handle clSync off
      if !o.ready || decide (o.bound ≠ 0) || after.any (k.unseen scope) || cellBlocked k i o handle off then s0
      else
        match s0.gate p units (.op c o.id) with
        | some t => t
        | none =>
          let s := s0.goFar c i p units
          match s.fate p handle clSync off with
          | .error r => s.dFail c i r
          | .ok none => s
          | .ok (some h) =>
            match syncFault s p h handle off n with
            | some r => s.syncFail c i r
            | none =>
              let (t, old) := s.atomicAt p (hIndex handle) op sgn off n v.toNat w.toNat
              let t1 := if op = 0x19 then t else t.settle c o.ctx (.sreg d (atomicResult sgn n old))
              t1.dDone c i
    | _ => s0

/-- The meaning of ATOMIC_UNIT_OPERATION. -/
def execAtomicUnitOperation (core idx : Nat) (s : State) : Host.Outcome State Fault Refusal := .next (s.atomicUnit core idx)

end Sys2Proof.Machine
end

