-- ==== Sys2Proof/Machine/Records.lean ====
section
/-! DEFINITION. Launch records (R297, R298, R333), the cells of work queues (R292–R296), the records that a launch unit
considers (R301, R302), and completion blocks (R305, R340). -/

set_option Elab.async false

namespace Sys2Proof.Machine

/-! ### The checks of a record (R298, R333) -/

/-- Whether n bytes of a record at an offset are zero. -/
def recZero (bs : List Byte) (off n : Nat) : Bool := decide (recNat bs off n = 0)

/-- R297: the fixed fields and the reserved bytes. -/
def recFields (bs : List Byte) : Bool :=
  decide (bs.length = 256) && decide (recNat bs 0 1 = 1) && decide (recNat bs 1 1 / 8 % 2 = 0) &&
    decide (recNat bs 1 1 < 64) && decide (recMask bs ≠ 0) && decide (recNat bs 3 1 < 2) && decide (recVrfBase bs ≤ 47) &&
    decide (1 ≤ recVrfUnits bs) && decide (recVrfUnits bs ≤ 48) && decide (recTileBase bs ≤ 15) && decide (recTiles bs ≤ 16) &&
    decide (64 ≤ recRb bs) && decide (recRb bs < 2 ^ 24) && decide (64 ≤ recQb bs) && decide (recQb bs < 2 ^ 24) &&
    decide (recCores bs ≠ []) && recZero bs 0x24 4 && decide (recEntry bs < 2 ^ 48) && decide (recEntry bs % 2 = 0) &&
    decide (recChordCnt bs ≤ 64) && recZero bs 0x3A 6 && (List.range 4).all (fun i => decide (recDepc bs i ≠ 3))

/-- R298: the partition and the tiles of all contexts. -/
def recRoom (bs : List Byte) : Bool :=
  let n := (recCtxs bs).length
  decide (recVrfBase bs + n * recVrfUnits bs ≤ 48) && decide (recTileBase bs + n * recTiles bs ≤ 16)

/-- R307, R298, R333: the generator block. -/
def recGenOk (s : State) (p : Nat) (bs : List Byte) : Bool :=
  match recKind bs with
  | 0 => recZero bs 0x88 32
  | 1 => recZero bs 0x94 20 && decide (1 ≤ recGen bs 2) && decide (recGen bs 2 ≤ recGen bs 0)
  | 2 =>
    recZero bs 0x90 24 &&
      (match s.entry p (recListH bs) clList with
       | some h => decide (8 * recGen bs 1 ≤ h.len)
       | none => false)
  | _ =>
    let z := decodeFf fp64 (recZ bs).toNat
    let t := decodeFf fp64 (recTol bs).toNat
    decide (recN bs ≠ 0) && decide (2 ≤ recNmin bs) && !z.isNan && !z.isInf && (z.isZero || !z.sign) && !t.isNan

/-- Whether a range of n bytes lies whole within a SYNC region. -/
def syncRange (s : State) (p : Nat) (h : BitVec 32) (off n : Nat) : Bool :=
  match s.entry p h clSync with
  | some e => decide (off + n ≤ e.len)
  | none => false

/-- R298: the handles of a record, its dependence cells and its completion block; the offset and handle of a dependence
that is not used, and the offset of a block that is not asked for, may be anything. Assumption log 106 (DEDUCED). -/
def recHandles (s : State) (p : Nat) (bs : List Byte) : Bool :=
  (s.entry p (recCodeH bs) clCode).isSome &&
    (decide (recSaveH bs = 0) || (s.entry p (recSaveH bs) clSave).isSome) &&
    (List.range 4).all (fun i =>
      decide (recDepc bs i = 0) || (decide (recDepOff bs i % 8 = 0) && syncRange s p (recDepH bs i) (recDepOff bs i) 8)) &&
    (decide (recDoneH bs = 0) || (decide (recDoneOff bs % 64 = 0) && syncRange s p (recDoneH bs) (recDoneOff bs) 64))

/-- R297, R298: the pinned rays. -/
def recPinsOk (s : State) (p : Nat) (bs : List Byte) : Bool :=
  (List.range 3).all (fun i =>
    recZero bs (0xAD + 8 * i) 3 && decide (recNat bs (0xAC + 8 * i) 1 < 64) &&
      (decide (recPinH bs i = 0) ||
        (match s.entry p (recPinH bs i) clTensor with
         | some h => (h.ray (recPinRay bs i)).alive
         | none => false)))

/-- R298: whether a launch unit accepts a record. -/
def recordOk (s : State) (p : Nat) (bs : List Byte) : Bool :=
  recFields bs && recRoom bs && recGenOk s p bs && recHandles s p bs && recPinsOk s p bs

/-- R302, R308: the die whose launch unit dispatches a record. -/
def recDie (bs : List Byte) : Nat :=
  match recDies bs with
  | [d] => d
  | _ => 0

/-! ### Completion blocks (R305, R340) -/

def coRejected : Nat := 0x80
def coClosed : Nat := 0x81

/-- R305: the status word. -/
def statusWord (code ctx core : Nat) (relaunched : Bool) : Nat :=
  code + ctx * 2 ^ 8 + core * 2 ^ 16 + relaunched.toNat * 2 ^ 23

/-- R340: bytes 24 to 63 of the block of an ESTIMATE launch. -/
def estBytes (e : DevEst) : List Byte :=
  leBytes e.n 8 ++ leBytes e.mean.toNat 8 ++ leBytes e.m2.toNat 8 ++ leBytes e.half.toNat 8 ++ leBytes e.late 4 ++
    leBytes (e.nonfin + e.stopped.toNat * 2 ^ 24 + e.exhausted.toNat * 2 ^ 25) 4

/-- R305: the page of a record's completion block. -/
def State.doneUnits (s : State) (p : Nat) (bs : List Byte) : List (Nat × Nat) :=
  s.regionUnits p (recDoneH bs) clSync (recDoneOff bs)

/-- R327, R329: whether the write of a record's completion block by an access of the launch unit is held: its region is being
moved, or accesses held before it go first. -/
def State.doneHeld (s : State) (p : Nat) (bs : List Byte) (w : HeldWhat) : Bool :=
  (s.gate p (s.doneUnits p bs) w).isSome

/-- The 4 KiB lines of n bytes at an offset. -/
def linesAt (off n : Nat) : List Nat := (List.range ((off + n - 1) / 4096 - off / 4096 + 1)).map (· + off / 4096)

/-- R328, R350, R421: a launch unit reads n bytes of a region: it pulls their lines, the errors that ECC corrects are
counted, and so are those beyond correction. Whether it met one of these. -/
def State.unitRead (s : State) (p i off n : Nat) : State × Bool :=
  (s.touch p i (linesAt off n)).readWords (cellWords p i off n)

/-- R305: the block is written, and then the cell at offset 16 rises by one; one in error beyond correction is counted, and
stays (R350, R421). Assumption log 95 (DEDUCED). For a record rejected for its own block, nothing is written unless the block
lies in a SYNC region. Assumption log 107 (DESIGN CHOICE). -/
def State.writeDone (s : State) (p : Nat) (bs : List Byte) (status opened left : Nat) (e : DevEst) : State :=
  let i := hIndex (recDoneH bs)
  let off := recDoneOff bs
  if recDoneH bs = 0 ∨ !syncRange s p (recDoneH bs) off 64 then s
  else
    let est := decide (recKind bs = 3)
    let (t, bad) := s.unitRead p i (off + 16) 8
    let t1 := t.heal (fun d => est && cellsOver p i (off + 24) 40 d)
    (t1.modHandle p i (fun h =>
      let d1 := Memory.writeRun h.data off (leBytes status 8 ++ leBytes (opened % 2 ^ 32 + left % 2 ^ 32 * 2 ^ 32) 8)
      let d2 := if est then Memory.writeRun d1 (off + 24) (estBytes e) else d1
      { h with data := if bad then d2 else Memory.writeNat d2 (off + 16) 8 (Memory.readNat d2 (off + 16) 8 + 1) })).touch p i
      [off / 4096]

/-- R298, R296: a record that starts nothing completes at once. -/
def State.dropRecord (s : State) (p : Nat) (bs : List Byte) (code : Nat) : State :=
  s.writeDone p bs (statusWord code 0 0 false) 0 0 DevEst.reset

/-! ### Work queues (R292–R295) -/

def State.queue (s : State) (p q : Nat) : Option Queue := Tab.find (s.proc p).queues q
def State.setQueue (s : State) (p q : Nat) (v : Queue) : State :=
  s.modProc p (fun r => { r with queues := Tab.put r.queues q v })

def Queue.cap (v : Queue) : Nat := 2 ^ v.c

/-- A count of a queue, from its cell. -/
def State.qCell (s : State) (p : Nat) (v : Queue) (off : Nat) : Nat :=
  Memory.readNat (s.handle p (hIndex v.cellH)).data off 8

def State.setQCell (s : State) (p : Nat) (v : Queue) (off val : Nat) : State :=
  s.modHandle p (hIndex v.cellH) (fun h => { h with data := Memory.writeNat h.data off 8 (val % 2 ^ 64) })

/-- R292: HEAD, TAIL, and the records between them. -/
def State.qHead (s : State) (p : Nat) (v : Queue) : Nat := s.qCell p v v.headOff
def State.qTail (s : State) (p : Nat) (v : Queue) : Nat := s.qCell p v v.tailOff
def State.qCount (s : State) (p : Nat) (v : Queue) : Nat := (s.qTail p v + 2 ^ 64 - s.qHead p v) % 2 ^ 64

/-- R292: the bytes of record k. -/
def State.qRecord (s : State) (p : Nat) (v : Queue) (k : Nat) : List Byte :=
  Memory.readRun (s.handle p (hIndex v.bodyH)).data (k % v.cap * 256) 256

def State.setQRecord (s : State) (p : Nat) (v : Queue) (k : Nat) (bs : List Byte) : State :=
  s.modHandle p (hIndex v.bodyH) (fun h => { h with data := Memory.writeRun h.data (k % v.cap * 256) bs })

/-- A candidate that stands for the head record of a queue. -/
def Cand.ofQueue (c : Cand) (p q : Nat) : Bool := decide (c.proc = p) && decide (c.src = .queue q)

/-- R314: what the launch unit finds at the cells and the body of a queue. -/
def State.qLook (s : State) (p : Nat) (v : Queue) : Look :=
  match s.lookup p v.cellH clSync with
  | .ok _ => s.lookup p v.bodyH clQbody
  | l => l

/-- The pages of a queue's cells and body that an access to its record k reaches. -/
def State.queueUnits (s : State) (p : Nat) (e : Queue) (k : Nat) : List (Nat × Nat) :=
  s.regionUnits p e.cellH clSync e.headOff ++ s.regionUnits p e.cellH clSync e.tailOff ++
    s.regionUnits p e.bodyH clQbody (k % e.cap * 256)

/-- R327, R329: the state in which the launch unit's access to a queue waits; none when it may be made. -/
def State.queueGate (s : State) (p q : Nat) (v : Queue) : Option State :=
  s.gate p (s.queueUnits p v (s.qHead p v)) (.queue p q)

/-- R327, R329: whether an access of the launch unit to a queue is held. -/
def State.qHeld (s : State) (p q : Nat) : Bool :=
  match s.queue p q with
  | some v => (s.queueGate p q v).isSome
  | none => false

/-- R328, R421: HEAD and TAIL of a queue read by an agent that acts for no kernel; whether one is in error beyond
correction. -/
def State.readCounts (s : State) (p : Nat) (v : Queue) : State × Bool :=
  let (s1, bad1) := s.unitRead p (hIndex v.cellH) v.headOff 8
  let (s2, bad2) := s1.unitRead p (hIndex v.cellH) v.tailOff 8
  (s2, bad1 || bad2)

/-- R294, R302: the launch unit reads the cells of a LAUNCH queue, dates the records that have become visible, and considers
the head record. -/
def State.readQueue (s : State) (p q : Nat) (v : Queue) : State :=
  match s.qLook p v with
  | .ok _ =>
    let (r2, bad) := s.readCounts p v
    if bad then r2
    else
      let n := min (s.qCount p v) v.cap
      let since := (v.since ++ List.replicate (n - v.since.length) s.stamp).take n
      let known := (s.die v.home).cands.any (fun c => c.ofQueue p q)
      let (s1, bad3) :=
        if n == 0 || known then (r2, true) else r2.unitRead p (hIndex v.bodyH) (s.qHead p v % v.cap * 256) 256
      let s2 : State := { s1.setQueue p q { v with since := since, deps := if bad3 then v.deps else [] } with stamp := s.stamp + 1 }
      if bad3 then s2
      else
        let cand : Cand :=
          { proc := p, src := .queue q, bytes := s.qRecord p v (s.qHead p v), deps := v.deps, since := since.headD 0 }
        s2.modDie v.home (fun d => { d with cands := d.cands ++ [cand] })
  | _ => s

/-- R294, R327: the launch unit of a resident LAUNCH queue looks at it, unless its access is held. -/
def State.noteQueue (s : State) (p q : Nat) : State :=
  match s.queue p q with
  | none => s
  | some v =>
    if v.work || v.draining || !v.resident then s
    else (s.queueGate p q v).getD ((s.readQueue p q v).leaveUnit (.queue p q))

/-- R295: the head record of a LAUNCH queue is done with: HEAD rises by one, and the next record is considered. -/
def State.popHead (s : State) (p q : Nat) : State :=
  match s.queue p q with
  | none => s
  | some v =>
    let s1 := match s.qLook p v with
      | .ok _ => (s.setQCell p v v.headOff (s.qHead p v + 1)).touch p (hIndex v.cellH) [v.headOff / 4096]
      | _ => s
    let s2 := s1.setQueue p q { v with since := v.since.drop 1, deps := [] }
    (s2.modDie v.home (fun d => { d with cands := d.cands.filter (fun c => !c.ofQueue p q) })).noteQueue p q

/-- R293: a queue whose host tail write, push or pop found it not resident. -/
def State.queueMiss (s : State) (p q : Nat) : State := s.notify (.queueMiss p q)

end Sys2Proof.Machine
end

