-- ==== Sys2Proof/Machine/Queues.lean ====
section
/-! DEFINITION. QPUSH, QPOP, LNCH, SEND and RECV (R306, R308, R310, R311) at issue and at their engines, the service of
queue misses (R293), and the start of D operations (R75). -/

set_option Elab.async false

namespace Sys2Proof.Machine

/-! ### Issue -/

/-- QPUSH and QPOP at issue (R306). -/
def queueOp (push : Bool) (c : DC) (f : QueueF) (s : State) : Res :=
  let q := (s.cur.rd f.q.toNat).toNat
  dOp c (!s.cur.vdst f.v.toNat) false
    (dCheck [trapIf s fcField (decide (2 ^ 12 ≤ q))]
      { xfer := false,
        kind := fun _ =>
          if push then .qpush q f.v.toNat f.d.toNat ((s.core s.foc.core).earlier s.foc.ctx) else .qpop q f.v.toNat f.d.toNat,
        smp := sampleOf s 0, toks := dcToks c, own := none, also := marksOnce true s, bound := storeBound s push }) s

/-- QPUSH (R306). -/
def opQpush (c : DC) (f : QueueF) (s : State) : Res := queueOp true c f s

/-- The meaning of QPUSH. -/
def execQpush (c : DC) (f : QueueF) (s : State) : Host.Outcome State Fault Refusal := commit (opQpush c f s) s

/-- QPOP (R306). -/
def opQpop (c : DC) (f : QueueF) (s : State) : Res := queueOp false c f s

/-- The meaning of QPOP. -/
def execQpop (c : DC) (f : QueueF) (s : State) : Host.Outcome State Fault Refusal := commit (opQpop c f s) s

/-- LNCH (R308). -/
def opLnch (c : DC) (f : LnchF) (s : State) : Res :=
  let src := s.cur.vsrc f.v.toNat
  dOp c (src = .bad) (s.cur.srcEmpty src)
    (.ok
      { xfer := false,
        kind := fun _ => .lnch f.v.toNat (s.keptVec src) f.d.toNat ((s.core s.foc.core).earlier s.foc.ctx),
        smp := sampleOf s 0, toks := dcToks c, own := none,
        also := fun t => marksOnce true s (popAll s.cur [f.v.toNat] t), bound := storeBound s true }) s

/-- The meaning of LNCH. -/
def execLnch (c : DC) (f : LnchF) (s : State) : Host.Outcome State Fault Refusal := commit (opLnch c f s) s

/-- R311: the peer and the channel that a register names. -/
def peerOf (w : Word) : Nat := w.toNat % 2 ^ 10
def chanOf (w : Word) : Nat := w.toNat / 2 ^ 16 % 16

/-- R311: the bytes of a message block. -/
def blockBytes (sh : BitVec 128) : Nat := shRows sh * shRowb sh

/-- R311: the checks of SEND and RECV at issue. Assumption log 48 (DEDUCED). -/
def linkChecks (s : State) (h : Nat) (b : ByteSide) (w : Word) : List (Option FaultRec) :=
  let sh := s.cur.shape h
  let rows := List.range (shRows sh)
  [trapIf s fcField (decide (shRows sh = 0) || decide (w &&& ~~~ 0xF03FF#64 ≠ 0)),
   trapIf s fcField (decide (262144 < blockBytes sh)),
   trapVal s fcMisaligned (if shRowb sh % 16 ≠ 0 then some (shRowb sh : Int) else none),
   trapVal s fcMisaligned (if b.addr % 16 ≠ 0 then some b.addr else none),
   trapVal s fcOverflow (rows.findSome? (fun r => b.over s.cur.vunits r (shRowb sh)))]

/-- SEND (R311). -/
def opSend (c : DC) (f : SendF) (s : State) : Res :=
  let w := s.cur.rd f.p.toNat
  let b : ByteSide :=
    { space := if f.v then 0 else 1, addr := s.cur.xval f.x.toNat, stride := shSstr (s.cur.shape f.h.toNat), peer := 0 }
  dOp c false false
    (dCheck (linkChecks s f.h.toNat b w)
      { xfer := false, kind := fun _ => .send f.v b.addr.toNat (peerOf w) (chanOf w), smp := sampleOf s f.h.toNat,
        toks := dcToks c, own := none, also := marksOnce true s }) s

/-- The meaning of SEND. -/
def execSend (c : DC) (f : SendF) (s : State) : Host.Outcome State Fault Refusal := commit (opSend c f s) s

/-- RECV (R311). -/
def opRecv (c : DC) (f : RecvF) (s : State) : Res :=
  let w := s.cur.rd f.p.toNat
  let b : ByteSide :=
    { space := if f.v then 0 else 1, addr := s.cur.xval f.x.toNat, stride := shDstr (s.cur.shape f.h.toNat), peer := 0 }
  dOp c false false
    (dCheck (linkChecks s f.h.toNat b w)
      { xfer := false,
        kind := fun _ => .recv f.v b.addr.toNat (peerOf w) (chanOf w) f.d.toNat (s.cur.rd f.t.toNat).toNat,
        smp := sampleOf s f.h.toNat, toks := dcToks c, own := none, also := marksOnce true s }) s

/-- The meaning of RECV. -/
def execRecv (c : DC) (f : RecvF) (s : State) : Host.Outcome State Fault Refusal := commit (opRecv c f s) s

/-! ### Pushing and popping (R306) -/

/-- The 256 bytes in lanes 0 to 63 of a vector. -/
def vecRecord (v : Vec) : List Byte := leBytes (v.toNat % 2 ^ 2048) 256

/-- R306: the status of a push or a pop lands, and the operation completes. -/
def queueDone (c i : Nat) (o : DOp) (d code k : Nat) (s : State) : State :=
  let w := BitVec.ofNat 64 (code + if code = 0 then k % 2 ^ 48 * 2 ^ 16 else 0)
  (s.settle c o.ctx (.sreg d w)).dDone c i

/-- R136, R421: the lanes 0 to 63 of a vector, as words that may be damaged. -/
def recordLanes (c phys : Nat) (d : Damage) : Bool :=
  match d with
  | .lane c' p i => decide (c' = c) && decide (p = phys) && decide (i < 64)
  | _ => false

/-- R306, R421: an error beyond correction in bytes that a push or a pop reads of a region of its queue. -/
def queueHurt (s : State) (p : Nat) (h : BitVec 32) (off n : Nat) : Option FaultRec :=
  (s.damaged.find? (cellWords p (hIndex h) off n)).map (wordFault h off)

/-- R328, R421: a push or a pop reads the two cells of its queue. -/
def State.readCells (s : State) (p : Nat) (e : Queue) : State :=
  (s.touch p (hIndex e.cellH) [e.headOff / 4096, e.tailOff / 4096]).correctHbm (fun d =>
    cellWords p (hIndex e.cellH) e.headOff 8 d || cellWords p (hIndex e.cellH) e.tailOff 8 d)

/-- R306: a push of a record at TAIL. -/
def State.pushRecord (s : State) (p q : Nat) (e : Queue) (k : Nat) (bs : List Byte) : State :=
  let off := k % e.cap * 256
  let s1 := (s.touch p (hIndex e.bodyH) [off / 4096]).heal (cellWords p (hIndex e.bodyH) off 256)
  ((s1.setQRecord p e k bs).setQCell p e e.tailOff (k + 1)).noteQueue p q

/-- R306, R328, R421: the record at HEAD is popped into the lanes 0 to 63 of a vector. -/
def State.popRecord (s : State) (c x p : Nat) (e : Queue) (k phys : Nat) : State :=
  let off := k % e.cap * 256
  let s1 := (s.touch p (hIndex e.bodyH) [off / 4096]).correctHbm (cellWords p (hIndex e.bodyH) off 256)
  let rec_ := BitVec.ofNat 4096 (leNat (s.qRecord p e k))
  (s1.settle c x (.vreg phys (lanesParts (BitVec.ofNat 128 (2 ^ 64 - 1))) rec_ 32)).setQCell p e e.headOff (k + 1)

/-- R306: a push or a pop on an active, resident queue of the right mode, the vector of a push read; `go` is the state in
which it has started. It reads the cells, tests them, and a pop then reads its record. -/
def queueAct (c i : Nat) (o : DOp) (push : Bool) (v d : Nat) (p q : Nat) (e : Queue) (go s : State) : State :=
  let k := if push then s.qTail p e else s.qHead p e
  let phys := (s.ctx c o.ctx).phys v
  let units := s.queueUnits p e k
  match s.gate p units (.op c o.id) with
  | some t => t
  | none =>
    match s.fate p e.cellH clSync e.headOff, s.fate p e.bodyH clQbody 0 with
    | .error r, _ => s.dFail c i r
    | _, .error r => s.dFail c i r
    | .ok none, _ => s
    | _, .ok none => s
    | .ok (some _), .ok (some _) =>
      match (queueHurt s p e.cellH e.headOff 8).or (queueHurt s p e.cellH e.tailOff 8) with
      | some r => (s.readCells p e).dFailCounted c i r
      | none =>
        let t := (go.goFar c i p units).readCells p e
        if (if push then decide (e.cap ≤ s.qCount p e) else decide (s.qCount p e = 0)) then queueDone c i o d 1 0 t
        else if push then queueDone c i o d 0 k (t.pushRecord p q e k (vecRecord ((s.seen.core c).vec phys)))
        else
          match queueHurt s p e.bodyH (k % e.cap * 256) 256 with
          | some r => ((s.readCells p e).touch p (hIndex e.bodyH) [k % e.cap * 256 / 4096]).dFailCounted c i r
          | none => queueDone c i o d 0 k (t.popRecord c o.ctx p e k phys)

/-- R306, R293, R296: a QPUSH or a QPOP whose release wait, if any, is over. A push reads its vector first. -/
def queueStep (c i : Nat) (o : DOp) (push : Bool) (q v d : Nat) (go s : State) : State :=
  let p := s.procOf (s.ctx c o.ctx)
  let lanes := fun (w : Damage) => push && recordLanes c ((s.ctx c o.ctx).phys v) w
  if s.damaged.any lanes then s.dFailCounted c i (faultRec fcMemory none)
  else
    let read := fun (t : State) => t.correct (dieOf c) erCeSram lanes
    match s.queue p q with
    | none => queueDone c i o d 4 0 (read s)
    | some e =>
      if e.draining then queueDone c i o d 2 0 (read s)
      else if !e.resident then
        if o.held then s
        else (s.modCore c (fun k => { k with dops := k.dops.modify i (fun o => { o with held := true }) })).queueMiss p q
      else if (if push then e.push else e.work) then queueAct c i o push v d p q e (read go) s
      else queueDone c i o d 3 0 (read s)

/-- R293: whether a QPUSH or a QPOP on a queue is in flight. -/
def State.queueWaited (s : State) (p q : Nat) : Bool :=
  s.cores.any (fun k => k.2.dops.any (fun o =>
    decide (s.procOf (k.2.ctx o.ctx) = p) &&
      (match o.kind with
       | .qpush n .. | .qpop n .. => decide (n = q)
       | _ => false)))

/-- R296: the number of a DRAINING queue becomes free once no launch from it and no push or pop on it is left. -/
def State.freeDrained (s : State) (p q : Nat) : State :=
  match s.queue p q with
  | none => s
  | some v =>
    let busy := s.queueWaited p q || s.launches.any (fun l => decide (l.2.proc = p) && decide (l.2.src = .queue q))
    if v.draining && !busy then
      (s.modProc p (fun r => { r with queues := Tab.erase r.queues q })).modDie v.home (fun d =>
        { d with resident := d.resident.filter (fun r => decide (r ≠ (p, q))) })
    else s

/-- R296: the draining queues of a process that are free give their numbers up. -/
def State.sweepQueues (s : State) (p : Nat) : State :=
  ((s.proc p).queues.filter (fun q => q.2.draining)).foldl (fun t q => t.freeDrained p q.1) s

/-- QUEUE_MISS_SERVICE (R293): the service firmware makes a queue resident; with all 64 places taken, it displaces the
first resident queue on which no operation waits. The launch unit dates the records of a queue anew when it is made resident
again. Assumption log 50 (DESIGN CHOICE). -/
def State.serveMiss (s : State) (p q : Nat) : State :=
  match s.queue p q with
  | none => s
  | some v =>
    if v.resident then s
    else
      let res := (s.die v.home).resident
      let add := fun (s : State) (keep : List (Nat × Nat)) =>
        ((s.setQueue p q { v with resident := true }).modDie v.home (fun d => { d with resident := keep ++ [(p, q)] })).noteQueue p q
      if res.length < 64 then add s res
      else
        match res.find? (fun r => !s.queueWaited r.1 r.2) with
        | none => s
        | some r =>
          let known := ((s.die v.home).cands.find? (fun x => x.ofQueue r.1 r.2)).map (fun x => x.deps)
          let s1 := match s.queue r.1 r.2 with
            | some w => s.setQueue r.1 r.2 { w with resident := false, since := [], deps := known.getD w.deps }
            | none => s
          let s2 := s1.modDie v.home (fun d => { d with cands := d.cands.filter (fun x => !x.ofQueue r.1 r.2) })
          add s2 (res.filter (fun x => decide (x ≠ r)))

/-! ### LNCH (R308) -/

/-- INTAKE_ACCEPTANCE (R308): the launch unit accepts or rejects the record of an LNCH; a full intake makes it wait, and so
does a completion block that is being moved. -/
def State.intake (s : State) (c i : Nat) : State :=
  match (s.core c).dops[i]? with
  | none => s
  | some o =>
    match o.kind with
    | .lnch v kept d after =>
      if !o.ready || decide (o.bound ≠ 0) || after.any ((s.core c).unseen 3) then s
      else
        let y := s.ctx c o.ctx
        let p := s.procOf y
        let lanes := fun (w : Damage) => kept.isNone && recordLanes c (y.phys v) w
        if s.damaged.any lanes then s.dFailCounted c i (faultRec fcMemory none)
        else
          let bs := vecRecord (kept.getD ((s.core c).vec (y.phys v)))
          let die := recDie bs
          let held := (s.die die).cands.countP (fun x => decide (x.src = .intake))
          let t := s.correct (dieOf c) erCeSram lanes
          if 64 ≤ held then s
          else if !recordOk s p bs then
            if s.doneHeld p bs (.op c o.id) then (s.gate p (s.doneUnits p bs) (.op c o.id)).getD s
            else ((t.settle c o.ctx (.sreg d (BitVec.ofNat 64 coRejected))).dropRecord p bs coRejected).dDone c i
          else
            let cand : Cand := { proc := p, src := .intake, bytes := bs, deps := [], since := s.stamp }
            let s1 := { t.modDie die (fun k => { k with cands := k.cands ++ [cand] }) with stamp := s.stamp + 1 }
            (s1.settle c o.ctx (.sreg d 0)).dDone c i
    | _ => s

/-! ### Links (R310, R311) -/

/-- A channel of a process replaced. -/
def State.modChan (s : State) (p peer n : Nat) (f : Chan → Chan) : State :=
  s.modProc p (fun v =>
    { v with chans := v.chans.map (fun c => if c.peer = peer ∧ c.chan = n then f c else c) })

/-- R310, R413: the flits of 256 bytes that a message occupies, at least one. Assumption log 75 (DEDUCED). -/
def flits (m : List Byte) : Nat := max 1 ((m.length + 255) / 256)

/-- R310: whether a message fits into the free space of a receive queue. -/
def Chan.fits (c : Chan) (m : List Byte) : Bool := decide ((c.rx.map flits).sum + flits m ≤ Config.recvBytes / 256)

/-- R310: an earlier SEND, or an earlier RECV, of the same context and channel to the same peer and channel. -/
def linkBlocked (k : Core) (i : Nat) (o : DOp) : Bool :=
  (k.dops.take i).any (fun q => decide (q.ctx = o.ctx) && q.chanB == o.chanB &&
    (match o.kind, q.kind with
     | .send _ _ p n, .send _ _ p' n' => decide (p = p') && decide (n = n')
     | .recv _ _ p n _ _, .recv _ _ p' n' _ _ => decide (p = p') && decide (n = n') && !q.started
     | _, _ => false))

/-- R311: the bytes of the rows of a block. -/
def blockRead (v : State) (c phys : Nat) (smp : Sample) (vrf : Bool) (addr : Nat) : List Byte :=
  let rowb := shRowb smp.shape
  let sd : Side := if vrf then .vrf addr else .spl addr false
  (List.range (shRows smp.shape)).flatMap (fun r => leBytes (sideBits v c phys sd (shSstr smp.shape) r rowb) rowb)

/-- R311: the bytes of a message written into the rows of a block; `n` bounds the rows. -/
def blockWrite (c phys : Nat) (smp : Sample) (vrf : Bool) (addr : Nat) (n r : Nat) (m : List Byte) (s : State) : State :=
  match n with
  | 0 => s
  | n + 1 =>
    if m = [] then s
    else
      let row := m.take (shRowb smp.shape)
      let a := ((addr : Int) + r * shDstr smp.shape).toNat
      let s1 := if vrf then
          (s.engineWrites c phys a row.length).modCore c (fun k => k.putVrf phys a (2 ^ (8 * row.length) - 1) (leNat row))
        else (s.healSpl (clusterOf c) false a row.length).modCluster (clusterOf c) (fun k => k.store a row)
      blockWrite c phys smp vrf addr n (r + 1) (m.drop (shRowb smp.shape)) s1

/-- The rows of a block, with the side on which they lie. -/
def blockRows (smp : Sample) (vrf : Bool) (addr : Nat) : Side × List SideRow :=
  let sd : Side := if vrf then .vrf addr else .spl addr false
  (sd, (List.range (shRows smp.shape)).map (fun r =>
    { fmt := .fp32, scl := false, addr := sd.rowAddr (shSstr smp.shape) r, elems := 0, bytes := shRowb smp.shape }))

/-- R421: a damaged word among the rows of a block. -/
def blockHurt (s : State) (c phys : Nat) (smp : Sample) (vrf : Bool) (addr : Nat) : Option Nat :=
  let (sd, rows) := blockRows smp vrf addr
  rows.findSome? (rowHurt s c phys sd)

/-- R421: the correctable errors that the read of a block meets are counted. -/
def State.blockCorrect (s : State) (c phys : Nat) (smp : Sample) (vrf : Bool) (addr : Nat) : State :=
  let (sd, rows) := blockRows smp vrf addr
  s.correct (dieOf c) erCeSram (fun d => rows.any (fun w => w.holds c phys sd d))

/-- SEND_QUEUE_ENTRY (R310, R311): the message of a SEND is given space in the receiving queue and leaves. The queue of
another device is that device's: the event is its grant. Assumption log 49 (DESIGN CHOICE). -/
def State.sendEntry (s : State) (c i : Nat) : State :=
  match (s.core c).dops[i]? with
  | none => s
  | some o =>
    match o.kind with
    | .send vrf addr peer chan =>
      if !o.ready || linkBlocked (s.core c) i o then s
      else
        let y := s.ctx c o.ctx
        let p := s.procOf y
        let phys := 64 * y.vbase
        match (s.proc p).chan peer chan with
        | none => s.dFail c i (faultRec fcInvalid none)
        | some ch =>
          match blockHurt s c phys o.smp vrf addr with
          | some a => s.dFailCounted c i { faultRec fcMemory none with offset := a }
          | none =>
            let m := blockRead s.seen c phys o.smp vrf addr
            let t := s.blockCorrect c phys o.smp vrf addr
            if peer = s.node then
              if ch.fits m then (t.modChan p peer chan (fun k => { k with rx := k.rx ++ [m] })).dDone c i else s
            else (t.modChan p peer chan (fun k => { k with tx := k.tx ++ [m] })).dDone c i
    | _ => s

/-- FLIT_ARRIVAL (R310): a message of a peer enters the receive queue, if it fits. -/
def State.arrival (s : State) (p peer chan : Nat) (m : List Byte) : State :=
  match (s.proc p).chan peer chan with
  | none => s
  | some ch =>
    if ch.fits m ∧ m.length ≤ 262144 then s.modChan p peer chan (fun k => { k with rx := k.rx ++ [m] }) else s

/-- R421: the words of the oldest message of a receive queue. -/
def linkWords (p peer chan n : Nat) (d : Damage) : Bool :=
  match d with
  | .link p' q k m _ => decide (p' = p) && decide (q = peer) && decide (k = chan) && decide (m = n)
  | _ => false

/-- RECV_GRANT (R310, R311): the first message of a receive queue goes to the RECV that reached the link engine first; one in
error beyond correction is consumed, and fails it. Assumption log 47 (DEDUCED). -/
def State.grant (s : State) (c i : Nat) : State :=
  match (s.core c).dops[i]? with
  | none => s
  | some o =>
    match o.kind with
    | .recv vrf addr peer chan d timeout =>
      let y := s.ctx c o.ctx
      let p := s.procOf y
      match (s.proc p).chan peer chan with
      | none => s
      | some ch =>
        match ch.rx with
        | [] => s
        | m :: rest =>
          if !o.ready || decide (ch.recvs.head? ≠ some (c, o.id)) || (decide (timeout ≠ 0) && decide (timeout < o.waited)) then s
          else
            let words := linkWords p peer chan ch.granted
            let s0 := (s.correctHbm words).modChan p peer chan (fun k =>
              { k with rx := rest, recvs := k.recvs.drop 1, granted := k.granted + 1 })
            let s1 := s0.heal words
            if s.damaged.any words then (s1.count (ch.loc.stack / 3) erUeHbm).dFail c i (faultRec fcMemory none)
            else
              let s2 := blockWrite c (64 * y.vbase) o.smp vrf addr (shRows o.smp.shape) 0 m s1
              (s2.settle c o.ctx (.sreg d (BitVec.ofNat 64 m.length))).dDone c i
    | _ => s

/-- LINK_RECEIVE_TIMEOUT (R311): a RECV to which no message was granted, whether or not it has reached the link engine, gives
up its place. -/
def State.recvTimeout (s : State) (c i : Nat) : State :=
  match (s.core c).dops[i]? with
  | none => s
  | some o =>
    match o.kind with
    | .recv _ _ peer chan _ timeout =>
      if o.performed || o.poison.isSome || !o.waits.isEmpty || timeout = 0 || decide (o.waited < timeout) then s
      else
        let p := s.procOf (s.ctx c o.ctx)
        (s.modChan p peer chan (fun k => { k with recvs := k.recvs.filter (fun r => decide (r ≠ (c, o.id))) })).dFail c i
          (faultRec fcTimeout none)
    | _ => s

/-! ### Start (R75, R314) -/

/-- The handle that an operation looks up at its start, with its class and the offset of its first access. -/
def State.target (s : State) (c : Nat) (o : DOp) : Option (BitVec 32 × Nat × Nat) :=
  let p := s.procOf (s.ctx c o.ctx)
  let ten := fun (ref : TRef) (row col : Int) (rows cols : Nat) =>
    some (ref.handle, clTensor, firstOff (s.handle p (hIndex ref.handle)) row col rows cols)
  let src := fun (sd : Side) =>
    match sd with
    | .ten ref row col =>
      ten ref row col (shRows o.smp.shape) (elemsIn (s.handle p (hIndex ref.handle)).sfmt (shRowb o.smp.shape))
    | _ => none
  match o.kind with
  | .copy sd _ => src sd
  | .strm sd _ _ => src sd
  | .fetch _ first _ d => ten { handle := wHandle d, ray := wRay d } (wRow d first) (wInt d 3) 1 (wElems d)
  | .sync _ h off .. => some (h, clSync, off)
  | _ => none

/-- The granules and the pages of device memory that an operation's accesses reach. -/
def State.opUnits (s : State) (c : Nat) (o : DOp) : List (Nat × Nat) :=
  let p := s.procOf (s.ctx c o.ctx)
  match o.kind with
  | .copy sd _ | .strm sd _ _ => s.sideUnits c o sd 0 (shRows o.smp.shape)
  | .fetch _ first count d =>
    (List.range count).flatMap (fun k => s.rectUnits p (wHandle d) (wRow d (first + k)) (wInt d 3) 1 (fun _ => wElems d))
  | .patch op _ => s.patchUnits c o op
  | .sync _ h off .. => s.regionUnits p h clSync off
  | .qpush q .. =>
    match s.queue p q with
    | some e => s.queueUnits p e (s.qTail p e)
    | none => []
  | .qpop q _ _ =>
    match s.queue p q with
    | some e => s.queueUnits p e (s.qHead p e)
    | none => []
  | _ => []

/-- R314, R317: an operation starts: its channel looks its handles up. -/
def State.begin (s : State) (c i : Nat) (o : DOp) : State :=
  let s1 := s.modCore c (fun k => { k with dops := k.dops.modify i (fun o => { o with started := true }) })
  (handlesOf (s.opUnits c o)).foldl (fun t i => t.cacheEntry c o.chanB (s.procOf (s.ctx c o.ctx)) i) s1

/-- R311: a RECV reaches the link engine. -/
def startRecv (c i : Nat) (o : DOp) (peer chan : Nat) (started : State) (s : State) : State :=
  let p := s.procOf (s.ctx c o.ctx)
  match (s.proc p).chan peer chan with
  | none => s.dFail c i (faultRec fcInvalid none)
  | some _ => started.modChan p peer chan (fun k => { k with recvs := k.recvs ++ [(c, o.id)] })

/-- D_OPERATION_START (R75): an operation whose producers have completed starts; a poison that it consumed completes it
instead, and its handle is looked up (R314). A push or a pop on its queue is done here. -/
def State.dStart (s : State) (c i : Nat) : State :=
  match (s.core c).dops[i]? with
  | none => s
  | some o =>
    if o.started || !o.waits.isEmpty then s
    else if o.poison.isSome then ((s.unopened c o).dFinish c i o.poison).sweepQueues (s.procOf (s.ctx c o.ctx))
    else
      let p := s.procOf (s.ctx c o.ctx)
      let go := s.begin c i o
      match o.kind with
      | .qpush q v d after =>
        if decide (o.bound ≠ 0) || after.any ((s.core c).unseen 3) then s
        else (queueStep c i o true q v d go s).sweepQueues p
      | .qpop q v d => (queueStep c i o false q v d go s).sweepQueues p
      | .recv _ _ peer chan _ _ => if linkBlocked (s.core c) i o then s else startRecv c i o peer chan go s
      | _ =>
        match s.target c o with
        | none => go
        | some (h, cls, off) =>
          match s.fate p h cls off with
          | .error r => s.dFail c i r
          | _ => go

/-- REMOTE_ACCESS_ACK (R405): the holding device has performed the accesses of an operation and acknowledged them.
Assumption log 73 (DEDUCED). -/
def State.remoteAck (s : State) (c i : Nat) : State :=
  match (s.core c).dops[i]? with
  | none => s
  | some o =>
    if o.performed then (s.dFinish c i none).sweepQueues (s.procOf (s.ctx c o.ctx)) else s

/-! ### The meanings of the events -/

/-- The meaning of D_OPERATION_START. -/
def execDOperationStart (core idx : Nat) (s : State) : Host.Outcome State Fault Refusal := .next (s.dStart core idx)

/-- The meaning of COPY_COMPLETION. -/
def execCopyCompletion (core idx : Nat) (s : State) : Host.Outcome State Fault Refusal := .next (s.copyComplete core idx)

/-- The meaning of STRM_VECTOR_ENTRY. -/
def execStrmVectorEntry (core idx : Nat) (s : State) : Host.Outcome State Fault Refusal := .next (s.strmEntry core idx)

/-- The meaning of RING_SHIFT_START. -/
def execRingShiftStart (core idx : Nat) (s : State) : Host.Outcome State Fault Refusal := .next (s.ringShift core idx)

/-- The meaning of WINDOW_ROW_FETCH. -/
def execWindowRowFetch (core idx : Nat) (s : State) : Host.Outcome State Fault Refusal := .next (s.windowFetch core idx)

/-- The meaning of SCATTER_UPDATE. -/
def execScatterUpdate (core idx : Nat) (s : State) : Host.Outcome State Fault Refusal := .next (s.scatter core idx)

/-- The meaning of TOKEN_JOIN_COMPLETION. -/
def execTokenJoinCompletion (core idx : Nat) (s : State) : Host.Outcome State Fault Refusal := .next (s.joinComplete core idx)

/-- The meaning of QUEUE_MISS_SERVICE. -/
def execQueueMissService (proc q : Nat) (s : State) : Host.Outcome State Fault Refusal := .next (s.serveMiss proc q)

/-- The meaning of INTAKE_ACCEPTANCE. -/
def execIntakeAcceptance (core idx : Nat) (s : State) : Host.Outcome State Fault Refusal := .next (s.intake core idx)

/-- The meaning of SEND_QUEUE_ENTRY. -/
def execSendQueueEntry (core idx : Nat) (s : State) : Host.Outcome State Fault Refusal := .next (s.sendEntry core idx)

/-- The meaning of FLIT_ARRIVAL. -/
def execFlitArrival (proc peer chan : Nat) (bytes : List Byte) (s : State) : Host.Outcome State Fault Refusal :=
  .next (s.arrival proc peer chan bytes)

/-- The meaning of RECV_GRANT. -/
def execRecvGrant (core idx : Nat) (s : State) : Host.Outcome State Fault Refusal := .next (s.grant core idx)

/-- The meaning of LINK_RECEIVE_TIMEOUT. -/
def execLinkReceiveTimeout (core idx : Nat) (s : State) : Host.Outcome State Fault Refusal := .next (s.recvTimeout core idx)

/-- The meaning of REMOTE_ACCESS_ACK. -/
def execRemoteAccessAck (core idx : Nat) (s : State) : Host.Outcome State Fault Refusal := .next (s.remoteAck core idx)

end Sys2Proof.Machine
end

