-- ==== Sys2Proof/Machine/Launch.lean ====
section
/-! DEFINITION. The launch units: what a record claims (R297, R299), starting a launch (R300), the choice among the
records (R302) with the marks of eviction (R206), dependences (R301), and the filling of code stores (R304). -/

set_option Elab.async false

namespace Sys2Proof.Machine

/-! ### What a record claims (R299, R300) -/

/-- R300: the context of index m of a launch as it starts; it has never run (R16), whatever ran under its number before.
Assumption log 100 (DEDUCED). -/
def startCtx (l : Nat) (bs : List Byte) (m : Nat) : Ctx :=
  { Ctx.reset with
    st := .ready, launch := l, pc := BitVec.ofNat 48 (recEntry bs),
    s := (List.range 8).map (fun i => (2 + i, BitVec.ofNat 64 (recNat bs (0xC0 + 8 * i) 8))),
    rb := BitVec.ofNat 24 (recRb bs), qb := BitVec.ofNat 24 (recQb bs),
    vbase := recVrfBase bs + m * recVrfUnits bs, vunits := recVrfUnits bs,
    tiles := BitVec.ofNat 16 ((2 ^ recTiles bs - 1) * 2 ^ (recTileBase bs + m * recTiles bs)),
    cov := recCov bs && decide (m = 0) }

/-- A context that a launch claims: its core, its number and its starting state. -/
structure Claim where
  core : Nat
  num : Nat
  ctx : Ctx
  deriving DecidableEq, Repr

/-- R299: the contexts that a record claims, by core and ascending number. -/
def recClaims (l : Nat) (bs : List Byte) : List Claim :=
  (recCores bs).flatMap (fun c =>
    (recCtxs bs).zipIdx.map (fun q => { core := c, num := q.1, ctx := startCtx l bs q.2 }))

/-- R299: whether a context and the resources of a claim overlap. -/
def Claim.clash (a : Claim) (n : Nat) (y : Ctx) : Bool :=
  decide (a.num = n) ||
    (decide (a.ctx.vbase < y.vbase + y.vunits) && decide (y.vbase < a.ctx.vbase + a.ctx.vunits)) ||
    decide (a.ctx.tiles &&& y.tiles ≠ 0) || (a.ctx.cov && y.cov)

/-- The contexts that are resident on a core, by number. -/
def Core.residents (k : Core) : List (Nat × Ctx) := k.ctxs.filter (fun q => decide (q.2.st ≠ .free))

/-- R122: a halted context, its run ended, with nothing in flight, nothing to land and no fault to take: it holds its
resources no longer. Assumption log 92 (DEDUCED). -/
def Core.released (k : Core) (n : Nat) (y : Ctx) : Bool :=
  decide (y.st = .halted) && y.untaken.isEmpty && decide (k.running ≠ some n) && k.ctxIdle n &&
    k.pend.all (fun p => decide (p.ctx ≠ n))

/-- The resident contexts that hold what a claim needs. -/
def State.holders (s : State) (a : Claim) : List (Nat × Ctx) :=
  let k := s.core a.core
  k.residents.filter (fun q => a.clash q.1 q.2 && !k.released q.1 q.2)

/-- R297, R299: the barrier slots of a record: a core of the unit, whether it is a die's, and the slot. -/
def recSlots (bs : List Byte) : List (Nat × Bool × Nat) :=
  (recClusters bs).flatMap (fun k => (bitsOn (recChord bs) 16).map (fun i => (8 * k, false, i))) ++
    (recDies bs).flatMap (fun d => (bitsOn (recDieUnits bs) 8).map (fun i => (32 * d, true, i)))

/-- R299, R333: whether the barrier slots and the partial estimators of a record are free. -/
def State.unitsFree (s : State) (bs : List Byte) : Bool :=
  (recSlots bs).all (fun q => decide ((s.barSlot q.1 q.2.1 q.2.2).owner = 0)) &&
    (decide (recKind bs ≠ 3) || (recClusters bs).all (fun k => decide ((s.cluster k).est.launch = 0)))

/-- The claim that a saved context makes. -/
def Saved.claim (v : Saved) : Claim := { core := v.core, num := v.num, ctx := v.ctx }

/-- R26: whether the channels of a core have places for the operations withdrawn with a saved context. -/
def State.placesFor (s : State) (v : Saved) : Bool :=
  [true, false].all (fun b =>
    decide ((s.core v.core).chanLoad b + v.ops.countP (fun o => o.chanB == b) ≤ Config.channelPlaces))

/-- R208: whether all that a saved context needs is free. -/
def State.mayResume (s : State) (v : Saved) : Bool := (s.holders v.claim).isEmpty && s.placesFor v

/-- R208, R302: whether an evicted kernel of a higher priority, which can resume, needs what a claim needs. Assumption log 53
(DEDUCED). -/
def State.precededBy (s : State) (pri : Nat) (a : Claim) : Bool :=
  s.launches.any (fun l => decide (l.2.st = .live) && decide (pri < recPri l.2.bytes) &&
    l.2.saved.any (fun v => decide (v.core = a.core) && a.clash v.num v.ctx && s.mayResume v))

/-- R208, R299: whether a record can start: what it needs is free, and no evicted kernel goes before it. -/
def State.canStart (s : State) (bs : List Byte) : Bool :=
  s.unitsFree bs && (recClaims 0 bs).all (fun a => (s.holders a).isEmpty && !s.precededBy (recPri bs) a)

/-! ### Starting (R300) -/

/-- The damaged words of a context and of its partition, its tiles and, if it has it, the cover store. -/
def Ctx.damage (y : Ctx) (c n : Nat) (d : Damage) : Bool :=
  match d with
  | .sreg c' x' _ | .pred c' x' _ | .mask c' x' _ => decide (c' = c) && decide (x' = n)
  | .lane c' p _ => decide (c' = c) && decide (64 * y.vbase ≤ p) && decide (p < 64 * (y.vbase + y.vunits))
  | .tile c' t _ _ => decide (c' = c) && y.hasTile t
  | .cov c' _ => decide (c' = c) && y.cov
  | _ => false

/-- The entries of a core's vector file that lie in a context's partition. -/
def Ctx.ownsVec (y : Ctx) (p : Nat) : Bool := decide (64 * y.vbase ≤ p) && decide (p < 64 * (y.vbase + y.vunits))

/-- R300: the partition, the tiles and the cover store of a context read as zero. -/
def Core.zeroFor (k : Core) (y : Ctx) : Core :=
  { k with
    vrf := k.vrf.filter (fun q => !y.ownsVec q.1)
    tiles := k.tiles.filter (fun q => !y.hasTile q.1)
    tvis := k.tvis.filter (fun q => !y.hasTile q.1)
    cov := if y.cov then [] else k.cov }

/-- R300: a claimed context takes its starting state. -/
def State.startClaim (s : State) (a : Claim) : State :=
  (s.heal (a.ctx.damage a.core a.num)).modCore a.core (fun k =>
    let k1 := k.zeroFor a.ctx
    { k1.dropLoop a.num with
      ctxs := Tab.put k1.ctxs a.num a.ctx, pend := k1.pend.filter (fun p => decide (p.ctx ≠ a.num)) })

/-- R299, R333: the barrier slots take their counts, and the partial estimators serve the launch. -/
def State.startUnits (s : State) (l : Nat) (bs : List Byte) : State :=
  let s1 := (recSlots bs).foldl (fun s q =>
    s.setBarSlot q.1 q.2.1 q.2.2
      { BarSlot.reset with owner := l, count := if q.2.1 then recDieCnt bs else recChordCnt bs }) s
  if recKind bs = 3 then
    (recClusters bs).foldl (fun s k => s.modCluster k (fun v => { v with est := { PartEst.reset with launch := l } })) s1
  else s1

/-- R247, R300, R319: the pinned rays of a record are counted, each once, or given up. -/
def State.pinRays (s : State) (p : Nat) (bs : List Byte) (f : Nat → Nat) : State :=
  (recPins bs).dedup.foldl (fun s q =>
    if (s.handle p (hIndex q.1)).gen ≠ hGen q.1 then s
    else
      s.modHandle p (hIndex q.1) (fun h =>
        let y := h.ray q.2
        { h with rays := Tab.put h.rays q.2 { y with pins := f y.pins } })) s

/-- R78: pages that a code store of 128 KiB holds. -/
def codePages : Nat := 128

/-- R304: the mapped pages of an image that a core's code store lacks, ascending, up to what it holds. -/
def State.unfilled (s : State) (c p : Nat) (h : BitVec 32) : List Nat :=
  match s.entry p h clCode with
  | some e => ((e.present.mergeSort (· ≤ ·)).filter (fun g => ((s.core c).page p h (1024 * g)).isNone)).take codePages
  | none => []

/-- R304, R208: a context is to run once the launch unit has filled the pages of its image that its core lacks. -/
def State.wantPages (s : State) (c x : Nat) : State :=
  let (p, h) := s.codeOf (s.ctx c x)
  s.modCtx c x (fun y => { y with fills := s.unfilled c p h, refetch := false })

/-- LAUNCH START (R300): a record becomes a launch, whose number is the next one; its contexts are ready, once the code
stores of their cores are filled (R304). -/
def State.startLaunch (s : State) (p die : Nat) (src : Source) (bs : List Byte) : State :=
  let l := s.stamp
  let s1 := (recClaims l bs).foldl State.startClaim s
  let s2 := (s1.startUnits l bs).pinRays p bs (· + 1)
  let v : Launch :=
    { proc := p, bytes := bs, src := src, die := die, st := .live, step := 0, est := DevEst.reset, batches := [],
      blocks := [], stops := [], relaunched := false, once := false, rollback := false, seq := l, saved := [], rings := [] }
  (recClaims l bs).foldl (fun t a => t.wantPages a.core a.num) { s2 with launches := Tab.put s2.launches l v, stamp := l + 1 }

/-! ### The choice (R302) and the marks (R206) -/

/-- R301: whether a record's dependences have been found satisfied. -/
def Cand.eligible (c : Cand) : Bool :=
  (List.range 4).all (fun i => decide (recDepc c.bytes i = 0) || c.deps.contains i)

/-- R302: whether the launch unit of die d dispatches a record that die h considers. -/
def dispatches (d h : Nat) (c : Cand) : Bool :=
  match recDies c.bytes with
  | [_] => decide (h = d)
  | _ => decide (d = 0)

/-- R295, R301, R302: the head records that a launch unit holds: of its queues, and of its intake. -/
def Die.heads (v : Die) : List Cand :=
  v.cands.filter (fun c => decide (c.src ≠ .intake)) ++ (v.cands.find? (fun c => decide (c.src = .intake))).toList

/-- R327: whether the launch unit's access to the queue that holds a record is held. -/
def State.candHeld (s : State) (c : Cand) : Bool :=
  match c.src with
  | .queue q => s.qHeld c.proc q
  | .intake => false

/-- R302: the records that the launch unit of a die considers, each with the die that holds it. -/
def State.considered (s : State) (d : Nat) : List (Nat × Cand) :=
  (List.range Config.dies).flatMap (fun h =>
    ((s.die h).heads.filter (fun c => dispatches d h c && !s.candHeld c)).map (fun c => (h, c)))

/-- R302: a record comes before another: higher priority, then longer visible. -/
def Cand.before (a b : Cand) : Bool :=
  decide (recPri b.bytes < recPri a.bytes) || (decide (recPri a.bytes = recPri b.bytes) && decide (a.since < b.since))

/-- R302: the first of the records, in the order of choice. -/
def bestCand (xs : List (Nat × Cand)) : Option (Nat × Cand) :=
  xs.foldl (fun acc x =>
    match acc with
    | none => some x
    | some b => if x.2.before b.2 then some x else some b) none

/-- R22, R302, R314: whether a launch of priority p may evict a context: its launch has a lower priority, and a save area
with a valid entry. -/
def State.evictable (s : State) (p : Nat) (y : Ctx) : Bool :=
  match s.launchOf y with
  | some l => decide (recPri l.bytes < p) && (s.entry l.proc (recSaveH l.bytes) clSave).isSome
  | none => false

/-- R302: a launch is evicted before another: lower priority first, then the latest started. -/
def Launch.yields (a b : Launch) : Bool :=
  decide (recPri a.bytes < recPri b.bytes) || (decide (recPri a.bytes = recPri b.bytes) && decide (b.seq < a.seq))

/-- R302: the launch, among the holders of what a record needs, that is evicted first. -/
def State.firstVictim (s : State) (claims : List Claim) : Option Nat :=
  ((claims.flatMap (fun a => (s.holders a).map (fun q => q.2.launch))).dedup.foldl (fun acc l =>
    match Tab.find s.launches l, acc with
    | none, _ => acc
    | some v, none => some (l, v)
    | some v, some b => if v.yields b.2 then some (l, v) else acc) (none : Option (Nat × Launch))).map Prod.fst

/-- R122, R206, R207: whether a context can be on its way out: a halted or a stopped one holds its resources until its
operations are complete. -/
def Ctx.leaves (y : Ctx) : Bool :=
  match y.st with
  | .ready | .faulted | .evicting => true
  | _ => false

/-- R22, R302: whether a record can start once the holders of what it needs, which it may all evict, are gone.
Assumption log 53 (DEDUCED). -/
def State.mayEvict (s : State) (bs : List Byte) : Bool :=
  s.unitsFree bs &&
    (recClaims 0 bs).all (fun a => (s.holders a).all (fun q => s.evictable (recPri bs) q.2 && q.2.leaves))

/-- R206, R302: of the holders of what a blocked record needs, those of the launch to be evicted first are marked, when the
record may evict every holder. -/
def State.markVictims (s : State) (bs : List Byte) : State :=
  let claims := recClaims 0 bs
  let first := s.firstVictim claims
  if s.mayEvict bs then
    claims.foldl (fun t a =>
      (s.holders a).foldl (fun t q =>
        if some q.2.launch = first then t.modCtx a.core q.1 (fun y => { y with marked := true }) else t) t) s
  else s

/-- A record leaves the queue or the intake that held it (R295). -/
def State.takeCand (s : State) (h : Nat) (c : Cand) : State :=
  match c.src with
  | .queue q => s.popHead c.proc q
  | .intake => s.modDie h (fun d => { d with cands := d.cands.erase c })

/-- R294: the launch unit of a die reads the TAIL cells of its resident queues. -/
def State.noteTails (s : State) (d : Nat) : State := (s.die d).resident.foldl (fun t q => t.noteQueue q.1 q.2) s

/-- A launch unit's access to the queue that holds a record. -/
def Cand.access (c : Cand) : HeldWhat :=
  match c.src with
  | .queue q => .queue c.proc q
  | .intake => .deps c.proc 0 .intake

/-- R298: whether a record at the head of a queue breaks the rules of a record. -/
def State.unfit (s : State) (c : Cand) : Bool := decide (c.src ≠ .intake) && !recordOk s c.proc c.bytes

/-- R327: the rejections whose completion blocks are held enter the replay queues. -/
def State.holdUnfit (s : State) (xs : List (Nat × Cand)) : State :=
  (xs.filter (fun x => s.unfit x.2)).foldl (fun t x =>
    (t.gate x.2.proc (t.doneUnits x.2.proc x.2.bytes) x.2.access).getD t) s

/-- R302: a record that breaks the rules of R298 is rejected; otherwise the blocked records mark their victims, and the
first record that can start is started. Assumption log 52 (DEDUCED). -/
def State.choose (s : State) (d : Nat) : State :=
  let xs := s.considered d
  match xs.find? (fun x => s.unfit x.2 && !s.doneHeld x.2.proc x.2.bytes x.2.access) with
  | some (h, c) => ((s.dropRecord c.proc c.bytes coRejected).takeCand h c).leaveUnit c.access
  | none =>
    let s := s.holdUnfit xs
    let ready := xs.filter (fun x => x.2.eligible && (decide (x.2.src = .intake) || recordOk s x.2.proc x.2.bytes))
    let s1 := (ready.filter (fun x => !s.canStart x.2.bytes)).foldl (fun t x => t.markVictims x.2.bytes) s
    match bestCand (ready.filter (fun x => s.canStart x.2.bytes)) with
    | none => s1
    | some (h, c) =>
      let die := match recDies c.bytes with
        | [_] => h
        | _ => 0
      (s1.startLaunch c.proc die c.src c.bytes).takeCand h c

/-- LAUNCH_DISPATCH (R302): from step 7 of bring-up on (R419), a launch unit looks at its queues and makes its choice. -/
def State.dispatch (s : State) (d : Nat) : State :=
  if s.step < 7 ∨ s.tripped then s else (s.noteTails d).choose d

/-! ### Dependences (R301) -/

/-- R297, R301: whether a dependence holds of the cell's value. -/
def depMet (bs : List Byte) (i v : Nat) : Bool :=
  match recDepc bs i with
  | 1 => decide (recDepVal bs i ≤ v)
  | 2 => decide (v = recDepVal bs i)
  | _ => false

/-- R301: the dependences of a record that hold now and were not found satisfied before. -/
def State.newDeps (s : State) (c : Cand) : List Nat :=
  (List.range 4).filter (fun i =>
    !c.deps.contains i &&
      (match s.lookup c.proc (recDepH c.bytes i) clSync with
       | .ok h =>
         !s.cellHurt c.proc (hIndex (recDepH c.bytes i)) (recDepOff c.bytes i) &&
           depMet c.bytes i (Memory.readNat h.data (recDepOff c.bytes i) 8)
       | _ => false))

/-- R328, R421: the reads of the cells of a record's dependences that are not yet satisfied. -/
def State.depReads (s : State) (c : Cand) : State :=
  (List.range 4).foldl (fun t i =>
    match recDepc c.bytes i, t.lookup c.proc (recDepH c.bytes i) clSync with
    | 0, _ => t
    | _, .ok _ =>
      if c.deps.contains i then t else (t.unitRead c.proc (hIndex (recDepH c.bytes i)) (recDepOff c.bytes i) 8).1
    | _, _ => t) s

/-- R301: the pages of the cells of a record's dependences that are not yet satisfied. -/
def State.depUnits (s : State) (c : Cand) : List (Nat × Nat) :=
  (List.range 4).flatMap (fun i =>
    if recDepc c.bytes i = 0 ∨ c.deps.contains i then []
    else s.regionUnits c.proc (recDepH c.bytes i) clSync (recDepOff c.bytes i))

/-- DEPENDENCE_TEST (R301): the launch unit tests the dependences of one head record, unless its reads are held (R327); one
found satisfied is not tested again. Assumption log 74 (DEDUCED). -/
def State.testDeps (s : State) (d slot : Nat) : State :=
  match (s.die d).cands[slot]? with
  | none => s
  | some c =>
    let w : HeldWhat := .deps c.proc d c.src
    if c.src = .intake ∧ ((s.die d).cands.take slot).any (fun b => decide (b.src = .intake)) then s
    else
      (s.gate c.proc (s.depUnits c) w).getD
        (((s.depReads c).modDie d (fun v => { v with cands := v.cands.set slot { c with deps := c.deps ++ s.newDeps c } })).leaveUnit w)

/-! ### Code stores (R304) -/

/-- R304: a mapped page of an image. -/
def State.imagePage (s : State) (p : Nat) (h : BitVec 32) (page : Nat) : Option Memory :=
  match s.lookup p h clCode with
  | .ok e =>
    if e.present.contains page then
      some ((e.data.filter (fun q => decide (q.1 / 1024 = page))).map (fun q => (q.1 % 1024, q.2)))
    else none
  | _ => none

/-- R304: whether a resident context of a core uses a code page. -/
def State.pageUsed (s : State) (c : Nat) (g : CodePage) : Bool :=
  (s.core c).residents.any (fun q => decide (s.codeOf q.2 = (g.proc, g.handle)))

/-- The pages of a code store with room for one more; none when every page is used. -/
def State.roomFor (s : State) (c : Nat) : Option (List CodePage) :=
  let ps := (s.core c).pages
  if ps.length < codePages then some ps
  else (ps.find? (fun g => !s.pageUsed c g)).map (fun g => ps.erase g)

/-- R304, R421: a mapped page of an image read by the launch unit: the state after its accesses, and its bytes unless they are
in error beyond correction. -/
def State.readPage (s : State) (p : Nat) (h : BitVec 32) (page : Nat) : State × Option Memory :=
  match s.imagePage p h page with
  | none => (s, none)
  | some m =>
    let (t, bad) := s.unitRead p (hIndex h) (1024 * page) 1024
    (t, if bad then none else some m)

/-- R398: the pages of a code store less one, other than those of an image in a list, the first. Assumption log 99 (DESIGN
CHOICE). -/
def State.roomBeside (s : State) (c p : Nat) (h : BitVec 32) (gs : List Nat) : List CodePage :=
  let ps := (s.core c).pages
  match ps.find? (fun g => !(decide (g.proc = p) && decide (g.handle = h) && gs.contains g.page)) with
  | some g => ps.erase g
  | none => ps

/-- The code pages of the bundle at an address, past fill halfwords. -/
def State.pagesAt (s : State) (c x pc : Nat) : List Nat :=
  let last := afterBundle (s.imageByte c x) (skipFill (s.imageByte c x) fetchFuel pc) - 1
  (List.range (last / 1024 + 1 - pc / 1024)).map (· + pc / 1024)

/-- R304, R398: the pages of the code store that stay when a page that a context awaits is filled; none when it does not
fit. -/
def State.kept (s : State) (c x p : Nat) (h : BitVec 32) : Option (List CodePage) :=
  let y := s.ctx c x
  (s.roomFor c).or (if y.refetch then some (s.roomBeside c p h (s.pagesAt c x y.pc.toNat)) else none)

/-- R304: a page filled into a core's code store if it fits and can be read. -/
def State.putPage (s : State) (c x p : Nat) (h : BitVec 32) (page : Nat) : State :=
  match s.kept c x p h with
  | none => s
  | some ps =>
    if ((s.core c).page p h (1024 * page)).isSome then s
    else
      match s.readPage p h page with
      | (t, some m) =>
        (t.heal (fun d => decide (d = .code c p h page))).modCore c (fun k =>
          { k with pages := ps ++ [{ proc := p, handle := h, page := page, data := m }] })
      | (t, none) => t

/-- CODE_PAGE_FILL (R304): of the pages that a context still awaits, one is filled into its core's code store; an image that
is being moved makes it wait (R327). -/
def State.fillPage (s : State) (c x page : Nat) : State :=
  let y := s.ctx c x
  let (p, h) := s.codeOf y
  if !y.fills.contains page then s
  else
    (s.gate p (s.regionUnits p h clCode (1024 * page)) (.fill c x page)).getD
      (((s.putPage c x p h page).modCtx c x (fun z => { z with fills := z.fills.erase page })).leaveUnit (.fill c x page))

/-! ### The meanings of the events -/

/-- The meaning of LAUNCH_DISPATCH. -/
def execLaunchDispatch (die : Nat) (s : State) : Host.Outcome State Fault Refusal := .next (s.dispatch die)

/-- The meaning of DEPENDENCE_TEST. -/
def execDependenceTest (die slot : Nat) (s : State) : Host.Outcome State Fault Refusal := .next (s.testDeps die slot)

/-- The meaning of CODE_PAGE_FILL. -/
def execCodePageFill (core ctx page : Nat) (s : State) : Host.Outcome State Fault Refusal := .next (s.fillPage core ctx page)

end Sys2Proof.Machine
end

