-- ==== Sys2Proof/Machine/Evict.lean ====
section
/-! DEFINITION. Eviction and resumption of contexts (R203, R206–R208, R312), operations that wait on another party
(R207), and the landing of steps (R309). -/

set_option Elab.async false

namespace Sys2Proof.Machine

/-! ### Landings of NXT (R309) -/

/-- R309: one answer written into its bank. -/
def State.landStep (s : State) (c x : Nat) (p : NxtPend) : State :=
  let r := if p.bankB then 60 else 56
  [(r, p.row), (r + 1, p.col), (r + 2, p.item), (r + 3, p.flags)].foldl
    (fun t q => t.settle c x (.sreg q.1 q.2)) s

/-- R309: the answers whose cycles have passed land, oldest first. -/
def State.landSteps (s : State) (c x : Nat) : State :=
  let due := (s.ctx c x).nxt.filter (fun p => decide (p.left = 0))
  if due = [] then s
  else
    due.foldl (fun t p => t.landStep c x p)
      (s.modCtx c x (fun y => { y with nxt := y.nxt.filter (fun p => decide (p.left ≠ 0)) }))

/-! ### Operations that wait on another party (R207) -/

/-- R207: whether an operation waits on an agent outside the context. -/
def State.outside (s : State) (c : Nat) (o : DOp) : Bool :=
  let y := s.ctx c o.ctx
  let p := s.procOf y
  o.ready &&
    (match o.kind with
     | .ring _ _ _ _ shifted => !shifted
     | .send vrf addr peer chan =>
       (match (s.proc p).chan peer chan with
        | some ch =>
          decide (peer ≠ s.node) || !ch.fits (blockRead s c (64 * y.vbase) o.smp vrf addr)
        | none => false)
     | .recv _ _ peer chan _ _ =>
       (match (s.proc p).chan peer chan with
        | some ch => ch.rx.isEmpty || decide (ch.recvs.head? ≠ some (c, o.id))
        | none => false)
     | .lnch v kept _ _ =>
       let bs := vecRecord (kept.getD ((s.core c).vec (y.phys v)))
       decide (64 ≤ (s.die (recDie bs)).cands.countP (fun x => decide (x.src = .intake)))
     | .strm _ flue _ => !y.room flue
     | _ => false)

/-- The operations that a release of an operation's own awaits. -/
def DOp.after (o : DOp) : List Nat :=
  match o.kind with
  | .release _ a | .sync _ _ _ _ _ _ _ _ _ _ a | .qpush _ _ _ a | .lnch _ _ _ a => a
  | .patch (.seal _ _ a) _ => a
  | _ => []

/-- Whether an operation cannot go on before an earlier one of its context has. -/
def DOp.behind (o q : DOp) : Bool :=
  decide (q.ctx = o.ctx) && decide (q.id < o.id) &&
    (match o.kind, q.kind with
     | .send _ _ p n, .send _ _ p' n' => q.chanB == o.chanB && decide (p = p') && decide (n = n')
     | .recv _ _ p n _ _, .recv _ _ p' n' _ _ => q.chanB == o.chanB && decide (p = p') && decide (n = n') && !q.started
     | .patch _ _, .patch _ _ => q.chanB == o.chanB
     | .strm _ f _, .strm _ f' _ => q.chanB == o.chanB && decide (f = f')
     | .fetch w _ _ _, .fetch w' _ _ _ => decide (w = w')
     | _, _ => false)

/-- Whether an operation depends on one of a set of operations. -/
def DOp.heldBy (o : DOp) (ops : List DOp) (ids : List Nat) : Bool :=
  (o.waits ++ o.after).any (fun i => ids.contains i) || ops.any (fun q => ids.contains q.id && o.behind q)

/-- The operations of a context that wait on another party, directly or through an operation that does; operations
stand in issue order, so one pass finds them. -/
def State.waitIds (s : State) (c x : Nat) : List Nat :=
  let ops := (s.core c).dops.filter (fun o => decide (o.ctx = x))
  ops.foldl (fun ids o => if s.outside c o || o.heldBy ops ids then ids ++ [o.id] else ids) []

/-- Whether every operation in flight of a context waits on another party, its results have landed within their bounds
and its matrix operations are complete (R206 steps 3 and 4). -/
def State.settled (s : State) (c x : Nat) : Bool :=
  let k := s.core c
  let ids := s.waitIds c x
  k.pend.all (fun p => decide (p.ctx ≠ x)) && decide (k.storeLeft x = 0) && k.mxs.all (fun o => decide (o.ctx ≠ x)) &&
    k.dops.all (fun o => decide (o.ctx ≠ x) || ids.contains o.id)

/-- R312: the place of a RECV at the link engine is given up. -/
def State.leaveLink (s : State) (c : Nat) (o : DOp) : State :=
  match o.kind with
  | .recv _ _ peer chan _ _ =>
    s.modChan (s.procOf (s.ctx c o.ctx)) peer chan (fun k => { k with recvs := k.recvs.filter (fun r => decide (r ≠ (c, o.id))) })
  | _ => s

/-- R207: operations leave their engines, their channels and the replay queues: they move nothing further. -/
def State.withdraw (s : State) (c x : Nat) (ids : List Nat) : State :=
  let gone := fun (o : DOp) => decide (o.ctx = x) && ids.contains o.id
  (((s.core c).dops.filter gone).foldl (fun t o => (t.leaveLink c o).leaveOp c o.id) s).modCore c (fun k =>
    { k with dops := k.dops.filter (fun o => !gone o) })

/-- R207, R245, R296: operations are cancelled for good: the name of an OPEN among them is given back, and a draining queue
awaits them no longer. -/
def State.cancel (s : State) (c x : Nat) (ids : List Nat) : State :=
  let gone := (s.core c).dops.filter (fun o => decide (o.ctx = x) && ids.contains o.id)
  ((gone.foldl (fun t o => t.unopened c o) s).withdraw c x ids).sweepQueues (s.procOf (s.ctx c x))

/-! ### Saving (R203, R206) -/

/-- R194, R421: the words that a save reads blank when they are damaged; their errors are met. -/
def State.meetSave (s : State) (c x : Nat) : State :=
  let y := s.ctx c x
  let mine := s.damaged.filter (y.damage c x)
  let s1 := ((mine.foldl State.blank (s.correct (dieOf c) erCeSram (y.damage c x))).countErrors (dieOf c) mine).heal (y.damage c x)
  if mine.isEmpty then s1 else s1.miss c x { faultRec fcMemory none with line := y.pc.toNat }

/-- R203: everything that an eviction saves of a context, with the operations withdrawn. -/
def State.saveOf (s : State) (c x : Nat) : Saved :=
  let k := s.core c
  let y := k.ctx x
  { core := c, num := x, ctx := y, vrf := k.vrf.filter (fun q => y.ownsVec q.1),
    tiles := k.tiles.filter (fun q => y.hasTile q.1), tvis := k.tvis.filter (fun q => y.hasTile q.1),
    cov := if y.cov then k.cov else [], ops := k.dops.filter (fun o => decide (o.ctx = x)) }

/-- R206 step 5: a context is written to its save area, and leaves its core. -/
def State.putSaved (s : State) (c x : Nat) : State :=
  let s1 := s.meetSave c x
  let v := s1.saveOf c x
  let s2 := s1.withdraw c x (v.ops.map (·.id))
  (s2.modLaunch (s.ctx c x).launch (fun l => { l with saved := l.saved ++ [v] })).modCore c (fun k =>
    { k with ctxs := Tab.erase k.ctxs x })

/-- R314, R326: a save whose area is gone is not made: the context stays, and meets the fault of the area's handle.
Assumption log 54 (DESIGN CHOICE). -/
def State.unsaved (s : State) (c x code : Nat) (area : BitVec 32) : State :=
  (s.modCtx c x (fun y => { y with marked := false, st := if y.st = .evicting then .ready else y.st })).miss c x
    { handleFault code area 0 with line := (s.ctx c x).pc.toNat }

/-- The save area of a launch: its entry, and the units that a save or a restore reaches. -/
def State.saveLook (s : State) (v : Launch) : Look := s.lookup v.proc (recSaveH v.bytes) clSave

/-- R421: the words of a launch's save area. -/
def State.areaWords (s : State) (v : Launch) (d : Damage) : Bool :=
  let i := hIndex (recSaveH v.bytes)
  cellWords v.proc i 0 (s.handle v.proc i).len d

/-- R327: the state in which a save or a restore of a context waits for its area; none when the area may be reached. -/
def State.saveGate (s : State) (v : Launch) (c x : Nat) : Option State :=
  s.gate v.proc (s.regionUnits v.proc (recSaveH v.bytes) clSave 0) (.save c x)

/-- R328: a save, or a restore, has reached the whole area of a launch. -/
def State.reachArea (s : State) (v : Launch) (c x : Nat) : State :=
  let i := hIndex (recSaveH v.bytes)
  (s.touch v.proc i (linesAt 0 (s.handle v.proc i).len)).leaveUnit (.save c x)

/-- EVICTION_SAVE (R206 steps 3–6): a marked context that is being evicted, or that has faulted, is saved once its
results have landed and its operations have completed or wait on another party; its resources are free. -/
def State.saveCtx (s : State) (c x : Nat) : State :=
  let y := s.ctx c x
  let out := match y.st with | .evicting | .faulted => true | _ => false
  match s.launchOf y with
  | none => s
  | some v =>
    if !y.marked || !out || decide ((s.core c).running = some x) || !s.settled c x then s
    else
      (s.saveGate v c x).getD
        (match s.saveLook v with
         | .bad code => s.unsaved c x code (recSaveH v.bytes)
         | _ => ((s.putSaved c x).heal (s.areaWords v)).reachArea v c x)

/-! ### Resuming (R208) -/

/-- The launches that have saved a context of a core and number. -/
def State.waiting (s : State) (c x : Nat) : List (Nat × Launch) :=
  s.launches.filter (fun q => decide (q.2.st = .live) && q.2.saved.any (fun v => decide (v.core = c) && decide (v.num = x)))

/-- The launch of highest priority among them, and of these the first started. -/
def firstWaiting (xs : List (Nat × Launch)) : Option (Nat × Launch) :=
  xs.foldl (fun acc x =>
    match acc with
    | none => some x
    | some b => if recPri b.2.bytes < recPri x.2.bytes then some x else some b) none

/-- R208, R302: whether an eligible record of a higher priority, which can start once its holders are evicted, needs what a
claim needs, or an evicted kernel of a higher priority, which can resume. -/
def State.outranked (s : State) (pri : Nat) (a : Claim) : Bool :=
  s.precededBy pri a || s.dies.any (fun d => d.2.cands.any (fun q => q.eligible && decide (pri < recPri q.bytes) && s.mayEvict q.bytes &&
    (recClaims 0 q.bytes).any (fun b => decide (b.core = a.core) && b.clash a.num a.ctx)))

/-- R207: a withdrawn operation as it is issued again. -/
def DOp.again (o : DOp) : DOp :=
  { o with started := false, held := false, remote := false, performed := false, waited := 0, line := none }

/-- R208: a saved context takes its place again. -/
def State.restore (s : State) (v : Saved) : State :=
  let y := v.ctx
  let back : Ctx :=
    { y with
      st := if y.st = .faulted then .faulted else .ready
      marked := false
      quietCount := 0
      runCount := 0
      nxt := y.nxt.map (fun p => { p with left := 0 }) }
  let s1 := (s.heal (y.damage v.core v.num)).modCore v.core (fun k =>
    let k1 := (k.zeroFor y).dropLoop v.num
    { k1 with
      ctxs := Tab.put k1.ctxs v.num back
      vrf := v.vrf.foldl (fun t q => Tab.put t q.1 q.2) k1.vrf
      tiles := v.tiles.foldl (fun t q => Tab.put t q.1 q.2) k1.tiles
      tvis := v.tvis.foldl (fun t q => Tab.put t q.1 q.2) k1.tvis
      cov := if y.cov then v.cov else k1.cov
      dops := k1.dops ++ v.ops.map DOp.again })
  (s1.wantPages v.core v.num).landSteps v.core v.num

/-- R209, R314, R326, R421: an evicted context whose save area is gone, or in error beyond correction, cannot be restored: it stops with the fault of the area's
handle, for the firmware to end its launch. Assumption log 54 (DESIGN CHOICE). -/
def State.lost (s : State) (l : Nat) (v : Saved) (code : Nat) (area : BitVec 32) : State :=
  if v.ctx.st = .faulted then s
  else
    let r := { handleFault code area 0 with line := v.ctx.pc.toNat }
    let w := frCode r true false (!v.ctx.untaken.isEmpty) 0
    let y := { v.ctx with st := .faulted, fr := frTable r w v.ctx.pc.toNat }
    (s.modLaunch l (fun q => { q with saved := q.saved.map (fun u => if u = v then { u with ctx := y } else u) })).notify
      (.fault v.core v.num w)

/-- EVICTION_RESUME (R208): an evicted context whose resources are all free is restored, under its own priority, once the
channels have places for the operations withdrawn with it (R26). -/
def State.resumeSaved (s : State) (c x : Nat) : State :=
  match firstWaiting (s.waiting c x) with
  | none => s
  | some (l, w) =>
    match w.saved.find? (fun v => decide (v.core = c) && decide (v.num = x)) with
    | none => s
    | some v =>
      if s.mayResume v && !s.outranked (recPri w.bytes) v.claim then
        (s.saveGate w c x).getD
          (match s.saveLook w, s.readWords (s.areaWords w) with
           | .bad code, _ => s.lost l v code (recSaveH w.bytes)
           | _, (t, true) => if v.ctx.st = .faulted then s else t.lost l v fcMemory (recSaveH w.bytes)
           | _, (t, false) => ((t.modLaunch l (fun q => { q with saved := q.saved.erase v })).restore v).reachArea w c x)
      else s

/-! ### Waits after HALT (R207) -/

/-- R207: the cycles after which the firmware is told. -/
def haltLimit : Nat := 2 ^ 24

/-- The contexts that a launch holds: core, number and context. -/
def State.held (s : State) (l : Nat) (bs : List Byte) : List (Nat × Nat × Ctx) :=
  (recClaims l bs).filterMap (fun a =>
    let y := s.ctx a.core a.num
    if y.launch = l ∧ y.st ≠ .free then some (a.core, a.num, y) else none)

/-- HALT_WAIT_EVENT (R207): a halted context has waited for 2^24 cycles: the firmware is told once. -/
def State.haltWaited (s : State) (l : Nat) : State :=
  match Tab.find s.launches l with
  | none => s
  | some v =>
    let due := (s.held l v.bytes).filter (fun q => decide (q.2.2.haltWait = haltLimit))
    if due = [] then s
    else
      (due.foldl (fun t q => t.modCtx q.1 q.2.1 (fun y => { y with haltWait := haltLimit + 1 })) s).notify (.haltWait l)

/-! ### The meanings of the events -/

/-- The meaning of EVICTION_SAVE. -/
def execEvictionSave (core ctx : Nat) (s : State) : Host.Outcome State Fault Refusal := .next (s.saveCtx core ctx)

/-- The meaning of EVICTION_RESUME. -/
def execEvictionResume (core ctx : Nat) (s : State) : Host.Outcome State Fault Refusal := .next (s.resumeSaved core ctx)

/-- The meaning of HALT_WAIT_EVENT. -/
def execHaltWaitEvent (launch : Nat) (s : State) : Host.Outcome State Fault Refusal := .next (s.haltWaited launch)

/-- The meaning of NXT_LANDING. -/
def execNxtLanding (core ctx : Nat) (s : State) : Host.Outcome State Fault Refusal := .next (s.landSteps core ctx)

end Sys2Proof.Machine
end

