-- ==== Sys2Proof/Machine/Estimate.lean ====
section
/-! DEFINITION. The estimating launch (R335–R340): partial estimators, batches, the device estimator and its stop. -/

set_option Elab.async false

namespace Sys2Proof.Machine

/-! ### Arithmetic: every step rounded by RNE64 -/

def addD (a b : Word) : Word := BitVec.ofNat 64 (fAdd fp64 .rne a.toNat b.toNat)
def subD (a b : Word) : Word := BitVec.ofNat 64 (fSub fp64 .rne a.toNat b.toNat)
def mulD (a b : Word) : Word := BitVec.ofNat 64 (fMul fp64 .rne a.toNat b.toNat)
def divD (a b : Word) : Word := BitVec.ofNat 64 (fDiv fp64 .rne a.toNat b.toNat)
def sqrtD (a : Word) : Word := BitVec.ofNat 64 (fSqrt fp64 .rne a.toNat)

/-- An exact count as FP64, rounded once. -/
def natD (n : Nat) : Word := BitVec.ofNat 64 (rne64 (.ofInt n))

/-- RNE64 of the exact quotient of two counts. -/
def quotD (a b : Nat) : Word := BitVec.ofNat 64 (rne64 (Fv.div (.ofInt a) (.ofInt b)))

/-- RNE64 of a value over an exact count. -/
def overD (a : Word) (n : Nat) : Word := BitVec.ofNat 64 (rne64 (Fv.div (decodeFf fp64 a.toNat) (.ofInt n)))

/-- Counts of samples saturate (R340). -/
def satLate (n : Nat) : Nat := min n (2 ^ 32 - 1)
def satNonfin (n : Nat) : Nat := min n (2 ^ 24 - 1)

def DevEst.addLate (e : DevEst) (n : Nat) : DevEst := { e with late := satLate (e.late + n) }

/-! ### Partial estimators (R336) -/

/-- R336: a finite sample. -/
def PartEst.add (e : PartEst) (x : Word) : PartEst :=
  let n := e.n + 1
  let d := subD x e.mean
  let mean := addD e.mean (divD d (natD n))
  { e with n := n, mean := mean, m2 := addD e.m2 (mulD d (subD x mean)) }

/-- A partial estimator without its samples (R336, R339). -/
def PartEst.clear (e : PartEst) : PartEst := { e with n := 0, mean := 0, m2 := 0 }

/-- PARTIAL_ESTIMATOR_SAMPLE (R336): the next sample takes its place; the 64th sends the batch. -/
def State.takeSample (s : State) (k : Nat) : State :=
  let e := (s.cluster k).est
  match e.samples with
  | [] => s
  | x :: rest =>
    let put := fun (v : PartEst) (s : State) => s.modCluster k (fun q => { q with est := { v with samples := rest } })
    let v := decodeFf fp64 x.toNat
    if e.stopped then put e (s.modLaunch e.launch (fun l => { l with est := l.est.addLate 1 }))
    else if v.isNan || v.isInf then
      put e (s.modLaunch e.launch (fun l => { l with est := { l.est with nonfin := satNonfin (l.est.nonfin + 1) } }))
    else
      let e1 := e.add x
      if e1.n = 64 then
        put e1.clear (s.modLaunch e.launch (fun l => { l with batches := l.batches ++ [(64, e1.mean, e1.m2)] }))
      else put e1 s

/-! ### The device estimator (R337, R338) -/

/-- R337: Chan's rule. Assumption log 56 (DEDUCED). -/
def DevEst.merge (e : DevEst) (nB : Nat) (meanB m2B : Word) : DevEst :=
  if e.n = 0 then { e with n := nB, mean := meanB, m2 := m2B }
  else
    let n := e.n + nB
    let d := subD meanB e.mean
    { e with
      n := n
      mean := addD e.mean (mulD d (quotD nB n))
      m2 := addD (addD e.m2 m2B) (mulD (mulD d d) (overD (natD (e.n * nB)) n)) }

/-- R340: whether every step of a launch has been answered. -/
def Launch.allAnswered (l : Launch) : Bool :=
  decide (recSteps l.bytes ≤ l.step) && l.blocks.all (fun b => decide (b.2.1 = b.2.2))

/-- R338: h of the test at the estimator's values. -/
def testHalf (z : Word) (e : DevEst) : Word := mulD z (sqrtD (divD e.m2 (natD (e.n * (e.n - 1)))))

/-- R338: the test after a merge; at the stop the estimate freezes. -/
def Launch.test (l : Launch) : Launch :=
  if l.est.n < recNmin l.bytes then l
  else
    let h := testHalf (recZ l.bytes) l.est
    let stop := fCond fp64 3 h.toNat (recTol l.bytes).toNat
    { l with est := { l.est with half := h, stopped := stop, exhausted := stop && l.allAnswered } }

/-- R337–R339: a batch reaches the device estimator: merged and tested, or late. -/
def Launch.takeBatch (l : Launch) (b : Nat × Word × Word) : Launch :=
  if l.est.stopped then { l with est := l.est.addLate b.1 }
  else Launch.test { l with est := l.est.merge b.1 b.2.1 b.2.2 }

/-- A launch replaced; a stop that this brings is told to the firmware (R338). -/
def State.putEst (s : State) (l : Nat) (old new : Launch) : State :=
  let s1 : State := { s with launches := Tab.put s.launches l new }
  if new.est.stopped && !old.est.stopped then s1.notify (.estStop l) else s1

/-- BATCH_MERGE (R337): the batch that arrived first is merged. -/
def State.mergeBatch (s : State) (l : Nat) : State :=
  match Tab.find s.launches l with
  | none => s
  | some v =>
    match v.batches with
    | [] => s
    | b :: rest => s.putEst l v (Launch.takeBatch { v with batches := rest } b)

/-- R339: the samples held in the partial estimator of a cluster are discarded and late. -/
def State.dropHeld (s : State) (l k : Nat) : State :=
  let e := (s.cluster k).est
  (s.modLaunch l (fun v => { v with est := v.est.addLate e.n })).modCluster k (fun q =>
    { q with est := { e.clear with stopped := true } })

/-- STOP_RECEIPT (R338): a partial estimator (units 0 to 15, by cluster) or another launch unit (16 + die) receives the
stop. -/
def State.receiveStop (s : State) (l unit : Nat) : State :=
  match Tab.find s.launches l with
  | none => s
  | some v =>
    if !v.est.stopped then s
    else if unit < Config.clusters then
      let e := (s.cluster unit).est
      if e.launch = l ∧ !e.stopped then s.dropHeld l unit else s
    else if (recDies v.bytes).contains (unit - Config.clusters) ∧ ¬ v.stops.contains (unit - Config.clusters) then
      s.modLaunch l (fun v => { v with stops := v.stops ++ [unit - Config.clusters] })
    else s

/-! ### The end of an estimating launch (R340) -/

/-- R122, R340: whether every context of a launch has halted, with its operations complete; one that has may since have
become another launch's. -/
def State.allHalted (s : State) (l : Nat) (v : Launch) : Bool :=
  v.saved.isEmpty && (recClaims l v.bytes).all (fun a =>
    let y := s.ctx a.core a.num
    decide (y.launch ≠ l) || (s.core a.core).released a.num y)

/-- The clusters that serve a launch, ascending. -/
def State.serving (s : State) (l : Nat) (v : Launch) : List Nat :=
  (recClusters v.bytes).filter (fun k => decide ((s.cluster k).est.launch = l))

/-- Whether no sample of a launch is on its way into a partial estimator. -/
def State.drained (s : State) (l : Nat) (v : Launch) : Bool :=
  (s.serving l v).all (fun k => (s.cluster k).est.samples.isEmpty)

/-- REMAINDER_MERGE (R340): once every context has halted and every batch sent has been merged, the remainders are
merged in ascending cluster number; after a stop they are late. -/
def State.mergeRemainders (s : State) (l : Nat) : State :=
  match Tab.find s.launches l with
  | none => s
  | some v =>
    if recKind v.bytes ≠ 3 ∨ v.est.stopped ∨ v.est.merged ∨ v.st ≠ .live ∨ v.rollback ∨ v.batches ≠ [] then s
    else if !s.allHalted l v || !s.drained l v then s
    else
      let ks := s.serving l v
      let new := ks.foldl (fun w k =>
        let e := (s.cluster k).est
        if e.n = 0 then w else Launch.takeBatch w (e.n, e.mean, e.m2)) v
      let s1 := ks.foldl (fun t k => t.modCluster k (fun q => { q with est := { q.est.clear with stopped := true } })) s
      s1.putEst l v { new with est := { new.est with merged := true } }

/-! ### The meanings of the events -/

/-- The meaning of PARTIAL_ESTIMATOR_SAMPLE. -/
def execPartialEstimatorSample (cluster : Nat) (s : State) : Host.Outcome State Fault Refusal := .next (s.takeSample cluster)

/-- The meaning of BATCH_MERGE. -/
def execBatchMerge (launch : Nat) (s : State) : Host.Outcome State Fault Refusal := .next (s.mergeBatch launch)

/-- The meaning of STOP_RECEIPT. -/
def execStopReceipt (launch unit : Nat) (s : State) : Host.Outcome State Fault Refusal := .next (s.receiveStop launch unit)

/-- The meaning of REMAINDER_MERGE. -/
def execRemainderMerge (launch : Nat) (s : State) : Host.Outcome State Fault Refusal := .next (s.mergeRemainders launch)

/-- STEP_BLOCK_REFILL (R309): another launch unit takes its next block of 64 steps from the counter of the dispatching
one; after a stop that has reached it, or with no step left, it holds an empty block at the end. -/
def State.refillBlock (s : State) (l die : Nat) : State :=
  match Tab.find s.launches l with
  | none => s
  | some v =>
    let n := recSteps v.bytes
    let empty := match Tab.find v.blocks die with
      | some (a, b) => decide (a = b) && decide (a < n)
      | none => true
    if v.counts die ∨ recKind v.bytes = 0 ∨ !empty || !(recDies v.bytes).contains die || v.est.stopped then s
    else
      let a := min v.step n
      let b := min (a + 64) n
      s.modLaunch l (fun w => { w with blocks := Tab.put w.blocks die (a, b), step := b })

/-- The meaning of STEP_BLOCK_REFILL. -/
def execStepBlockRefill (launch die : Nat) (s : State) : Host.Outcome State Fault Refusal := .next (s.refillBlock launch die)

end Sys2Proof.Machine
end

