-- ==== Sys2Proof/Machine/Retire.lean ====
section
/-! DEFINITION. How a launch ends: retirement (R270, R305), termination and resumption after a fault (R215), and the
rollback (R271). -/

set_option Elab.async false

namespace Sys2Proof.Machine

/-! ### Retirement (R270, R305) -/

/-- R305: whether an ended launch has nothing further to await: what is left waits on another party and is cancelled
(R207). -/
def State.allStopped (s : State) (l : Nat) (v : Launch) : Bool :=
  (s.held l v.bytes).all (fun q => s.settled q.1 q.2.1)

/-- R340: whether the estimate of a launch is final. -/
def State.estReady (s : State) (l : Nat) (v : Launch) : Bool :=
  decide (recKind v.bytes ≠ 3) ||
    (s.drained l v &&
      (if v.est.stopped then v.batches.isEmpty && (s.serving l v).all (fun k => (s.cluster k).est.stopped) else v.est.merged))

/-- R270, R305: the storage that a retirement reaches: the completion block, and the AUTO tensors with a SEALED record of
the launch. -/
def State.endUnits (s : State) (l : Nat) (v : Launch) : List (Nat × Nat) :=
  s.doneUnits v.proc v.bytes ++ (s.proc v.proc).patches.flatMap (fun q =>
    if q.2.ofLaunch s.node l ∧ q.2.st = .sealed ∧ (s.handle v.proc q.2.home).auto then s.recUnits v.proc q.1 else [])

/-- R327, R329: the state in which a retirement waits for a migration, or for accesses held before it; none when it may go
on. Assumption log 55 (DEDUCED). -/
def State.endGate (s : State) (l : Nat) (v : Launch) : Option State := s.gate v.proc (s.endUnits l v) (.retire l)

/-- R99, R246, R289, R305: a context after its launch: free, its registers as they stand, but for the name registers and
for what belonged to the launch. -/
def Ctx.retired (y : Ctx) : Ctx :=
  { y with
    st := .free
    launch := 0
    n := []
    flues := []
    wins := []
    nxt := []
    untaken := []
    bars := []
    marked := false
    afterHalt := false
    haltWait := 0
    fills := [] }

/-- Every operation of a context still in flight is cancelled (R207). -/
def State.cancelAll (s : State) (c x : Nat) : State :=
  s.cancel c x (((s.core c).dops.filter (fun o => decide (o.ctx = x))).map (·.id))

/-- R299, R305: the resources of a launch are free again. -/
def State.freeUnits (s : State) (l : Nat) (v : Launch) : State :=
  let s1 := (s.held l v.bytes).foldl (fun t q =>
    (t.cancelAll q.1 q.2.1).modCore q.1 (fun k =>
      { k.modCtx q.2.1 Ctx.retired with running := if k.running = some q.2.1 then none else k.running })) s
  let s2 := (recSlots v.bytes).foldl (fun t q =>
    if (t.barSlot q.1 q.2.1 q.2.2).owner = l then t.setBarSlot q.1 q.2.1 q.2.2 BarSlot.reset else t) s1
  let s3 := (recClusters v.bytes).foldl (fun t k =>
    if (t.cluster k).est.launch = l then t.modCluster k (fun q => { q with est := PartEst.reset }) else t) s2
  (s3.pinRays v.proc v.bytes (· - 1)).leave (fun w => match w with | .list l' _ => decide (l' = l) | _ => false)

/-- R305: the status word of a launch. -/
def Launch.status (v : Launch) : Nat :=
  match v.st with
  | .live => statusWord 0 0 0 v.relaunched
  | .ended code ctx core => statusWord code ctx core v.relaunched

/-- R270, R305: a launch that has ended completes: the OPEN records are discarded, the SEALED records of AUTO tensors are
applied, its resources are free, and the completion block is written. -/
def State.complete (s : State) (l : Nat) (v : Launch) : State :=
  let (s1, opened) := s.discardOpen v.proc l
  let (s2, left) := s1.applySealed v.proc l
  let est := if v.est.stopped then v.est else { v.est with exhausted := v.allAnswered }
  let s3 := ((s2.freeUnits l v).writeDone v.proc v.bytes v.status opened left est).leaveUnit (.retire l)
  let s4 : State := { s3 with launches := Tab.erase s3.launches l }
  match v.src with
  | .queue q => s4.freeDrained v.proc q
  | .intake => s4

/-- R122, R215, R305, R340: whether every context of a launch has halted or been stopped, with its operations complete, and its
estimate is final. -/
def State.finished (s : State) (l : Nat) (v : Launch) : Bool :=
  match v.st with
  | .live => s.allHalted l v && s.estReady l v && !v.rollback
  | .ended _ _ _ => s.allStopped l v && (!v.est.stopped || s.estReady l v)

/-- LAUNCH_RETIREMENT (R270): a launch that has finished completes, unless what it reaches is held (R327). -/
def State.retire (s : State) (l : Nat) : State :=
  match Tab.find s.launches l with
  | none => s
  | some v => if s.finished l v then (s.endGate l v).getD (s.complete l v) else s

/-! ### Stopping the contexts of a launch (R215, R271) -/

/-- A context of a launch issues nothing further; what it has in flight completes, or is cancelled if it waits on
another party (R207). -/
def State.stopCtx (s : State) (c x : Nat) : State :=
  let ids := s.waitIds c x
  let s1 := (s.cancel c x ids).modCtx c x (fun y =>
    { y with st := .stopped, untaken := [], nxt := [], marked := false, fills := [] })
  if (s1.core c).running = some x then s1.modCore c Core.endRun else s1

def State.stopAll (s : State) (l : Nat) (v : Launch) : State :=
  (s.held l v.bytes).foldl (fun t q => t.stopCtx q.1 q.2.1) s

/-- A faulted context, resident or saved: its fault registers and its launch. -/
def State.faultedAt (s : State) (c x : Nat) : Option (Ctx × Nat) :=
  let y := s.ctx c x
  if y.st = .faulted then some (y, y.launch)
  else
    (s.waiting c x).findSome? (fun q =>
      (q.2.saved.find? (fun v => decide (v.core = c) && decide (v.num = x) && decide (v.ctx.st = .faulted))).map
        (fun v => (v.ctx, q.1)))

/-- R207, R215: the launch that the firmware may end at a context, with the state in which it completes: that of a faulted
context, with the fault's code; and that of a halted one whose wait the firmware has been told of, which no fault ends and
whose code the spec does not give. Assumption log 93 (DESIGN CHOICE). -/
def State.endable (s : State) (c x : Nat) : Option (Nat × LaunchSt) :=
  match s.faultedAt c x with
  | some (y, l) => some (l, .ended ((Tab.get y.fr 0 0).toNat % 256) x c)
  | none =>
    let y := s.ctx c x
    if y.st = .halted ∧ haltLimit < y.haltWait then some (y.launch, .ended (Config.waitEndCode s.draws).toNat 0 0) else none

/-- FAULT_TERMINATE (R207, R215): every context of the launch is stopped, and the launch completes. -/
def State.terminate (s : State) (c x : Nat) : State :=
  match s.endable c x with
  | none => s
  | some (l, st) =>
    match Tab.find s.launches l with
    | none => s
    | some v =>
      if v.st ≠ .live then s
      else ((if (s.faultedAt c x).isSome then s else s.draw).stopAll l v).modLaunch l (fun w => { w with st := st, rollback := false, saved := [] })

/-! ### Rollback (R271, R341) -/

/-- A context at its start, as an eviction would have saved it. -/
def Claim.unstarted (a : Claim) : Saved :=
  { core := a.core, num := a.num, ctx := a.ctx, vrf := [], tiles := [], tvis := [], cov := [], ops := [] }

/-- R271: a launch starts again on the same resources; a context that is evicted, or whose resources another launch has
taken since it halted (R122), starts when they are free (R208). -/
def State.relaunch (s : State) (l : Nat) (v : Launch) : State :=
  let s1 := s.discardUnapplied v.proc l
  let away := fun (a : Claim) =>
    v.saved.any (fun q => decide (q.core = a.core) && decide (q.num = a.num)) ||
      (s.holders a).any (fun q => decide (q.2.launch ≠ l))
  let here := (recClaims l v.bytes).filter (fun a => !away a)
  let s2 := here.foldl (fun t a => (t.startClaim a).wantPages a.core a.num) s1
  let s3 := (s2.startUnits l v.bytes).count v.die erRelaunch
  s3.modLaunch l (fun w =>
    { w with
      step := 0
      est := DevEst.reset
      batches := []
      blocks := []
      stops := []
      relaunched := true
      rollback := false
      saved := ((recClaims l v.bytes).filter away).map Claim.unstarted
      rings := [] })

/-- ROLLBACK (R271): a replayable launch that met an uncorrectable error is stopped; once its operations have
completed, its unapplied records are discarded and it is relaunched. Assumption log 47 (DEDUCED). -/
def State.rollBack (s : State) (l : Nat) : State :=
  match Tab.find s.launches l with
  | none => s
  | some v =>
    if !v.rollback then s
    else
      let hs := s.held l v.bytes
      if hs.any (fun q => decide (q.2.2.st ≠ .stopped)) then s.stopAll l v
      else if hs.all (fun q => s.settled q.1 q.2.1) then
        (hs.foldl (fun t q => t.cancelAll q.1 q.2.1) s).relaunch l v
      else s

/-! ### Resumption (R215, R273, R398) -/

/-- R60, R398: the mapped pages that hold a line of the bundle at an address, past fill halfwords, and that the core lacks. -/
def State.bundlePages (s : State) (c x pc : Nat) : List Nat :=
  let (p, h) := s.codeOf (s.ctx c x)
  (s.pagesAt c x pc).filter (fun g =>
    (match s.entry p h clCode with
     | some e => e.present.contains g
     | none => false) && ((s.core c).page p h (1024 * g)).isNone)

/-- R215, R273, R398: the firmware, which may have rewritten granules, resumes a context; after a fetch fault the launch unit
first fills the pages of the bundle that the context is to issue. -/
def State.fwResume (s : State) (c x : Nat) (w : FwWrites) (step : Bool) : State :=
  let y := s.ctx c x
  if y.st ≠ .faulted then s
  else
    let t := (w.grans.foldl State.rewriteGranule s).resume c x w step
    if (Tab.get y.fr 0 0).toNat % 256 = fcFetch then
      t.modCtx c x (fun z => { z with fills := t.bundlePages c x z.pc.toNat, refetch := true })
    else t

/-! ### The meanings of the events -/

/-- The meaning of LAUNCH_RETIREMENT. -/
def execLaunchRetirement (launch : Nat) (s : State) : Host.Outcome State Fault Refusal := .next (s.retire launch)

/-- The meaning of FAULT_TERMINATE. -/
def execFaultTerminate (core ctx : Nat) (s : State) : Host.Outcome State Fault Refusal := .next (s.terminate core ctx)

/-- The meaning of ROLLBACK. -/
def execRollback (launch : Nat) (s : State) : Host.Outcome State Fault Refusal := .next (s.rollBack launch)

/-- The meaning of FAULT_RESUME. -/
def execFaultResume (core ctx : Nat) (w : FwWrites) (s : State) : Host.Outcome State Fault Refusal :=
  .next (s.fwResume core ctx w false)

/-- The meaning of FAULT_RESUME_STEP_OVER. -/
def execFaultResumeStepOver (core ctx : Nat) (w : FwWrites) (s : State) : Host.Outcome State Fault Refusal :=
  .next (s.fwResume core ctx w true)

end Sys2Proof.Machine
end

