-- ==== Sys2Proof/Machine/Scalar.lean ====
section
/-! DEFINITION. The meanings of the SC slot (spec/05 R107–R117). -/

set_option Elab.async false

namespace Sys2Proof.Machine

/-- R107: an SC operation that writes s[d] within a bound. -/
def scRes (g : BitVec 5) (d : BitVec 6) (bound : Nat) (v : Word) (s : State) : Res :=
  guarded g s (fun _ => .ok (fun t => t.landS d.toNat v bound))

/-- R108: an integer operation on two registers. -/
def scInt (g : BitVec 5) (d a b : BitVec 6) (bound : Nat) (f : Word → Word → Word) (s : State) : Res :=
  scRes g d bound (f (s.cur.rd a.toNat) (s.cur.rd b.toNat)) s

/-- R108: bits [127:64] of the signed product. -/
def mulHigh (x y : Word) : Word := BitVec.ofInt 64 (x.toInt * y.toInt / 2 ^ 64)

/-- R108: bits [127:64] of the unsigned product. -/
def mulHighU (x y : Word) : Word := BitVec.ofNat 64 (x.toNat * y.toNat / 2 ^ 64)

/-- R109: the signed quotient rounded toward zero; −1 for a zero divisor. -/
def divS (x y : Word) : Word := if y = 0 then -1 else BitVec.ofInt 64 (x.toInt.tdiv y.toInt)

/-- R109: the unsigned quotient; all ones for a zero divisor. -/
def divU (x y : Word) : Word := if y = 0 then -1 else BitVec.ofNat 64 (x.toNat / y.toNat)

/-- R109: the remainder with the sign of the dividend; the dividend for a zero divisor. -/
def remS (x y : Word) : Word := if y = 0 then x else BitVec.ofInt 64 (x.toInt.tmod y.toInt)

/-- R109: the unsigned remainder; the dividend for a zero divisor. -/
def remU (x y : Word) : Word := if y = 0 then x else BitVec.ofNat 64 (x.toNat % y.toNat)

/-- R114: the layout that P selects. -/
def scFmt (p : Bool) : Ffmt := if p then fp64 else fp32

/-- R101: the operand bits of an FP32 or FP64 operation. -/
def scRaw (p : Bool) (w : Word) : Nat := if p then w.toNat else w.toNat % 2 ^ 32

/-- R81: a bound for F32 and one for F64. -/
def fpBound (p : Bool) (l32 l64 : Nat) : Nat := if p then l64 else l32

/-- R114: a floating-point operation on s[a], s[b] and s[d], its result zero-extended (R101). -/
def scFp (g : BitVec 5) (p : Bool) (d a b : BitVec 6) (bound : Nat) (f : Ffmt → Nat → Nat → Nat → Nat) (s : State) :
    Res :=
  let x := s.cur
  scRes g d bound
    (BitVec.ofNat 64 (f (scFmt p) (scRaw p (x.rd a.toNat)) (scRaw p (x.rd b.toNat)) (scRaw p (x.rd d.toNat)))) s

/-- R116: the conversions of FCVT. -/
def fcvtVal (kind : Nat) (w : Word) : Word :=
  let n := w.toNat
  match kind with
  | 0 => BitVec.ofNat 64 (fConv fp32 fp64 .rne (n % 2 ^ 32))
  | 1 => BitVec.ofNat 64 (fConv fp64 fp32 .rne n)
  | 2 => BitVec.ofInt 64 ((decodeFf fp32 (n % 2 ^ 32)).toIntSat .rne true 64)
  | 3 => BitVec.ofInt 64 ((decodeFf fp64 n).toIntSat .rne true 64)
  | 4 => BitVec.ofNat 64 (encodeFf fp32 .rne (.ofInt w.toInt))
  | 5 => BitVec.ofNat 64 (encodeFf fp64 .rne (.ofInt w.toInt))
  | 6 => BitVec.ofNat 64 (fConv fp32 bf16 .rne (n % 2 ^ 32))
  | 7 => BitVec.ofNat 64 (fConv bf16 fp32 .rne (n % 2 ^ 16))
  | 8 => BitVec.ofNat 64 (fConv fp32 fp16 .rne (n % 2 ^ 32))
  | 9 => BitVec.ofNat 64 (fConv fp16 fp32 .rne (n % 2 ^ 16))
  | 10 => BitVec.ofInt 64 ((decodeFf fp32 (n % 2 ^ 32)).toIntSat .rne true 32)
  | _ => BitVec.ofNat 64 (encodeFf fp32 .rne (.ofInt (intOfBits 32 n)))

/-- R81, R116: the bound of FCVT. -/
def fcvtBound (kind : Nat) : Nat := if kind = 0 ∨ kind = 1 ∨ kind = 3 ∨ kind = 5 then 5 else 4

/-- ADD (R108). -/
def opAdd (g : BitVec 5) (d a b : BitVec 6) (s : State) : Res :=
  scInt g d a b 1 (fun x y => x + y) s

/-- The meaning of ADD. -/
def execAdd (g : BitVec 5) (d a b : BitVec 6) (s : State) : Host.Outcome State Fault Refusal :=
  commit (opAdd g d a b s) s

/-- SUB (R108). -/
def opSub (g : BitVec 5) (d a b : BitVec 6) (s : State) : Res :=
  scInt g d a b 1 (fun x y => x - y) s

/-- The meaning of SUB. -/
def execSub (g : BitVec 5) (d a b : BitVec 6) (s : State) : Host.Outcome State Fault Refusal :=
  commit (opSub g d a b s) s

/-- MUL (R108). -/
def opMul (g : BitVec 5) (d a b : BitVec 6) (s : State) : Res :=
  scInt g d a b 3 (fun x y => x * y) s

/-- The meaning of MUL. -/
def execMul (g : BitVec 5) (d a b : BitVec 6) (s : State) : Host.Outcome State Fault Refusal :=
  commit (opMul g d a b s) s

/-- MULHI (R108). -/
def opMulhi (g : BitVec 5) (d a b : BitVec 6) (s : State) : Res :=
  scInt g d a b 3 mulHigh s

/-- The meaning of MULHI. -/
def execMulhi (g : BitVec 5) (d a b : BitVec 6) (s : State) : Host.Outcome State Fault Refusal :=
  commit (opMulhi g d a b s) s

/-- MULHU (R108). -/
def opMulhu (g : BitVec 5) (d a b : BitVec 6) (s : State) : Res :=
  scInt g d a b 3 mulHighU s

/-- The meaning of MULHU. -/
def execMulhu (g : BitVec 5) (d a b : BitVec 6) (s : State) : Host.Outcome State Fault Refusal :=
  commit (opMulhu g d a b s) s

/-- DIV (R109). -/
def opDiv (g : BitVec 5) (d a b : BitVec 6) (s : State) : Res :=
  scInt g d a b 20 divS s

/-- The meaning of DIV. -/
def execDiv (g : BitVec 5) (d a b : BitVec 6) (s : State) : Host.Outcome State Fault Refusal :=
  commit (opDiv g d a b s) s

/-- DIVU (R109). -/
def opDivu (g : BitVec 5) (d a b : BitVec 6) (s : State) : Res :=
  scInt g d a b 20 divU s

/-- The meaning of DIVU. -/
def execDivu (g : BitVec 5) (d a b : BitVec 6) (s : State) : Host.Outcome State Fault Refusal :=
  commit (opDivu g d a b s) s

/-- REM (R109). -/
def opRem (g : BitVec 5) (d a b : BitVec 6) (s : State) : Res :=
  scInt g d a b 20 remS s

/-- The meaning of REM. -/
def execRem (g : BitVec 5) (d a b : BitVec 6) (s : State) : Host.Outcome State Fault Refusal :=
  commit (opRem g d a b s) s

/-- REMU (R109). -/
def opRemu (g : BitVec 5) (d a b : BitVec 6) (s : State) : Res :=
  scInt g d a b 20 remU s

/-- The meaning of REMU. -/
def execRemu (g : BitVec 5) (d a b : BitVec 6) (s : State) : Host.Outcome State Fault Refusal :=
  commit (opRemu g d a b s) s

/-- AND (R108). -/
def opAnd (g : BitVec 5) (d a b : BitVec 6) (s : State) : Res :=
  scInt g d a b 1 (fun x y => x &&& y) s

/-- The meaning of AND. -/
def execAnd (g : BitVec 5) (d a b : BitVec 6) (s : State) : Host.Outcome State Fault Refusal :=
  commit (opAnd g d a b s) s

/-- OR (R108). -/
def opOr (g : BitVec 5) (d a b : BitVec 6) (s : State) : Res :=
  scInt g d a b 1 (fun x y => x ||| y) s

/-- The meaning of OR. -/
def execOr (g : BitVec 5) (d a b : BitVec 6) (s : State) : Host.Outcome State Fault Refusal :=
  commit (opOr g d a b s) s

/-- XOR (R108). -/
def opXor (g : BitVec 5) (d a b : BitVec 6) (s : State) : Res :=
  scInt g d a b 1 (fun x y => x ^^^ y) s

/-- The meaning of XOR. -/
def execXor (g : BitVec 5) (d a b : BitVec 6) (s : State) : Host.Outcome State Fault Refusal :=
  commit (opXor g d a b s) s

/-- ANDN (R108). -/
def opAndn (g : BitVec 5) (d a b : BitVec 6) (s : State) : Res :=
  scInt g d a b 1 (fun x y => x &&& ~~~ y) s

/-- The meaning of ANDN. -/
def execAndn (g : BitVec 5) (d a b : BitVec 6) (s : State) : Host.Outcome State Fault Refusal :=
  commit (opAndn g d a b s) s

/-- SHL (R108). -/
def opShl (g : BitVec 5) (d a b : BitVec 6) (s : State) : Res :=
  scInt g d a b 1 (fun x y => x <<< (y.toNat % 64)) s

/-- The meaning of SHL. -/
def execShl (g : BitVec 5) (d a b : BitVec 6) (s : State) : Host.Outcome State Fault Refusal :=
  commit (opShl g d a b s) s

/-- SHL with an immediate count (R108). -/
def opShlImm (g : BitVec 5) (d a n : BitVec 6) (s : State) : Res :=
  scRes g d 1 ((s.cur.rd a.toNat) <<< n.toNat) s

/-- The meaning of SHL with an immediate count. -/
def execShlImm (g : BitVec 5) (d a n : BitVec 6) (s : State) : Host.Outcome State Fault Refusal :=
  commit (opShlImm g d a n s) s

/-- SHRL (R108). -/
def opShrl (g : BitVec 5) (d a b : BitVec 6) (s : State) : Res :=
  scInt g d a b 1 (fun x y => x >>> (y.toNat % 64)) s

/-- The meaning of SHRL. -/
def execShrl (g : BitVec 5) (d a b : BitVec 6) (s : State) : Host.Outcome State Fault Refusal :=
  commit (opShrl g d a b s) s

/-- SHRL with an immediate count (R108). -/
def opShrlImm (g : BitVec 5) (d a n : BitVec 6) (s : State) : Res :=
  scRes g d 1 ((s.cur.rd a.toNat) >>> n.toNat) s

/-- The meaning of SHRL with an immediate count. -/
def execShrlImm (g : BitVec 5) (d a n : BitVec 6) (s : State) : Host.Outcome State Fault Refusal :=
  commit (opShrlImm g d a n s) s

/-- SHRA (R108). -/
def opShra (g : BitVec 5) (d a b : BitVec 6) (s : State) : Res :=
  scInt g d a b 1 (fun x y => x.sshiftRight (y.toNat % 64)) s

/-- The meaning of SHRA. -/
def execShra (g : BitVec 5) (d a b : BitVec 6) (s : State) : Host.Outcome State Fault Refusal :=
  commit (opShra g d a b s) s

/-- SHRA with an immediate count (R108). -/
def opShraImm (g : BitVec 5) (d a n : BitVec 6) (s : State) : Res :=
  scRes g d 1 ((s.cur.rd a.toNat).sshiftRight n.toNat) s

/-- The meaning of SHRA with an immediate count. -/
def execShraImm (g : BitVec 5) (d a n : BitVec 6) (s : State) : Host.Outcome State Fault Refusal :=
  commit (opShraImm g d a n s) s

/-- MIN (R108). -/
def opMin (g : BitVec 5) (d a b : BitVec 6) (s : State) : Res :=
  scInt g d a b 1 (fun x y => if x.slt y then x else y) s

/-- The meaning of MIN. -/
def execMin (g : BitVec 5) (d a b : BitVec 6) (s : State) : Host.Outcome State Fault Refusal :=
  commit (opMin g d a b s) s

/-- MAX (R108). -/
def opMax (g : BitVec 5) (d a b : BitVec 6) (s : State) : Res :=
  scInt g d a b 1 (fun x y => if x.slt y then y else x) s

/-- The meaning of MAX. -/
def execMax (g : BitVec 5) (d a b : BitVec 6) (s : State) : Host.Outcome State Fault Refusal :=
  commit (opMax g d a b s) s

/-- MINU (R108). -/
def opMinu (g : BitVec 5) (d a b : BitVec 6) (s : State) : Res :=
  scInt g d a b 1 (fun x y => if x.ult y then x else y) s

/-- The meaning of MINU. -/
def execMinu (g : BitVec 5) (d a b : BitVec 6) (s : State) : Host.Outcome State Fault Refusal :=
  commit (opMinu g d a b s) s

/-- MAXU (R108). -/
def opMaxu (g : BitVec 5) (d a b : BitVec 6) (s : State) : Res :=
  scInt g d a b 1 (fun x y => if x.ult y then y else x) s

/-- The meaning of MAXU. -/
def execMaxu (g : BitVec 5) (d a b : BitVec 6) (s : State) : Host.Outcome State Fault Refusal :=
  commit (opMaxu g d a b s) s

/-- ADDI (R110). -/
def opAddi (g : BitVec 5) (d a : BitVec 6) (imm : BitVec 8) (s : State) : Res :=
  scRes g d 1 (s.cur.rd a.toNat + immOf s imm) s

/-- The meaning of ADDI. -/
def execAddi (g : BitVec 5) (d a : BitVec 6) (imm : BitVec 8) (s : State) : Host.Outcome State Fault Refusal :=
  commit (opAddi g d a imm s) s

/-- SETHI (R110). -/
def opSethi (g : BitVec 5) (d a : BitVec 6) (imm : BitVec 8) (s : State) : Res :=
  scRes g d 1 (immOf s imm <<< 32 ||| (s.cur.rd a.toNat &&& 0xFFFFFFFF#64)) s

/-- The meaning of SETHI. -/
def execSethi (g : BitVec 5) (d a : BitVec 6) (imm : BitVec 8) (s : State) : Host.Outcome State Fault Refusal :=
  commit (opSethi g d a imm s) s

/-- CMP (R111). -/
def opCmp (g : BitVec 5) (c q : BitVec 4) (a b : BitVec 6) (s : State) : Res :=
  predRes g q.toNat (cmpCond c.toNat (s.cur.rd a.toNat) (s.cur.rd b.toNat)) s

/-- The meaning of CMP. -/
def execCmp (g : BitVec 5) (c q : BitVec 4) (a b : BitVec 6) (s : State) : Host.Outcome State Fault Refusal :=
  commit (opCmp g c q a b s) s

/-- CMPI (R111). -/
def opCmpi (g : BitVec 5) (c : BitVec 2) (q : BitVec 4) (a : BitVec 6) (imm : BitVec 8) (s : State) : Res :=
  predRes g q.toNat (cmpiCond c.toNat (s.cur.rd a.toNat) (immOf s imm)) s

/-- The meaning of CMPI. -/
def execCmpi (g : BitVec 5) (c : BitVec 2) (q : BitVec 4) (a : BitVec 6) (imm : BitVec 8) (s : State) : Host.Outcome State Fault Refusal :=
  commit (opCmpi g c q a imm s) s

/-- SEL (R112). -/
def opSel (g : BitVec 5) (neg : Bool) (d a b : BitVec 6) (s : State) : Res :=
  let t := s.cur.rd d.toNat
  scRes g d 1 (if (if neg then t.msb else decide (t ≠ 0)) then s.cur.rd a.toNat else s.cur.rd b.toNat) s

/-- The meaning of SEL. -/
def execSel (g : BitVec 5) (neg : Bool) (d a b : BitVec 6) (s : State) : Host.Outcome State Fault Refusal :=
  commit (opSel g neg d a b s) s

/-- PLOG (R113). -/
def opPlog (g : BitVec 5) (op : BitVec 2) (q qa qb : BitVec 4) (s : State) : Res :=
  predRes g q.toNat (plogOp op.toNat (s.cur.pred qa.toNat) (s.cur.pred qb.toNat)) s

/-- The meaning of PLOG. -/
def execPlog (g : BitVec 5) (op : BitVec 2) (q qa qb : BitVec 4) (s : State) : Host.Outcome State Fault Refusal :=
  commit (opPlog g op q qa qb s) s

/-- BITC (R113). -/
def opBitc (g : BitVec 5) (op : BitVec 2) (d a : BitVec 6) (s : State) : Res :=
  scRes g d 1 (BitVec.ofNat 64 (bitCount op.toNat 64 (s.cur.rd a.toNat).toNat)) s

/-- The meaning of BITC. -/
def execBitc (g : BitVec 5) (op : BitVec 2) (d a : BitVec 6) (s : State) : Host.Outcome State Fault Refusal :=
  commit (opBitc g op d a s) s

/-- FADD (R114). -/
def opFadd (g : BitVec 5) (p : Bool) (d a b : BitVec 6) (s : State) : Res :=
  scFp g p d a b (fpBound p 4 5) (fun f x y _ => fAdd f .rne x y) s

/-- The meaning of FADD. -/
def execFadd (g : BitVec 5) (p : Bool) (d a b : BitVec 6) (s : State) : Host.Outcome State Fault Refusal :=
  commit (opFadd g p d a b s) s

/-- FSUB (R114). -/
def opFsub (g : BitVec 5) (p : Bool) (d a b : BitVec 6) (s : State) : Res :=
  scFp g p d a b (fpBound p 4 5) (fun f x y _ => fSub f .rne x y) s

/-- The meaning of FSUB. -/
def execFsub (g : BitVec 5) (p : Bool) (d a b : BitVec 6) (s : State) : Host.Outcome State Fault Refusal :=
  commit (opFsub g p d a b s) s

/-- FMUL (R114). -/
def opFmul (g : BitVec 5) (p : Bool) (d a b : BitVec 6) (s : State) : Res :=
  scFp g p d a b (fpBound p 4 5) (fun f x y _ => fMul f .rne x y) s

/-- The meaning of FMUL. -/
def execFmul (g : BitVec 5) (p : Bool) (d a b : BitVec 6) (s : State) : Host.Outcome State Fault Refusal :=
  commit (opFmul g p d a b s) s

/-- FMA (R114). -/
def opFma (g : BitVec 5) (p : Bool) (d a b : BitVec 6) (s : State) : Res :=
  scFp g p d a b (fpBound p 4 5) (fun f x y z => fFma f .rne x y z) s

/-- The meaning of FMA. -/
def execFma (g : BitVec 5) (p : Bool) (d a b : BitVec 6) (s : State) : Host.Outcome State Fault Refusal :=
  commit (opFma g p d a b s) s

/-- FDIV (R114). -/
def opFdiv (g : BitVec 5) (p : Bool) (d a b : BitVec 6) (s : State) : Res :=
  scFp g p d a b (fpBound p 16 24) (fun f x y _ => fDiv f .rne x y) s

/-- The meaning of FDIV. -/
def execFdiv (g : BitVec 5) (p : Bool) (d a b : BitVec 6) (s : State) : Host.Outcome State Fault Refusal :=
  commit (opFdiv g p d a b s) s

/-- FSQRT (R114). -/
def opFsqrt (g : BitVec 5) (p : Bool) (d a : BitVec 6) (s : State) : Res :=
  scFp g p d a 0 (fpBound p 16 24) (fun f x _ _ => fSqrt f .rne x) s

/-- The meaning of FSQRT. -/
def execFsqrt (g : BitVec 5) (p : Bool) (d a : BitVec 6) (s : State) : Host.Outcome State Fault Refusal :=
  commit (opFsqrt g p d a s) s

/-- FMINMAX (R114). -/
def opFminmax (g : BitVec 5) (mx p : Bool) (d a b : BitVec 6) (s : State) : Res :=
  scFp g p d a b (fpBound p 4 5) (fun f x y _ => if mx then fMax f x y else fMin f x y) s

/-- The meaning of FMINMAX. -/
def execFminmax (g : BitVec 5) (mx p : Bool) (d a b : BitVec 6) (s : State) : Host.Outcome State Fault Refusal :=
  commit (opFminmax g mx p d a b s) s

/-- FCMP (R115). -/
def opFcmp (g : BitVec 5) (c : BitVec 3) (p : Bool) (q : BitVec 4) (a b : BitVec 6) (s : State) : Res :=
  predRes g q.toNat (fCond (scFmt p) c.toNat (scRaw p (s.cur.rd a.toNat)) (scRaw p (s.cur.rd b.toNat))) s

/-- The meaning of FCMP. -/
def execFcmp (g : BitVec 5) (c : BitVec 3) (p : Bool) (q : BitVec 4) (a b : BitVec 6) (s : State) : Host.Outcome State Fault Refusal :=
  commit (opFcmp g c p q a b s) s

/-- FCVT (R116). -/
def opFcvt (g : BitVec 5) (kind d a : BitVec 6) (s : State) : Res :=
  scRes g d (fcvtBound kind.toNat) (fcvtVal kind.toNat (s.cur.rd a.toNat)) s

/-- The meaning of FCVT. -/
def execFcvt (g : BitVec 5) (kind d a : BitVec 6) (s : State) : Host.Outcome State Fault Refusal :=
  commit (opFcvt g kind d a s) s

/-- GETS (R106). -/
def opGets (g : BitVec 5) (d : BitVec 6) (num : BitVec 8) (s : State) : Res :=
  let n := sysNum s num
  sysCheck s n (fun _ => scRes g d 2 (sysRead s n) s)

/-- The meaning of GETS. -/
def execGets (g : BitVec 5) (d : BitVec 6) (num : BitVec 8) (s : State) : Host.Outcome State Fault Refusal :=
  commit (opGets g d num s) s

/-- SETS (R106, R130). -/
def opSets (g : BitVec 5) (a : BitVec 6) (num : BitVec 8) (s : State) : Res :=
  let n := sysNum s num
  sysCheck s n (fun _ => guarded g s (fun _ => setsRes n (s.cur.rd a.toNat) s))

/-- The meaning of SETS. -/
def execSets (g : BitVec 5) (a : BitVec 6) (num : BitVec 8) (s : State) : Host.Outcome State Fault Refusal :=
  commit (opSets g a num s) s

/-- SLD (R117): a damaged word reads zero, and the error waits for the next quiet bundle. -/
def opSld (g : BitVec 5) (d a : BitVec 6) (imm : BitVec 8) (s : State) : Res :=
  guarded g s (fun _ =>
    let ea := (s.cur.rd a.toNat).toInt + (immOf s imm).toInt
    match scalarEa s ea with
    | some r => .trap r
    | none =>
      let k := clusterOf s.foc.core
      if s.hurt (.spl k (ea.toNat / 8)) then
        .ok (fun t => (t.landS d.toNat 0 12).meet s.foc.core s.foc.ctx (some s.foc.slot) ea.toNat s.foc.pc)
      else
        let v := BitVec.ofNat 64 (Memory.readNat (s.cluster k).spl ea.toNat 8)
        .ok (fun t => (t.landS d.toNat v 12).correct (dieOf s.foc.core) erCeSram (fun w => decide (w = .spl k (ea.toNat / 8)))))

/-- The meaning of SLD. -/
def execSld (g : BitVec 5) (d a : BitVec 6) (imm : BitVec 8) (s : State) : Host.Outcome State Fault Refusal :=
  commit (opSld g d a imm s) s

/-- SST (R117). -/
def opSst (g : BitVec 5) (d a : BitVec 6) (imm : BitVec 8) (s : State) : Res :=
  guarded g s (fun _ =>
    let ea := (s.cur.rd a.toNat).toInt + (immOf s imm).toInt
    let v := s.cur.rd d.toNat
    match scalarEa s ea with
    | some r => .trap r
    | none => .ok (fun t => t.land s.foc.core s.foc.ctx (.mem ea.toNat v) 4))

/-- The meaning of SST. -/
def execSst (g : BitVec 5) (d a : BitVec 6) (imm : BitVec 8) (s : State) : Host.Outcome State Fault Refusal :=
  commit (opSst g d a imm s) s

end Sys2Proof.Machine
end

