-- ==== Sys2Proof/Machine/Vector.lean ====
section
/-! DEFINITION. The meanings of the VX and VY slots (spec/06 R141–R160). -/

set_option Elab.async false

namespace Sys2Proof.Machine

/-- R156–R158: an index or a shift: a scalar taken unsigned, or the immediate. -/
def indexOf (s : State) (f : VF) : Nat := if f.bs == 1 then (s.cur.rd f.vb.toNat).toNat else f.vb.toNat

/-- R153, R154: the slot with its result written to every lane: there the mask selects what contributes. -/
def everyLane (f : VF) : VF := { f with mask := 0, z := false }

/-- The parts of element x of elements of w bits. -/
def elemParts (w x : Nat) : PartMask := BitVec.ofNat 512 ((2 ^ (w / 8) - 1) * 2 ^ (w / 8 * x))

/-- VADD (R141). -/
def opVadd (f : VF) (s : State) : Res :=
  vecBin f 4 (fun t m => eAdd t (f.md == 1) m) s

/-- The meaning of VADD. -/
def execVadd (f : VF) (s : State) : Host.Outcome State Fault Refusal := commit (opVadd f s) s

/-- VSUB (R141). -/
def opVsub (f : VF) (s : State) : Res :=
  vecBin f 4 (fun t m => eSub t (f.md == 1) m) s

/-- The meaning of VSUB. -/
def execVsub (f : VF) (s : State) : Host.Outcome State Fault Refusal := commit (opVsub f s) s

/-- VMUL (R141). -/
def opVmul (f : VF) (s : State) : Res :=
  vecBin f 6 (fun t m => eMul t (f.md == 1) m) s

/-- The meaning of VMUL. -/
def execVmul (f : VF) (s : State) : Host.Outcome State Fault Refusal := commit (opVmul f s) s

/-- VFMA (R141). -/
def opVfma (f : VF) (s : State) : Res :=
  vecBin f 6 (eFma) s

/-- The meaning of VFMA. -/
def execVfma (f : VF) (s : State) : Host.Outcome State Fault Refusal := commit (opVfma f s) s

/-- VFMS (R141). -/
def opVfms (f : VF) (s : State) : Res :=
  vecBin f 6 (eFms) s

/-- The meaning of VFMS. -/
def execVfms (f : VF) (s : State) : Host.Outcome State Fault Refusal := commit (opVfms f s) s

/-- VMIN (R141). -/
def opVmin (f : VF) (s : State) : Res :=
  vecBin f 4 (fun t _ => eMin t) s

/-- The meaning of VMIN. -/
def execVmin (f : VF) (s : State) : Host.Outcome State Fault Refusal := commit (opVmin f s) s

/-- VMAX (R141). -/
def opVmax (f : VF) (s : State) : Res :=
  vecBin f 4 (fun t _ => eMax t) s

/-- The meaning of VMAX. -/
def execVmax (f : VF) (s : State) : Host.Outcome State Fault Refusal := commit (opVmax f s) s

/-- VABS (R141). -/
def opVabs (f : VF) (s : State) : Res :=
  vecUn f 4 (fun t _ => eAbs t (f.md == 1)) s

/-- The meaning of VABS. -/
def execVabs (f : VF) (s : State) : Host.Outcome State Fault Refusal := commit (opVabs f s) s

/-- VNEG (R141). -/
def opVneg (f : VF) (s : State) : Res :=
  vecUn f 4 (fun t _ => eNeg t (f.md == 1)) s

/-- The meaning of VNEG. -/
def execVneg (f : VF) (s : State) : Host.Outcome State Fault Refusal := commit (opVneg f s) s

/-- VABD (R141). -/
def opVabd (f : VF) (s : State) : Res :=
  vecBin f 4 (fun t m => eAbd t (f.md == 1) m) s

/-- The meaning of VABD. -/
def execVabd (f : VF) (s : State) : Host.Outcome State Fault Refusal := commit (opVabd f s) s

/-- VMULH (R141). -/
def opVmulh (f : VF) (s : State) : Res :=
  vecBin f 6 (fun t _ => eMulh t) s

/-- The meaning of VMULH. -/
def execVmulh (f : VF) (s : State) : Host.Outcome State Fault Refusal := commit (opVmulh f s) s

/-- VCLAMP (R141). -/
def opVclamp (f : VF) (s : State) : Res :=
  vecBin f 4 (fun t _ => eClamp t) s

/-- The meaning of VCLAMP. -/
def execVclamp (f : VF) (s : State) : Host.Outcome State Fault Refusal := commit (opVclamp f s) s

/-- VAND (R142). A broadcast scalar gives its low 32 bits to each lane. Assumption log 90 (DEDUCED). -/
def opVand (f : VF) (s : State) : Res :=
  vecOp f true true .ui32 4 32 (fun a b _ => a &&& b) s

/-- The meaning of VAND. -/
def execVand (f : VF) (s : State) : Host.Outcome State Fault Refusal := commit (opVand f s) s

/-- VOR (R142). A broadcast scalar gives its low 32 bits to each lane. Assumption log 90 (DEDUCED). -/
def opVor (f : VF) (s : State) : Res :=
  vecOp f true true .ui32 4 32 (fun a b _ => a ||| b) s

/-- The meaning of VOR. -/
def execVor (f : VF) (s : State) : Host.Outcome State Fault Refusal := commit (opVor f s) s

/-- VXOR (R142). A broadcast scalar gives its low 32 bits to each lane. Assumption log 90 (DEDUCED). -/
def opVxor (f : VF) (s : State) : Res :=
  vecOp f true true .ui32 4 32 (fun a b _ => a ^^^ b) s

/-- The meaning of VXOR. -/
def execVxor (f : VF) (s : State) : Host.Outcome State Fault Refusal := commit (opVxor f s) s

/-- VNOT (R142). -/
def opVnot (f : VF) (s : State) : Res :=
  vecOp f true false .ui32 4 32 (fun a _ _ => ~~~ a) s

/-- The meaning of VNOT. -/
def execVnot (f : VF) (s : State) : Host.Outcome State Fault Refusal := commit (opVnot f s) s

/-- VSHL (R142). -/
def opVshl (f : VF) (s : State) : Res :=
  vecBin f 4 (fun t _ => eShl t) s

/-- The meaning of VSHL. -/
def execVshl (f : VF) (s : State) : Host.Outcome State Fault Refusal := commit (opVshl f s) s

/-- VSHR (R142). -/
def opVshr (f : VF) (s : State) : Res :=
  vecBin f 4 (fun t _ => eShr t) s

/-- The meaning of VSHR. -/
def execVshr (f : VF) (s : State) : Host.Outcome State Fault Refusal := commit (opVshr f s) s

/-- VCMP (R143). -/
def opVcmp (f : VF) (s : State) : Res :=
  vecMask f true (vcmpMask (vtOfCode f.ty) f.md.toNat) s

/-- The meaning of VCMP. -/
def execVcmp (f : VF) (s : State) : Host.Outcome State Fault Refusal := commit (opVcmp f s) s

/-- VCLASS (R144). -/
def opVclass (f : VF) (s : State) : Res :=
  vecMask f false (fun a _ => vclassMask f.vb.toNat a) s

/-- The meaning of VCLASS. -/
def execVclass (f : VF) (s : State) : Host.Outcome State Fault Refusal := commit (opVclass f s) s

/-- VSEL (R145). -/
def opVsel (f : VF) (s : State) : Res :=
  vecOp f true true (vtOfCode f.ty) 4 (vtOfCode f.ty).w (fun a b _ => vecSelect (s.cur.mask f.md.toNat) a b) s

/-- The meaning of VSEL. -/
def execVsel (f : VF) (s : State) : Host.Outcome State Fault Refusal := commit (opVsel f s) s

/-- KLOG (R146). -/
def opKlog (f : VF) (s : State) : Res :=
  if f.vd.toNat = 0 then earlyAt s fcRegister
  else
    let r := klogOp f.md.toNat (s.cur.mask f.va.toNat) (s.cur.mask f.vb.toNat)
    .ok (fun t => t.modCur (fun x => x.setMask f.vd.toNat r))

/-- The meaning of KLOG. -/
def execKlog (f : VF) (s : State) : Host.Outcome State Fault Refusal := commit (opKlog f s) s

/-- KPOP (R146). -/
def opKpop (f : VF) (s : State) : Res :=
  let r := kpopOp f.md.toNat (s.cur.mask f.va.toNat)
  .ok (fun t => t.landS f.vd.toNat r 4)

/-- The meaning of KPOP. -/
def execKpop (f : VF) (s : State) : Host.Outcome State Fault Refusal := commit (opKpop f s) s

/-- VCVT (R148). -/
def opVcvt (f : VF) (s : State) : Res :=
  vecOp f true false .ui32 6 (vtOfCode f.ty).w (fun a _ _ => vcvt (vtOfCode f.md) (vtOfCode f.ty) s.cur.rnd a) s

/-- The meaning of VCVT. -/
def execVcvt (f : VF) (s : State) : Host.Outcome State Fault Refusal := commit (opVcvt f s) s

/-- VSRND (R151). -/
def opVsrnd (f : VF) (s : State) : Res :=
  vecOp f true true .ui32 6 32 (fun a b _ => vsrnd (srTargetOf f.md.toNat) a b) s

/-- The meaning of VSRND. -/
def execVsrnd (f : VF) (s : State) : Host.Outcome State Fault Refusal := commit (opVsrnd f s) s

/-- VPACK (R149). -/
def opVpack (f : VF) (s : State) : Res :=
  let t := vtOfCode f.ty
  let kind := f.md.toNat % 4
  vecOp f true true (packSrc t kind) 6 (if t = .ui8 ∧ kind = 3 then 6 else t.w) (vpack t kind (f.md.toNat ≥ 4) s.cur.rnd) s

/-- The meaning of VPACK. -/
def execVpack (f : VF) (s : State) : Host.Outcome State Fault Refusal := commit (opVpack f s) s

/-- VUNPK (R150). -/
def opVunpk (f : VF) (s : State) : Res :=
  vecOp f true false .ui32 6 32 (fun a _ _ => vunpk (vtOfCode f.ty) f.md.toNat (f.vb.toNat % 4) a) s

/-- The meaning of VUNPK. -/
def execVunpk (f : VF) (s : State) : Host.Outcome State Fault Refusal := commit (opVunpk f s) s

/-- VEXP2 (R152). -/
def opVexp2 (f : VF) (s : State) : Res :=
  vecUn f 12 (fun t _ a _ _ => fUnary t.ff Fv.exp2 a) s

/-- The meaning of VEXP2. -/
def execVexp2 (f : VF) (s : State) : Host.Outcome State Fault Refusal := commit (opVexp2 f s) s

/-- VLOG2 (R152). -/
def opVlog2 (f : VF) (s : State) : Res :=
  vecUn f 12 (fun t _ a _ _ => fUnary t.ff Fv.logTwo a) s

/-- The meaning of VLOG2. -/
def execVlog2 (f : VF) (s : State) : Host.Outcome State Fault Refusal := commit (opVlog2 f s) s

/-- VRCP (R152). -/
def opVrcp (f : VF) (s : State) : Res :=
  vecUn f 14 (fun t _ a _ _ => fUnary t.ff Fv.rcp a) s

/-- The meaning of VRCP. -/
def execVrcp (f : VF) (s : State) : Host.Outcome State Fault Refusal := commit (opVrcp f s) s

/-- VRSQ (R152). -/
def opVrsq (f : VF) (s : State) : Res :=
  vecUn f 14 (fun t _ a _ _ => fUnary t.ff Fv.rsq a) s

/-- The meaning of VRSQ. -/
def execVrsq (f : VF) (s : State) : Host.Outcome State Fault Refusal := commit (opVrsq f s) s

/-- VSQRT (R152). -/
def opVsqrt (f : VF) (s : State) : Res :=
  vecUn f 14 (fun t _ a _ _ => fUnary t.ff Fv.sqrt a) s

/-- The meaning of VSQRT. -/
def execVsqrt (f : VF) (s : State) : Host.Outcome State Fault Refusal := commit (opVsqrt f s) s

/-- VSCALE (R141). -/
def opVscale (f : VF) (s : State) : Res :=
  let t := vtOfCode f.ty
  vecOp f true true (if t.w = 32 then .i32 else .i16) 6 t.w (elementwise t (eScale t s.cur.rnd)) s

/-- The meaning of VSCALE. -/
def execVscale (f : VF) (s : State) : Host.Outcome State Fault Refusal := commit (opVscale f s) s

/-- VROUND (R141). -/
def opVround (f : VF) (s : State) : Res :=
  vecUn f 6 (eRound) s

/-- The meaning of VROUND. -/
def execVround (f : VF) (s : State) : Host.Outcome State Fault Refusal := commit (opVround f s) s

/-- VCPSGN (R141). -/
def opVcpsgn (f : VF) (s : State) : Res :=
  vecBin f 4 (fun t _ => eCpsgn t f.md.toNat) s

/-- The meaning of VCPSGN. -/
def execVcpsgn (f : VF) (s : State) : Host.Outcome State Fault Refusal := commit (opVcpsgn f s) s

/-- VREDSUM (R153). -/
def opVredsum (f : VF) (s : State) : Res :=
  vecOp (everyLane f) true false .ui32 16 32 (fun a _ _ => splat 32 (vredsum (vtOfCode f.ty) (s.cur.mask f.mask.toNat) a)) s

/-- The meaning of VREDSUM. -/
def execVredsum (f : VF) (s : State) : Host.Outcome State Fault Refusal := commit (opVredsum f s) s

/-- VREDMAX (R153). -/
def opVredmax (f : VF) (s : State) : Res :=
  vecOp (everyLane f) true false .ui32 16 32 (fun a _ _ => splat 32 (vredmm (vtOfCode f.ty) true (s.cur.mask f.mask.toNat) a)) s

/-- The meaning of VREDMAX. -/
def execVredmax (f : VF) (s : State) : Host.Outcome State Fault Refusal := commit (opVredmax f s) s

/-- VREDMIN (R153). -/
def opVredmin (f : VF) (s : State) : Res :=
  vecOp (everyLane f) true false .ui32 16 32 (fun a _ _ => splat 32 (vredmm (vtOfCode f.ty) false (s.cur.mask f.mask.toNat) a)) s

/-- The meaning of VREDMIN. -/
def execVredmin (f : VF) (s : State) : Host.Outcome State Fault Refusal := commit (opVredmin f s) s

/-- VMAXIDX (R154). -/
def opVmaxidx (f : VF) (s : State) : Res :=
  vecOp (everyLane f) true true (vtOfCode f.ty) 16 32 (fun a b _ => vmaxidx (vtOfCode f.ty) (s.cur.mask f.mask.toNat) a b) s

/-- The meaning of VMAXIDX. -/
def execVmaxidx (f : VF) (s : State) : Host.Outcome State Fault Refusal := commit (opVmaxidx f s) s

/-- VPREFIX (R155). -/
def opVprefix (f : VF) (s : State) : Res :=
  vecOp f true false .ui32 18 (vtOfCode f.ty).w (fun a _ _ => vprefix (vtOfCode f.ty) (s.cur.mask f.mask.toNat) a) s

/-- The meaning of VPREFIX. -/
def execVprefix (f : VF) (s : State) : Host.Outcome State Fault Refusal := commit (opVprefix f s) s

/-- VPERM (R156). -/
def opVperm (f : VF) (s : State) : Res :=
  vecOp f true true .ui32 8 32 (fun a b _ => vperm a b) s

/-- The meaning of VPERM. -/
def execVperm (f : VF) (s : State) : Host.Outcome State Fault Refusal := commit (opVperm f s) s

/-- VXGRP (R157). -/
def opVxgrp (f : VF) (s : State) : Res :=
  vecOp f true false .ui32 24 32 (fun a _ _ => vxgrp f.md.toNat a (indexOf s f)) s

/-- The meaning of VXGRP. -/
def execVxgrp (f : VF) (s : State) : Host.Outcome State Fault Refusal := commit (opVxgrp f s) s

/-- VBCAST (R156). -/
def opVbcast (f : VF) (s : State) : Res :=
  vecOp f true false .ui32 8 32 (fun a _ _ => vbcast a (indexOf s f)) s

/-- The meaning of VBCAST. -/
def execVbcast (f : VF) (s : State) : Host.Outcome State Fault Refusal := commit (opVbcast f s) s

/-- VSLIDE (R156). The shift is the second source of type 110: of a scalar, its low 32 bits (R72). -/
def opVslide (f : VF) (s : State) : Res :=
  vecOp f true false .ui32 8 32 (fun a _ _ => vslide f.md.toNat a (indexOf s f % 2 ^ 32)) s

/-- The meaning of VSLIDE. -/
def execVslide (f : VF) (s : State) : Host.Outcome State Fault Refusal := commit (opVslide f s) s

/-- VIOTA (R147). -/
def opViota (f : VF) (s : State) : Res :=
  vecOp f false false .ui32 4 32 (fun _ _ _ => viota (s.cur.mask f.md.toNat)) s

/-- The meaning of VIOTA. -/
def execViota (f : VF) (s : State) : Host.Outcome State Fault Refusal := commit (opViota f s) s

/-- VMOV (R158). A broadcast scalar gives its low 32 bits to each lane. Assumption log 90 (DEDUCED). -/
def opVmov (f : VF) (s : State) : Res :=
  vecOp f false true .ui32 4 32 (fun _ b _ => b) s

/-- The meaning of VMOV. -/
def execVmov (f : VF) (s : State) : Host.Outcome State Fault Refusal := commit (opVmov f s) s

/-- VEXT (R158). -/
def opVext (f : VF) (s : State) : Res :=
  vcheck s [f.va.toNat] none (fun _ =>
    let r := vext (vtOfCode f.ty) (s.vread (s.cur.vsrc f.va.toNat)) (indexOf s f)
    .ok (fun t => (popAll s.cur [f.va.toNat] t).landS f.vd.toNat r 6))

/-- The meaning of VEXT. -/
def execVext (f : VF) (s : State) : Host.Outcome State Fault Refusal := commit (opVext f s) s

/-- VINS (R158). -/
def opVins (f : VF) (s : State) : Res :=
  let t := vtOfCode f.ty
  let x := indexOf s f
  vcheck s [] (some f.vd.toNat) (fun _ =>
    if 128 * t.k ≤ x then .ok id
    else
      let v := splat t.w ((s.cur.rd f.va.toNat).toNat % 2 ^ t.w)
      .ok (fun u => u.land s.foc.core s.foc.ctx (.vreg (s.cur.phys f.vd.toNat) (elemParts t.w x) v t.w) 6))

/-- The meaning of VINS. -/
def execVins (f : VF) (s : State) : Host.Outcome State Fault Refusal := commit (opVins f s) s

/-- VMIX (R159). -/
def opVmix (f : VF) (s : State) : Res :=
  vecOp f true true .ui32 6 32 (fun a b _ => vmixAll a b) s

/-- The meaning of VMIX. -/
def execVmix (f : VF) (s : State) : Host.Outcome State Fault Refusal := commit (opVmix f s) s

/-- VDOT4 (R159). -/
def opVdot4 (f : VF) (s : State) : Res :=
  vecOp f true true (vtOfCode f.ty) 6 32 (vdot4 (vtOfCode f.ty) (f.md == 1) s.cur.rnd) s

/-- The meaning of VDOT4. -/
def execVdot4 (f : VF) (s : State) : Host.Outcome State Fault Refusal := commit (opVdot4 f s) s

/-- VMADI (R159). -/
def opVmadi (f : VF) (s : State) : Res :=
  vecBin f 6 (fun t _ => eMadi t (f.md == 1)) s

/-- The meaning of VMADI. -/
def execVmadi (f : VF) (s : State) : Host.Outcome State Fault Refusal := commit (opVmadi f s) s

/-- VBITC (R142). -/
def opVbitc (f : VF) (s : State) : Res :=
  vecUn f 4 (fun t _ a _ _ => bitCount f.md.toNat t.w a) s

/-- The meaning of VBITC. -/
def execVbitc (f : VF) (s : State) : Host.Outcome State Fault Refusal := commit (opVbitc f s) s

/-- VFIN (R160). -/
def opVfin (f : VF) (s : State) : Res :=
  let ty := vtOfCode f.ty
  match vecUn f 4 (fun t _ => eFin t (f.md == 1)) s with
  | .ok u =>
    let b := vfinBits ty (s.cur.mask f.mask.toNat) (s.vread (s.cur.vsrc f.va.toNat))
    .ok (fun t => (u t).land s.foc.core s.foc.ctx (.vfs b) 8)
  | r => r

/-- The meaning of VFIN. -/
def execVfin (f : VF) (s : State) : Host.Outcome State Fault Refusal := commit (opVfin f s) s

/-- VLUT (R159). -/
def opVlut (f : VF) (s : State) : Res :=
  vecOp f true true .ui8 8 8 (fun a b _ => vlut (f.md == 1) a b) s

/-- The meaning of VLUT. -/
def execVlut (f : VF) (s : State) : Host.Outcome State Fault Refusal := commit (opVlut f s) s

end Sys2Proof.Machine
end

