-- ==== Sys2Proof/Machine/Slots.lean ====
section
/-! DEFINITION. The operations of the slots of a bundle, each by its constructor: what it does at its issue, which
registers it reads, and which scalar register, mask or predicate it writes (R66, R98, R101, R140). -/

set_option Elab.async false

namespace Sys2Proof.Machine

/-- A slot operation at its issue, for the slot in focus; an event is no slot operation. -/
def runSlot (i : Instr) (s : State) : Res :=
  match i with
  | .add g d a b => opAdd g d a b s
  | .sub g d a b => opSub g d a b s
  | .addi g d a imm => opAddi g d a imm s
  | .mul g d a b => opMul g d a b s
  | .mulhi g d a b => opMulhi g d a b s
  | .mulhu g d a b => opMulhu g d a b s
  | .div g d a b => opDiv g d a b s
  | .divu g d a b => opDivu g d a b s
  | .rem g d a b => opRem g d a b s
  | .remu g d a b => opRemu g d a b s
  | .and g d a b => opAnd g d a b s
  | .or g d a b => opOr g d a b s
  | .xor g d a b => opXor g d a b s
  | .andn g d a b => opAndn g d a b s
  | .shl g d a b => opShl g d a b s
  | .shlImm g d a n => opShlImm g d a n s
  | .shrl g d a b => opShrl g d a b s
  | .shrlImm g d a n => opShrlImm g d a n s
  | .shra g d a b => opShra g d a b s
  | .shraImm g d a n => opShraImm g d a n s
  | .min g d a b => opMin g d a b s
  | .max g d a b => opMax g d a b s
  | .minu g d a b => opMinu g d a b s
  | .maxu g d a b => opMaxu g d a b s
  | .sethi g d a imm => opSethi g d a imm s
  | .cmp g c q a b => opCmp g c q a b s
  | .cmpi g c q a imm => opCmpi g c q a imm s
  | .sel g neg d a b => opSel g neg d a b s
  | .plog g op q qa qb => opPlog g op q qa qb s
  | .bitc g op d a => opBitc g op d a s
  | .fadd g p d a b => opFadd g p d a b s
  | .fsub g p d a b => opFsub g p d a b s
  | .fmul g p d a b => opFmul g p d a b s
  | .fma g p d a b => opFma g p d a b s
  | .fdiv g p d a b => opFdiv g p d a b s
  | .fsqrt g p d a => opFsqrt g p d a s
  | .fminmax g mx p d a b => opFminmax g mx p d a b s
  | .fcmp g c p q a b => opFcmp g c p q a b s
  | .fcvt g kind d a => opFcvt g kind d a s
  | .gets g d num => opGets g d num s
  | .sets g a num => opSets g a num s
  | .sld g d a imm => opSld g d a imm s
  | .sst g d a imm => opSst g d a imm s
  | .vadd f => opVadd f s
  | .vsub f => opVsub f s
  | .vmul f => opVmul f s
  | .vfma f => opVfma f s
  | .vfms f => opVfms f s
  | .vmin f => opVmin f s
  | .vmax f => opVmax f s
  | .vabs f => opVabs f s
  | .vneg f => opVneg f s
  | .vabd f => opVabd f s
  | .vmulh f => opVmulh f s
  | .vclamp f => opVclamp f s
  | .vand f => opVand f s
  | .vor f => opVor f s
  | .vxor f => opVxor f s
  | .vnot f => opVnot f s
  | .vshl f => opVshl f s
  | .vshr f => opVshr f s
  | .vcmp f => opVcmp f s
  | .vclass f => opVclass f s
  | .vsel f => opVsel f s
  | .klog f => opKlog f s
  | .kpop f => opKpop f s
  | .vcvt f => opVcvt f s
  | .vsrnd f => opVsrnd f s
  | .vpack f => opVpack f s
  | .vunpk f => opVunpk f s
  | .vexp2 f => opVexp2 f s
  | .vlog2 f => opVlog2 f s
  | .vrcp f => opVrcp f s
  | .vrsq f => opVrsq f s
  | .vsqrt f => opVsqrt f s
  | .vscale f => opVscale f s
  | .vround f => opVround f s
  | .vcpsgn f => opVcpsgn f s
  | .vredsum f => opVredsum f s
  | .vredmax f => opVredmax f s
  | .vredmin f => opVredmin f s
  | .vmaxidx f => opVmaxidx f s
  | .vprefix f => opVprefix f s
  | .vperm f => opVperm f s
  | .vxgrp f => opVxgrp f s
  | .vbcast f => opVbcast f s
  | .vslide f => opVslide f s
  | .viota f => opViota f s
  | .vmov f => opVmov f s
  | .vext f => opVext f s
  | .vins f => opVins f s
  | .vmix f => opVmix f s
  | .vdot4 f => opVdot4 f s
  | .vmadi f => opVmadi f s
  | .vbitc f => opVbitc f s
  | .vfin f => opVfin f s
  | .vlut f => opVlut f s
  | .mma f => opMma f s
  | .mmab f => opMmab f s
  | .mzero f => opMzero f s
  | .mload f => opMload f s
  | .mdrain f => opMdrain f s
  | .madd f => opMadd f s
  | .mscl f => opMscl f s
  | .mtrn f => opMtrn f s
  | .mstat f => opMstat f s
  | .mscan f => opMscan f s
  | .mscanf f => opMscanf f s
  | .mscanr f => opMscanr f s
  | .cvInit f => opCvInit f s
  | .cvProbe f => opCvProbe f s
  | .cvCommit f => opCvCommit f s
  | .cvRead f => opCvRead f s
  | .sigFold f => opSigFold f s
  | .sigCheck f => opSigCheck f s
  | .sigGet f => opSigGet f s
  | .mred f => opMred f s
  | .mgate f => opMgate f s
  | .mcopy f => opMcopy f s
  | .cpy c f => opCpy c f s
  | .strm c f => opStrm c f s
  | .ring c f => opRing c f s
  | .wdef c f => opWdef c f s
  | .wadv c f => opWadv c f s
  | .wrel c f => opWrel c f s
  | .stow c f => opStow c f s
  | .patchOpen c f => opPatchOpen c f s
  | .patchSeal c f => opPatchSeal c f s
  | .patchApply c f => opPatchApply c f s
  | .patchInvert c f => opPatchInvert c f s
  | .patchCommute c f => opPatchCommute c f s
  | .patchTransplant c f => opPatchTransplant c f s
  | .patchSquash c f => opPatchSquash c f s
  | .patchDiscard c f => opPatchDiscard c f s
  | .rayFork c f => opRayFork c f s
  | .patchQuery c f => opPatchQuery c f s
  | .scat c f => opScat c f s
  | .gath c f => opGath c f s
  | .syncAdd c f => opSyncAdd c f s
  | .syncMax c f => opSyncMax c f s
  | .syncOr c f => opSyncOr c f s
  | .syncCas c f => opSyncCas c f s
  | .syncSwap c f => opSyncSwap c f s
  | .syncLda c f => opSyncLda c f s
  | .syncStl c f => opSyncStl c f s
  | .qpush c f => opQpush c f s
  | .qpop c f => opQpop c f s
  | .send c f => opSend c f s
  | .recv c f => opRecv c f s
  | .tjoin c f => opTjoin c f s
  | .lnch c f => opLnch c f s
  | .btree shape t0 t1 t2 t3 d0 d1 d2 d3 => opBtree shape t0 t1 t2 t3 d0 d1 d2 d3 s
  | .jump g off => opJump g off s
  | .call g l off => opCall g l off s
  | .ret g a => opRet g a s
  | .loop g lvl b rg cnt => opLoop g lvl b rg cnt s
  | .leave g lvl => opLeave g lvl s
  | .imx imm => opImx imm s
  | .nxt g => opNxt g s
  | .wait g kind opd => opWait g kind opd s
  | .fence g scope kind => opFence g scope kind s
  | .vjoin g => opVjoin g s
  | .bar g scope slot mode => opBar g scope slot mode s
  | .estAdd g a f => opEstAdd g a f s
  | .trap g code => opTrap g code s
  | .bkpt g code => opBkpt g code s
  | .halt g => opHalt g s
  | .sclSetImm entry value => opSclSetImm entry value s
  | .sclSetReg entry a => opSclSetReg entry a s
  | .sclLdv v => opSclLdv v s
  | .bfmt bank scl fmt => opBfmt bank scl fmt s
  | .shape h a b => opShape h a b s
  | .xset x a => opXset x a s
  | .xstepReg x lvl a => opXstepReg x lvl a s
  | .xstepImm x lvl imm => opXstepImm x lvl imm s
  | .cpat a => opCpat a s
  | .qbndImm value => opQbndImm value s
  | .qbndReg a => opQbndReg a s
  | .rmodeImm mode => opRmodeImm mode s
  | .rmodeReg a => opRmodeReg a s
  | .ssmCfgImm value => opSsmCfgImm value s
  | .ssmCfgReg a => opSsmCfgReg a s
  | .sigSet t a => opSigSet t a s
  | .tkclr mask => opTkclr mask s
  | .bundleIssue _ => .ok id
  | .runSchedule _ => .ok id
  | .runOverrun _ => .ok id
  | .quietOverrun _ => .ok id
  | .resultLanding _ _ _ => .ok id
  | .mxOpStart _ _ => .ok id
  | .mxOpCompletion _ _ => .ok id
  | .dOperationStart _ _ => .ok id
  | .copyCompletion _ _ => .ok id
  | .strmVectorEntry _ _ => .ok id
  | .ringShiftStart _ _ => .ok id
  | .windowRowFetch _ _ => .ok id
  | .scatterUpdate _ _ => .ok id
  | .tokenJoinCompletion _ _ => .ok id
  | .nameReserveRefill _ _ => .ok id
  | .patchEngineOperation _ _ => .ok id
  | .atomicUnitOperation _ _ => .ok id
  | .launchDispatch _ => .ok id
  | .dependenceTest _ _ => .ok id
  | .codePageFill _ _ _ => .ok id
  | .evictionSave _ _ => .ok id
  | .evictionResume _ _ => .ok id
  | .haltWaitEvent _ => .ok id
  | .launchRetirement _ => .ok id
  | .deferredAutoApply _ _ => .ok id
  | .rollback _ => .ok id
  | .faultResume _ _ _ => .ok id
  | .faultResumeStepOver _ _ _ => .ok id
  | .faultTerminate _ _ => .ok id
  | .queueMissService _ _ => .ok id
  | .intakeAcceptance _ _ => .ok id
  | .nxtLanding _ _ => .ok id
  | .stepBlockRefill _ _ => .ok id
  | .sendQueueEntry _ _ => .ok id
  | .flitArrival _ _ _ _ => .ok id
  | .recvGrant _ _ => .ok id
  | .linkReceiveTimeout _ _ => .ok id
  | .remoteAccess _ _ => .ok id
  | .remoteAccessAck _ _ => .ok id
  | .revocationStorageFree _ _ => .ok id
  | .migrationCopyDone _ _ => .ok id
  | .pullLineFetch _ _ _ => .ok id
  | .pullCompletion _ _ => .ok id
  | .partialEstimatorSample _ => .ok id
  | .batchMerge _ => .ok id
  | .stopReceipt _ _ => .ok id
  | .remainderMerge _ => .ok id
  | .scrubRead _ => .ok id
  | .powerEstimate _ _ _ => .ok id
  | .powerGood _ => .ok id
  | .firmwareRegisterWrite _ _ _ => .ok id
  | .hostWrite _ _ => .ok id
  | .hostRead _ _ => .ok id
  | .hostAtomicAdd _ _ => .ok id
  | .hostAtomicMax _ _ => .ok id
  | .hostAtomicOr _ _ => .ok id
  | .hostAtomicCas _ _ => .ok id
  | .hostAtomicSwap _ _ => .ok id
  | .hostAtomicLda _ _ => .ok id
  | .hostAtomicStl _ _ => .ok id
  | .coreCycle _ => .ok id
  | .flitRetry => .ok id
  | .pullBackgroundFetch => .ok id
  | .thermalTrip => .ok id
  | .thermalRecovery => .ok id
  | .watchdogReset => .ok id
  | .map => .ok id
  | .unmap => .ok id
  | .createq => .ok id
  | .destroyq => .ok id
  | .opench => .ok id
  | .closech => .ok id
  | .attest => .ok id
  | .createp => .ok id
  | .destroyp => .ok id
  | .rmray => .ok id
  | .migrate => .ok id
  | .malformedMailboxRecord => .ok id

/-- What an operation reads at its issue: scalar registers, predicates, masks and vector codes. -/
structure Reads where
  s : List Nat
  q : List Nat
  k : List Nat
  v : List Nat
  deriving DecidableEq, Repr

/-- The predicate that a guard names. -/
def guardQ (g : BitVec 5) : List Nat := [g.toNat % 16]

/-- Scalar registers and a guard. -/
def readsS (g : BitVec 5) (rs : List (BitVec 6)) : Reads := { s := rs.map (·.toNat), q := guardQ g, k := [], v := [] }

/-- A vector operation: its mask, its sources and, with `d`, its old destination. -/
def readsV (f : VF) (a b d : Bool) : Reads :=
  { s := if b && f.bs == 1 then [f.vb.toNat % 64] else [], q := [], k := [f.mask.toNat],
    v := vecSrcs f a b ++ if d then [f.vd.toNat] else [] }

/-- A patch operand held in a scalar register (R253). -/
def readsP (p : BitVec 7) : List Nat := if pScalar p then [p.toNat % 64] else []

/-- A D operation: its guard, and scalar registers by number. -/
def readsD (c : DC) (rs : List Nat) : Reads := { s := rs, q := guardQ c.g, k := [], v := [] }

/-- An operation of the CF slot. -/
def readsF (rs : List (BitVec 6)) : Reads := { s := rs.map (·.toNat), q := [], k := [], v := [] }

/-- R118: the tests that a shape of BTREE uses. -/
def btreeTests (shape : BitVec 3) (t0 t1 t2 t3 : BitVec 5) : List (BitVec 5) :=
  match shape.toNat with
  | 0 => [t0]
  | 1 => [t0, t1]
  | 2 => [t0, t1, t2]
  | 4 => [t0, t1, t2]
  | _ => [t0, t1, t2, t3]

/-- What each slot operation reads at its issue: of a vector source every lane, whatever the mask selects, and the whole old
destination of VINS and of VPACK (R136). Assumption log 101 (DEDUCED). -/
def reads (i : Instr) : Reads :=
  match i with
  | .add g _ a b => readsS g [a, b]
  | .sub g _ a b => readsS g [a, b]
  | .addi g _ a _ => readsS g [a]
  | .mul g _ a b => readsS g [a, b]
  | .mulhi g _ a b => readsS g [a, b]
  | .mulhu g _ a b => readsS g [a, b]
  | .div g _ a b => readsS g [a, b]
  | .divu g _ a b => readsS g [a, b]
  | .rem g _ a b => readsS g [a, b]
  | .remu g _ a b => readsS g [a, b]
  | .and g _ a b => readsS g [a, b]
  | .or g _ a b => readsS g [a, b]
  | .xor g _ a b => readsS g [a, b]
  | .andn g _ a b => readsS g [a, b]
  | .shl g _ a b => readsS g [a, b]
  | .shlImm g _ a _ => readsS g [a]
  | .shrl g _ a b => readsS g [a, b]
  | .shrlImm g _ a _ => readsS g [a]
  | .shra g _ a b => readsS g [a, b]
  | .shraImm g _ a _ => readsS g [a]
  | .min g _ a b => readsS g [a, b]
  | .max g _ a b => readsS g [a, b]
  | .minu g _ a b => readsS g [a, b]
  | .maxu g _ a b => readsS g [a, b]
  | .sethi g _ a _ => readsS g [a]
  | .cmp g _ _ a b => readsS g [a, b]
  | .cmpi g _ _ a _ => readsS g [a]
  | .sel g _ d a b => readsS g [d, a, b]
  | .plog g _ _ qa qb => { s := [], q := guardQ g ++ [qa.toNat, qb.toNat], k := [], v := [] }
  | .bitc g _ _ a => readsS g [a]
  | .fadd g _ _ a b => readsS g [a, b]
  | .fsub g _ _ a b => readsS g [a, b]
  | .fmul g _ _ a b => readsS g [a, b]
  | .fma g _ d a b => readsS g [d, a, b]
  | .fdiv g _ _ a b => readsS g [a, b]
  | .fsqrt g _ _ a => readsS g [a]
  | .fminmax g _ _ _ a b => readsS g [a, b]
  | .fcmp g _ _ _ a b => readsS g [a, b]
  | .fcvt g _ _ a => readsS g [a]
  | .gets g _ _ => readsS g []
  | .sets g a _ => readsS g [a]
  | .sld g _ a _ => readsS g [a]
  | .sst g d a _ => readsS g [d, a]
  | .vadd f => readsV f true true false
  | .vsub f => readsV f true true false
  | .vmul f => readsV f true true false
  | .vfma f => readsV f true true true
  | .vfms f => readsV f true true true
  | .vmin f => readsV f true true false
  | .vmax f => readsV f true true false
  | .vabs f => readsV f true false false
  | .vneg f => readsV f true false false
  | .vabd f => readsV f true true false
  | .vmulh f => readsV f true true false
  | .vclamp f => readsV f true true true
  | .vand f => readsV f true true false
  | .vor f => readsV f true true false
  | .vxor f => readsV f true true false
  | .vnot f => readsV f true false false
  | .vshl f => readsV f true true false
  | .vshr f => readsV f true true false
  | .vcmp f => readsV f true true false
  | .vclass f => readsV f true false false
  | .vsel f => { readsV f true true false with k := [f.mask.toNat, f.md.toNat] }
  | .klog f => { s := [], q := [], k := [f.va.toNat, f.vb.toNat], v := [] }
  | .kpop f => { s := [], q := [], k := [f.va.toNat], v := [] }
  | .vcvt f => readsV f true false false
  | .vsrnd f => readsV f true true false
  | .vpack f => readsV f true true true
  | .vunpk f => readsV f true false false
  | .vexp2 f => readsV f true false false
  | .vlog2 f => readsV f true false false
  | .vrcp f => readsV f true false false
  | .vrsq f => readsV f true false false
  | .vsqrt f => readsV f true false false
  | .vscale f => readsV f true true false
  | .vround f => readsV f true false false
  | .vcpsgn f => readsV f true true false
  | .vredsum f => readsV f true false false
  | .vredmax f => readsV f true false false
  | .vredmin f => readsV f true false false
  | .vmaxidx f => readsV f true true false
  | .vprefix f => readsV f true false false
  | .vperm f => readsV f true true false
  | .vxgrp f => readsV f true true false
  | .vbcast f => readsV f true true false
  | .vslide f => readsV f true true false
  | .viota f => { s := [], q := [], k := [f.mask.toNat, f.md.toNat], v := [] }
  | .vmov f => readsV f false true false
  | .vext f => { readsV f true true false with k := [] }
  | .vins f => { readsV f false true true with s := [f.va.toNat % 64] ++ (if f.bs == 1 then [f.vb.toNat % 64] else []) }
  | .vmix f => readsV f true true false
  | .vdot4 f => readsV f true true true
  | .vmadi f => readsV f true true true
  | .vbitc f => readsV f true false false
  | .vfin f => readsV f true false false
  | .vlut f => readsV f true true false
  | .mma f => readsS f.g []
  | .mmab f => readsS f.g []
  | .mzero f => readsS f.g []
  | .mload f => readsS f.g []
  | .mdrain f => readsS f.g []
  | .madd f => readsS f.g []
  | .mscl f => readsS f.g []
  | .mtrn f => readsS f.g []
  | .mstat f => readsS f.g []
  | .mscan f => readsS f.g []
  | .mscanf f => readsS f.g []
  | .mscanr f => readsS f.g []
  | .cvInit f => readsS f.g []
  | .cvProbe f => readsS f.g []
  | .cvCommit f => readsS f.g []
  | .cvRead f => readsS f.g []
  | .sigFold f => readsS f.g []
  | .sigCheck f => readsS f.g []
  | .sigGet f => readsS f.g []
  | .mred f => readsS f.g []
  | .mgate f => readsS f.g []
  | .mcopy f => readsS f.g []
  | .cpy c f => readsD c (if f.ssp = 3 then [f.sh.toNat] else [])
  | .strm c f => readsD c (if f.ssp = 3 then [f.sh.toNat] else [])
  | .ring c _ => readsD c []
  | .wdef c f => { readsD c [] with v := [f.v.toNat] }
  | .wadv c f => readsD c (if f.s then [f.n.toNat / 2 ^ 10] else [])
  | .wrel c _ => readsD c []
  | .stow c f => readsD c (readsP f.p)
  | .patchOpen c f => readsD c [f.st.toNat]
  | .patchSeal c f => readsD c (readsP f.p)
  | .patchApply c f => readsD c (readsP f.p)
  | .patchInvert c f => readsD c (readsP f.p)
  | .patchCommute c f => readsD c (readsP f.p ++ readsP f.q)
  | .patchTransplant c f => readsD c (readsP f.p ++ [f.st.toNat, f.so.toNat])
  | .patchSquash c f => readsD c (readsP f.p ++ readsP f.q)
  | .patchDiscard c f => readsD c (readsP f.p)
  | .rayFork c f => readsD c ([f.st.toNat] ++ if f.s then [f.h.toNat / 2 ^ 6] else [])
  | .patchQuery c f => readsD c (readsP f.p ++ readsP f.q)
  | .scat c _ => readsD c []
  | .gath c _ => readsD c []
  | .syncAdd c f => readsD c [f.h.toNat, f.o.toNat, f.v.toNat, f.n.toNat]
  | .syncMax c f => readsD c [f.h.toNat, f.o.toNat, f.v.toNat, f.n.toNat]
  | .syncOr c f => readsD c [f.h.toNat, f.o.toNat, f.v.toNat, f.n.toNat]
  | .syncCas c f => readsD c [f.h.toNat, f.o.toNat, f.v.toNat, f.n.toNat]
  | .syncSwap c f => readsD c [f.h.toNat, f.o.toNat, f.v.toNat, f.n.toNat]
  | .syncLda c f => readsD c [f.h.toNat, f.o.toNat, f.v.toNat, f.n.toNat]
  | .syncStl c f => readsD c [f.h.toNat, f.o.toNat, f.v.toNat, f.n.toNat]
  | .qpush c f => readsD c [f.q.toNat]
  | .qpop c f => readsD c [f.q.toNat]
  | .send c f => readsD c [f.p.toNat]
  | .recv c f => readsD c [f.p.toNat, f.t.toNat]
  | .tjoin c _ => readsD c []
  | .lnch c _ => readsD c []
  | .btree sh t0 t1 t2 t3 _ _ _ _ => { s := [], q := (btreeTests sh t0 t1 t2 t3).flatMap guardQ, k := [], v := [] }
  | .jump g _ => readsS g []
  | .call g _ _ => readsS g []
  | .ret g a => readsS g [a]
  | .loop g _ _ rg cnt => { s := if rg then [cnt.toNat / 2 ^ 18] else [], q := guardQ g, k := [], v := [] }
  | .leave g _ => readsS g []
  | .imx _ => { s := [], q := [], k := [], v := [] }
  | .nxt g => readsS g []
  | .wait g kind opd => { s := if kind = 1 ∨ kind = 2 then [opd.toNat] else [], q := guardQ g, k := [], v := [] }
  | .fence g _ _ => readsS g []
  | .vjoin g => readsS g []
  | .bar g _ _ _ => readsS g []
  | .estAdd g a _ => readsS g [a]
  | .trap g _ => readsS g []
  | .bkpt g _ => readsS g []
  | .halt g => readsS g []
  | .sclSetImm _ _ => readsF []
  | .sclSetReg _ a => readsF [a]
  | .sclLdv v => { s := [], q := [], k := [], v := [v.toNat] }
  | .bfmt _ _ _ => readsF []
  | .shape _ a b => readsF [a, b]
  | .xset _ a => readsF [a]
  | .xstepReg _ _ a => readsF [a]
  | .xstepImm _ _ _ => readsF []
  | .cpat a => readsF [a]
  | .qbndImm _ => readsF []
  | .qbndReg a => readsF [a]
  | .rmodeImm _ => readsF []
  | .rmodeReg a => readsF [a]
  | .ssmCfgImm _ => readsF []
  | .ssmCfgReg a => readsF [a]
  | .sigSet _ a => readsF [a]
  | .tkclr _ => readsF []
  | .bundleIssue _ => { s := [], q := [], k := [], v := [] }
  | .runSchedule _ => { s := [], q := [], k := [], v := [] }
  | .runOverrun _ => { s := [], q := [], k := [], v := [] }
  | .quietOverrun _ => { s := [], q := [], k := [], v := [] }
  | .resultLanding _ _ _ => { s := [], q := [], k := [], v := [] }
  | .mxOpStart _ _ => { s := [], q := [], k := [], v := [] }
  | .mxOpCompletion _ _ => { s := [], q := [], k := [], v := [] }
  | .dOperationStart _ _ => { s := [], q := [], k := [], v := [] }
  | .copyCompletion _ _ => { s := [], q := [], k := [], v := [] }
  | .strmVectorEntry _ _ => { s := [], q := [], k := [], v := [] }
  | .ringShiftStart _ _ => { s := [], q := [], k := [], v := [] }
  | .windowRowFetch _ _ => { s := [], q := [], k := [], v := [] }
  | .scatterUpdate _ _ => { s := [], q := [], k := [], v := [] }
  | .tokenJoinCompletion _ _ => { s := [], q := [], k := [], v := [] }
  | .nameReserveRefill _ _ => { s := [], q := [], k := [], v := [] }
  | .patchEngineOperation _ _ => { s := [], q := [], k := [], v := [] }
  | .atomicUnitOperation _ _ => { s := [], q := [], k := [], v := [] }
  | .launchDispatch _ => { s := [], q := [], k := [], v := [] }
  | .dependenceTest _ _ => { s := [], q := [], k := [], v := [] }
  | .codePageFill _ _ _ => { s := [], q := [], k := [], v := [] }
  | .evictionSave _ _ => { s := [], q := [], k := [], v := [] }
  | .evictionResume _ _ => { s := [], q := [], k := [], v := [] }
  | .haltWaitEvent _ => { s := [], q := [], k := [], v := [] }
  | .launchRetirement _ => { s := [], q := [], k := [], v := [] }
  | .deferredAutoApply _ _ => { s := [], q := [], k := [], v := [] }
  | .rollback _ => { s := [], q := [], k := [], v := [] }
  | .faultResume _ _ _ => { s := [], q := [], k := [], v := [] }
  | .faultResumeStepOver _ _ _ => { s := [], q := [], k := [], v := [] }
  | .faultTerminate _ _ => { s := [], q := [], k := [], v := [] }
  | .queueMissService _ _ => { s := [], q := [], k := [], v := [] }
  | .intakeAcceptance _ _ => { s := [], q := [], k := [], v := [] }
  | .nxtLanding _ _ => { s := [], q := [], k := [], v := [] }
  | .stepBlockRefill _ _ => { s := [], q := [], k := [], v := [] }
  | .sendQueueEntry _ _ => { s := [], q := [], k := [], v := [] }
  | .flitArrival _ _ _ _ => { s := [], q := [], k := [], v := [] }
  | .recvGrant _ _ => { s := [], q := [], k := [], v := [] }
  | .linkReceiveTimeout _ _ => { s := [], q := [], k := [], v := [] }
  | .remoteAccess _ _ => { s := [], q := [], k := [], v := [] }
  | .remoteAccessAck _ _ => { s := [], q := [], k := [], v := [] }
  | .revocationStorageFree _ _ => { s := [], q := [], k := [], v := [] }
  | .migrationCopyDone _ _ => { s := [], q := [], k := [], v := [] }
  | .pullLineFetch _ _ _ => { s := [], q := [], k := [], v := [] }
  | .pullCompletion _ _ => { s := [], q := [], k := [], v := [] }
  | .partialEstimatorSample _ => { s := [], q := [], k := [], v := [] }
  | .batchMerge _ => { s := [], q := [], k := [], v := [] }
  | .stopReceipt _ _ => { s := [], q := [], k := [], v := [] }
  | .remainderMerge _ => { s := [], q := [], k := [], v := [] }
  | .scrubRead _ => { s := [], q := [], k := [], v := [] }
  | .powerEstimate _ _ _ => { s := [], q := [], k := [], v := [] }
  | .powerGood _ => { s := [], q := [], k := [], v := [] }
  | .firmwareRegisterWrite _ _ _ => { s := [], q := [], k := [], v := [] }
  | .hostWrite _ _ => { s := [], q := [], k := [], v := [] }
  | .hostRead _ _ => { s := [], q := [], k := [], v := [] }
  | .hostAtomicAdd _ _ => { s := [], q := [], k := [], v := [] }
  | .hostAtomicMax _ _ => { s := [], q := [], k := [], v := [] }
  | .hostAtomicOr _ _ => { s := [], q := [], k := [], v := [] }
  | .hostAtomicCas _ _ => { s := [], q := [], k := [], v := [] }
  | .hostAtomicSwap _ _ => { s := [], q := [], k := [], v := [] }
  | .hostAtomicLda _ _ => { s := [], q := [], k := [], v := [] }
  | .hostAtomicStl _ _ => { s := [], q := [], k := [], v := [] }
  | .coreCycle _ => { s := [], q := [], k := [], v := [] }
  | .flitRetry => { s := [], q := [], k := [], v := [] }
  | .pullBackgroundFetch => { s := [], q := [], k := [], v := [] }
  | .thermalTrip => { s := [], q := [], k := [], v := [] }
  | .thermalRecovery => { s := [], q := [], k := [], v := [] }
  | .watchdogReset => { s := [], q := [], k := [], v := [] }
  | .map => { s := [], q := [], k := [], v := [] }
  | .unmap => { s := [], q := [], k := [], v := [] }
  | .createq => { s := [], q := [], k := [], v := [] }
  | .destroyq => { s := [], q := [], k := [], v := [] }
  | .opench => { s := [], q := [], k := [], v := [] }
  | .closech => { s := [], q := [], k := [], v := [] }
  | .attest => { s := [], q := [], k := [], v := [] }
  | .createp => { s := [], q := [], k := [], v := [] }
  | .destroyp => { s := [], q := [], k := [], v := [] }
  | .rmray => { s := [], q := [], k := [], v := [] }
  | .migrate => { s := [], q := [], k := [], v := [] }
  | .malformedMailboxRecord => { s := [], q := [], k := [], v := [] }

/-- R140, R282: the scalar register that an operation of the SC, VX, VY or CT slot writes; 0 for none. -/
def scalarDst (i : Instr) : Nat :=
  match i with
  | .add _ d _ _ => d.toNat
  | .sub _ d _ _ => d.toNat
  | .addi _ d _ _ => d.toNat
  | .mul _ d _ _ => d.toNat
  | .mulhi _ d _ _ => d.toNat
  | .mulhu _ d _ _ => d.toNat
  | .div _ d _ _ => d.toNat
  | .divu _ d _ _ => d.toNat
  | .rem _ d _ _ => d.toNat
  | .remu _ d _ _ => d.toNat
  | .and _ d _ _ => d.toNat
  | .or _ d _ _ => d.toNat
  | .xor _ d _ _ => d.toNat
  | .andn _ d _ _ => d.toNat
  | .shl _ d _ _ => d.toNat
  | .shlImm _ d _ _ => d.toNat
  | .shrl _ d _ _ => d.toNat
  | .shrlImm _ d _ _ => d.toNat
  | .shra _ d _ _ => d.toNat
  | .shraImm _ d _ _ => d.toNat
  | .min _ d _ _ => d.toNat
  | .max _ d _ _ => d.toNat
  | .minu _ d _ _ => d.toNat
  | .maxu _ d _ _ => d.toNat
  | .sethi _ d _ _ => d.toNat
  | .sel _ _ d _ _ => d.toNat
  | .bitc _ _ d _ => d.toNat
  | .fadd _ _ d _ _ => d.toNat
  | .fsub _ _ d _ _ => d.toNat
  | .fmul _ _ d _ _ => d.toNat
  | .fma _ _ d _ _ => d.toNat
  | .fdiv _ _ d _ _ => d.toNat
  | .fsqrt _ _ d _ => d.toNat
  | .fminmax _ _ _ d _ _ => d.toNat
  | .fcvt _ _ d _ => d.toNat
  | .gets _ d _ => d.toNat
  | .sld _ d _ _ => d.toNat
  | .kpop f => f.vd.toNat % 64
  | .vext f => f.vd.toNat % 64
  | .call _ l _ => l.toNat
  | _ => 0

/-- R282: the result register of a D operation; 0 for none. -/
def resultDst (i : Instr) : Nat :=
  match i with
  | .syncAdd _ f => f.d.toNat
  | .syncMax _ f => f.d.toNat
  | .syncOr _ f => f.d.toNat
  | .syncCas _ f => f.d.toNat
  | .syncSwap _ f => f.d.toNat
  | .syncLda _ f => f.d.toNat
  | .syncStl _ f => f.d.toNat
  | .qpush _ f => f.d.toNat
  | .qpop _ f => f.d.toNat
  | .recv _ f => f.d.toNat
  | .lnch _ f => f.d.toNat
  | _ => 0

/-- R140: the mask that a vector operation writes; 0 for none. -/
def maskDst (i : Instr) : Nat :=
  match i with
  | .vcmp f => f.vd.toNat % 8
  | .vclass f => f.vd.toNat % 8
  | .klog f => f.vd.toNat % 8
  | _ => 0

/-- R66: the predicates that an SC operation writes. -/
def predDsts (i : Instr) : List Nat :=
  match i with
  | .cmp _ _ q _ _ => [q.toNat]
  | .cmpi _ _ q _ _ => [q.toNat]
  | .plog _ _ q _ _ => [q.toNat]
  | .fcmp _ _ _ q _ _ => [q.toNat]
  | .sets _ _ num => if num = 7 then (List.range 13).map (· + 1) else []
  | _ => []

/-- R77: the vector code that a vector operation writes. -/
def vectorDst (i : Instr) : Option Nat :=
  match i with
  | .vadd f => some f.vd.toNat
  | .vsub f => some f.vd.toNat
  | .vmul f => some f.vd.toNat
  | .vfma f => some f.vd.toNat
  | .vfms f => some f.vd.toNat
  | .vmin f => some f.vd.toNat
  | .vmax f => some f.vd.toNat
  | .vabs f => some f.vd.toNat
  | .vneg f => some f.vd.toNat
  | .vabd f => some f.vd.toNat
  | .vmulh f => some f.vd.toNat
  | .vclamp f => some f.vd.toNat
  | .vand f => some f.vd.toNat
  | .vor f => some f.vd.toNat
  | .vxor f => some f.vd.toNat
  | .vnot f => some f.vd.toNat
  | .vshl f => some f.vd.toNat
  | .vshr f => some f.vd.toNat
  | .vsel f => some f.vd.toNat
  | .vcvt f => some f.vd.toNat
  | .vsrnd f => some f.vd.toNat
  | .vpack f => some f.vd.toNat
  | .vunpk f => some f.vd.toNat
  | .vexp2 f => some f.vd.toNat
  | .vlog2 f => some f.vd.toNat
  | .vrcp f => some f.vd.toNat
  | .vrsq f => some f.vd.toNat
  | .vsqrt f => some f.vd.toNat
  | .vscale f => some f.vd.toNat
  | .vround f => some f.vd.toNat
  | .vcpsgn f => some f.vd.toNat
  | .vredsum f => some f.vd.toNat
  | .vredmax f => some f.vd.toNat
  | .vredmin f => some f.vd.toNat
  | .vmaxidx f => some f.vd.toNat
  | .vprefix f => some f.vd.toNat
  | .vperm f => some f.vd.toNat
  | .vxgrp f => some f.vd.toNat
  | .vbcast f => some f.vd.toNat
  | .vslide f => some f.vd.toNat
  | .viota f => some f.vd.toNat
  | .vmov f => some f.vd.toNat
  | .vins f => some f.vd.toNat
  | .vmix f => some f.vd.toNat
  | .vdot4 f => some f.vd.toNat
  | .vmadi f => some f.vd.toNat
  | .vbitc f => some f.vd.toNat
  | .vfin f => some f.vd.toNat
  | .vlut f => some f.vd.toNat
  | _ => none

/-- R75: the token that a D operation produces; 0 for none. -/
def producedTok (i : Instr) : Nat :=
  match i with
  | .cpy c _ => c.tkp.toNat
  | .strm c _ => c.tkp.toNat
  | .ring c _ => c.tkp.toNat
  | .wdef c _ => c.tkp.toNat
  | .wadv c _ => c.tkp.toNat
  | .wrel c _ => c.tkp.toNat
  | .stow c _ => c.tkp.toNat
  | .patchOpen c _ => c.tkp.toNat
  | .patchSeal c _ => c.tkp.toNat
  | .patchApply c _ => c.tkp.toNat
  | .patchInvert c _ => c.tkp.toNat
  | .patchCommute c _ => c.tkp.toNat
  | .patchTransplant c _ => c.tkp.toNat
  | .patchSquash c _ => c.tkp.toNat
  | .patchDiscard c _ => c.tkp.toNat
  | .rayFork c _ => c.tkp.toNat
  | .patchQuery c _ => c.tkp.toNat
  | .scat c _ => c.tkp.toNat
  | .gath c _ => c.tkp.toNat
  | .syncAdd c _ => c.tkp.toNat
  | .syncMax c _ => c.tkp.toNat
  | .syncOr c _ => c.tkp.toNat
  | .syncCas c _ => c.tkp.toNat
  | .syncSwap c _ => c.tkp.toNat
  | .syncLda c _ => c.tkp.toNat
  | .syncStl c _ => c.tkp.toNat
  | .qpush c _ => c.tkp.toNat
  | .qpop c _ => c.tkp.toNat
  | .send c _ => c.tkp.toNat
  | .recv c _ => c.tkp.toNat
  | .tjoin c _ => c.tkp.toNat
  | .lnch c _ => c.tkp.toNat
  | _ => 0

/-- R67: an SC operation of the SC-I format, with its imm8. -/
def immField (i : Instr) : Option (BitVec 8) :=
  match i with
  | .addi _ _ _ imm => some imm
  | .sethi _ _ _ imm => some imm
  | .cmpi _ _ _ _ imm => some imm
  | .gets _ _ num => some num
  | .sets _ _ num => some num
  | .sld _ _ _ imm => some imm
  | .sst _ _ _ imm => some imm
  | _ => none

/-- The guard of an operation; none where the slot has none (R63). -/
def guardOf (i : Instr) : Option (BitVec 5) :=
  match i with
  | .add g _ _ _ => some g
  | .sub g _ _ _ => some g
  | .addi g _ _ _ => some g
  | .mul g _ _ _ => some g
  | .mulhi g _ _ _ => some g
  | .mulhu g _ _ _ => some g
  | .div g _ _ _ => some g
  | .divu g _ _ _ => some g
  | .rem g _ _ _ => some g
  | .remu g _ _ _ => some g
  | .and g _ _ _ => some g
  | .or g _ _ _ => some g
  | .xor g _ _ _ => some g
  | .andn g _ _ _ => some g
  | .shl g _ _ _ => some g
  | .shlImm g _ _ _ => some g
  | .shrl g _ _ _ => some g
  | .shrlImm g _ _ _ => some g
  | .shra g _ _ _ => some g
  | .shraImm g _ _ _ => some g
  | .min g _ _ _ => some g
  | .max g _ _ _ => some g
  | .minu g _ _ _ => some g
  | .maxu g _ _ _ => some g
  | .sethi g _ _ _ => some g
  | .cmp g _ _ _ _ => some g
  | .cmpi g _ _ _ _ => some g
  | .sel g _ _ _ _ => some g
  | .plog g _ _ _ _ => some g
  | .bitc g _ _ _ => some g
  | .fadd g _ _ _ _ => some g
  | .fsub g _ _ _ _ => some g
  | .fmul g _ _ _ _ => some g
  | .fma g _ _ _ _ => some g
  | .fdiv g _ _ _ _ => some g
  | .fsqrt g _ _ _ => some g
  | .fminmax g _ _ _ _ _ => some g
  | .fcmp g _ _ _ _ _ => some g
  | .fcvt g _ _ _ => some g
  | .gets g _ _ => some g
  | .sets g _ _ => some g
  | .sld g _ _ _ => some g
  | .sst g _ _ _ => some g
  | .mma f => some f.g
  | .mmab f => some f.g
  | .mzero f => some f.g
  | .mload f => some f.g
  | .mdrain f => some f.g
  | .madd f => some f.g
  | .mscl f => some f.g
  | .mtrn f => some f.g
  | .mstat f => some f.g
  | .mscan f => some f.g
  | .mscanf f => some f.g
  | .mscanr f => some f.g
  | .cvInit f => some f.g
  | .cvProbe f => some f.g
  | .cvCommit f => some f.g
  | .cvRead f => some f.g
  | .sigFold f => some f.g
  | .sigCheck f => some f.g
  | .sigGet f => some f.g
  | .mred f => some f.g
  | .mgate f => some f.g
  | .mcopy f => some f.g
  | .cpy c _ => some c.g
  | .strm c _ => some c.g
  | .ring c _ => some c.g
  | .wdef c _ => some c.g
  | .wadv c _ => some c.g
  | .wrel c _ => some c.g
  | .stow c _ => some c.g
  | .patchOpen c _ => some c.g
  | .patchSeal c _ => some c.g
  | .patchApply c _ => some c.g
  | .patchInvert c _ => some c.g
  | .patchCommute c _ => some c.g
  | .patchTransplant c _ => some c.g
  | .patchSquash c _ => some c.g
  | .patchDiscard c _ => some c.g
  | .rayFork c _ => some c.g
  | .patchQuery c _ => some c.g
  | .scat c _ => some c.g
  | .gath c _ => some c.g
  | .syncAdd c _ => some c.g
  | .syncMax c _ => some c.g
  | .syncOr c _ => some c.g
  | .syncCas c _ => some c.g
  | .syncSwap c _ => some c.g
  | .syncLda c _ => some c.g
  | .syncStl c _ => some c.g
  | .qpush c _ => some c.g
  | .qpop c _ => some c.g
  | .send c _ => some c.g
  | .recv c _ => some c.g
  | .tjoin c _ => some c.g
  | .lnch c _ => some c.g
  | .jump g _ => some g
  | .call g _ _ => some g
  | .ret g _ => some g
  | .loop g _ _ _ _ => some g
  | .leave g _ => some g
  | .nxt g => some g
  | .wait g _ _ => some g
  | .fence g _ _ => some g
  | .vjoin g => some g
  | .bar g _ _ _ => some g
  | .estAdd g _ _ => some g
  | .trap g _ => some g
  | .bkpt g _ => some g
  | .halt g => some g
  | _ => none

end Sys2Proof.Machine
end

