-- ==== Sys2Proof/Machine/Bundle.lean ====
section
/-! DEFINITION. BUNDLE_ISSUE: fetching and mending a bundle (R78, R421), the faults of R84 in their order, untaken faults
(R210), stalls (R62), and the issue of every slot on one state (R83), with the header bits (R59) and the ends of loop
bodies (R125). -/

set_option Elab.async false

namespace Sys2Proof.Machine

/-! ### The slots of a bundle -/

/-- A slot of a bundle as decoded, and what it does. -/
structure SlotRes where
  slot : Nat
  instr : Instr
  res : Res

/-- The slots of a bundle, each by its number in the order of R61. -/
def decodeSlots (b : RawBundle) : List (Nat × Except DecErr Instr) :=
  b.slots.map (fun q => (slotBit q.1, decodeSlot q.1 q.2))

/-- The slots that decode. -/
def goodSlots (xs : List (Nat × Except DecErr Instr)) : List (Nat × Instr) :=
  xs.filterMap (fun q =>
    match q.2 with
    | .ok i => some (q.1, i)
    | .error _ => none)

/-- R68: the immediate that an IMX of the bundle supplies. -/
def bundleImm (xs : List (Nat × Instr)) : Option Word :=
  xs.findSome? (fun q =>
    match q.2 with
    | .imx imm => some (imm.signExtend 64)
    | _ => none)

/-- The operation in a slot. -/
def inSlot (xs : List (Nat × Instr)) (k : Nat) : Option Instr := (xs.find? (fun q => decide (q.1 = k))).map Prod.snd

/-! ### Two slots refused together (R68, R75, R77, R98, R140, R282) -/

/-- R98: a SETS of the register that a CF operation writes. -/
def setsClash (sets : Option Nat) (cf : Instr) : Bool :=
  match cf, sets with
  | .rmodeImm _, some n | .rmodeReg _, some n => decide (n = 0x00)
  | .qbndImm _, some n | .qbndReg _, some n => decide (n = 0x01)
  | .ssmCfgImm _, some n | .ssmCfgReg _, some n => decide (n = 0x03)
  | .cpat _, some n => decide (n = 0x06)
  | .sigSet t _, some n => t && decide (n = 0x04)
  | _, _ => false

/-- R98: SIG.SET of SIG beside an MX operation on SIG. -/
def sigClash (mx : Option Instr) (cf : Instr) : Bool :=
  match cf, mx with
  | .sigSet t _, some (.sigFold _) | .sigSet t _, some (.sigCheck _) | .sigSet t _, some (.sigGet _) => !t
  | _, _ => false

/-- R106, R68: the system register that the SETS of a bundle names. -/
def setsNum (xs : List (Nat × Instr)) (s : State) : Option Nat :=
  match inSlot xs 0 with
  | some (.sets _ _ num) => some (sysNum s num)
  | _ => none

/-- The illegal fields of a slot that another slot makes: found at the later slot. `s` is the state with the IMX
immediate of the bundle in focus. -/
def fieldClash (xs : List (Nat × Instr)) (s : State) (k : Nat) (i : Instr) : Bool :=
  match k with
  | 5 => decide (producedTok i ≠ 0) && (inSlot xs 4).any (fun j => decide (producedTok j = producedTok i))
  | 6 =>
    (match i with
     | .imx _ => decide ((inSlot xs 0).bind immField ≠ some 0)
     | _ => false)
  | 7 => setsClash (setsNum xs s) i || sigClash (inSlot xs 3) i
  | _ => false

/-- The illegal registers of a slot that another slot makes. -/
def regClash (xs : List (Nat × Instr)) (k : Nat) (i : Instr) : Bool :=
  let before := (xs.filter (fun q => decide (q.1 < k))).map Prod.snd
  (decide (scalarDst i ≠ 0) && before.any (fun j => decide (scalarDst j = scalarDst i))) ||
    (decide (maskDst i ≠ 0) && before.any (fun j => decide (maskDst j = maskDst i))) ||
    (decide (k = 2) && (vectorDst i).isSome && (inSlot xs 1).any (fun j => decide (vectorDst j = vectorDst i))) ||
    (decide (k = 5) && decide (resultDst i ≠ 0) && (inSlot xs 4).any (fun j => decide (resultDst j = resultDst i)))

/-! ### The faults of steps 3 to 5 (R84) -/

/-- Whether a slot's own bits decide an early fault of a code. -/
def Res.isEarly (r : Res) (code : Nat) : Bool :=
  match r with
  | .early e => decide (e.code = code)
  | _ => false

/-- R84 steps 3 to 5: the first fault that the bits of a bundle decide. A pad byte names no slot. -/
def earlyFault (xs : List (Nat × Except DecErr Instr)) (rs : List SlotRes) (good : List (Nat × Instr)) (s : State)
    (pad : Byte) : Option FaultRec :=
  let step3 := xs.findSome? (fun q =>
    match q.2 with
    | .error .illegalOpcode => some (faultRec fcOpcode (some q.1))
    | _ => none)
  let fieldAt := fun (k : Nat) => rs.any (fun r => decide (r.slot = k) && (r.res.isEarly fcField || fieldClash good s k r.instr))
  let step4 := xs.findSome? (fun q =>
    match q.2 with
    | .error _ => some (faultRec fcField (some q.1))
    | .ok _ => if fieldAt q.1 then some (faultRec fcField (some q.1)) else none)
  let last := if pad = 0 then none else some (faultRec fcField none)
  let step5 := rs.findSome? (fun r =>
    if r.res.isEarly fcRegister || regClash good r.slot r.instr then some (faultRec fcRegister (some r.slot)) else none)
  step3.or (step4.or (last.or step5))

/-! ### Untaken faults (R210) -/

/-- R210: the untaken fault that a bundle takes in place of issuing, and whether at a WAIT.
Assumption log 57 (DEDUCED). -/
def bundleFault (x : Ctx) (quiet : Bool) (ct : Option Instr) : Option (AFault × Bool) :=
  let wait := match ct with
    | some (.wait g kind opd) => if x.guard g then waitFault x kind.toNat opd.toNat else none
    | _ => none
  let halt := match ct with
    | some (.halt g) => x.guard g
    | _ => false
  match wait with
  | some a => some (a, true)
  | none => if quiet || halt then (firstUntaken x.untaken).map (fun a => (a, false)) else none

/-! ### Stalls and traps -/

def Res.isStall (r : Res) : Bool :=
  match r with
  | .stall => true
  | _ => false

def Res.held (r : Res) : Option (State → State) :=
  match r with
  | .hold f => some f
  | _ => none

def Res.trapped (r : Res) : Option FaultRec :=
  match r with
  | .trap e => some e
  | _ => none

def Res.lateFault (r : Res) : Option FaultRec :=
  match r with
  | .late e => some e
  | _ => none

/-- R245: two OPENs of one bundle need two names in the reserve. -/
def shortOfNames (s : State) (xs : List (Nat × Instr)) : Bool :=
  let opens := fun (k : Nat) =>
    match inSlot xs k with
    | some (.patchOpen c _) => s.cur.guard c.g
    | _ => false
  opens 4 && opens 5 && decide (((s.core s.foc.core).reserve (s.procOf s.cur)).length < 2)

/-! ### Damaged words met at issue (R136, R421) -/

/-- Whether an operation takes effect: its guard, if it has one, is true. -/
def liveSlot (x : Ctx) (i : Instr) : Bool :=
  match guardOf i with
  | some g => x.guard g
  | none => true

/-- The registers, predicates, masks and vector lanes that an operation of a context reads at its issue. -/
def slotWords (f : Focus) (x : Ctx) (i : Instr) (d : Damage) : Bool :=
  let r := reads i
  match d with
  | .pred c n q => decide (c = f.core) && decide (n = f.ctx) && r.q.contains q
  | .sreg c n a => liveSlot x i && decide (c = f.core) && decide (n = f.ctx) && r.s.contains a
  | .mask c n k => liveSlot x i && decide (c = f.core) && decide (n = f.ctx) && r.k.contains k
  | .lane c p _ => liveSlot x i && decide (c = f.core) && r.v.any (fun v => decide (x.vsrc v = .reg p))
  | _ => false

/-- R136, R210, R421: the errors that the slots of a bundle met, `pre` being the state they read: each slot's are one fault,
numbered as issued with the bundle; and the predicates and masks that they wrote are damaged no longer. -/
def State.meetReads (s pre : State) (rs : List SlotRes) : State :=
  if pre.damaged.isEmpty && pre.weak.isEmpty then s
  else
    let c := pre.foc.core
    let n := pre.foc.ctx
    let x := pre.cur
    rs.foldl (fun t r =>
      let hits := pre.damaged.filter (slotWords pre.foc x r.instr)
      let t1 := (t.correct (dieOf c) erCeSram (slotWords pre.foc x r.instr)).countErrors (dieOf c) hits
      let t2 := if hits.isEmpty then t1
        else t1.missBy c n (pre.stamp + r.slot) { faultRec fcMemory none with line := pre.foc.pc }
      if liveSlot x r.instr then
        t2.heal (fun d =>
          match d with
          | .pred c' n' q => decide (c' = c) && decide (n' = n) && (predDsts r.instr).contains q
          | .mask c' n' k => decide (c' = c) && decide (n' = n) && decide (maskDst r.instr = k)
          | _ => false)
      else t2) s

/-- R210: the numbers that the faults of a bundle's slots take come before those of the operations that it issues. -/
def State.stampSlots (s : State) : State := if s.damaged.isEmpty then s else { s with stamp := s.stamp + 16 }

/-! ### The issue -/

/-- R125: whether the CT slot of a bundle branches, starts a loop, leaves one or halts. -/
def redirects (s : State) (ct : Option Instr) : Bool :=
  match ct with
  | some (.btree sh t0 t1 t2 t3 d0 d1 d2 d3) => (btreeOf s sh t0 t1 t2 t3 d0 d1 d2 d3).isSome
  | some (.jump g _) | some (.call g _ _) | some (.ret g _) | some (.loop g _ _ _ _) | some (.leave g _)
  | some (.halt g) => s.cur.guard g
  | _ => false

/-- R59: the header bits. -/
def hdrYield (h : BitVec 16) : Bool := h.getLsbD 8
def hdrQuiet (h : BitVec 16) : Bool := h.getLsbD 9
def hdrIdle (h : BitVec 16) : Nat := (h.extractLsb' 10 3).toNat

/-- R83: the updates of the slots, all found on one state, made in slot order. -/
def issueSlots (rs : List SlotRes) (f : Focus) (s : State) : State :=
  rs.foldl (fun t r =>
    match r.res with
    | .ok g => g { t with foc := { f with slot := r.slot } }
    | _ => t) s

/-- R59, R204–R206: the header's effects: the cycles that the bundle occupies, the start of the run, its end at a yield, a
HALT or the quiet bundle of a marked context; `qb` is the quiet bound before the bundle, which governs until its end. -/
def State.afterIssue (s : State) (h : BitVec 16) (qb : BitVec 24) : State :=
  let c := s.foc.core
  let x := s.cur
  let evicts := x.marked && hdrQuiet h && decide (x.st = .ready)
  let fresh := !(s.core c).runOn
  let s1 := s.modCur (fun y =>
    let y1 := if fresh then { y with runCount := 0 } else y
    let y2 := y1.setStep false
    if evicts then { y2 with st := .evicting } else y2)
  s1.modCore c (fun k =>
    { k with busy := hdrIdle h + 1, runOn := true, quieted := hdrQuiet h, qbOld := if x.qb = qb then none else some qb,
             ending := hdrYield h || evicts || decide (x.st = .halted) })

/-- R124, R126: the outermost active level of a context. -/
def Ctx.outermost (x : Ctx) : Option Loop := ((List.range 6).map x.loop).find? (fun p => p.active)

/-- R126: whether a loop buffer holds the body that a context is in. -/
def LoopBuf.serves (b : LoopBuf) (x : Nat) (y : Ctx) : Bool :=
  match y.outermost with
  | some p => decide (b.ctx = some x) && decide (b.first = p.first) && decide (b.stop = p.stop)
  | none => false

/-- R126: the loop buffer takes in a bundle of the body that a context is in; a body that it does not hold replaces the one
that it does. -/
def LoopBuf.capture (b : LoopBuf) (x : Nat) (y : Ctx) (pc next : Nat) (r : RawBundle) : LoopBuf :=
  match y.outermost with
  | none => b
  | some p =>
    if p.first ≤ pc ∧ pc < p.stop then
      let b0 : LoopBuf := if b.serves x y then b else { ctx := some x, first := p.first, stop := p.stop, bundles := [] }
      { b0 with bundles := Tab.put b0.bundles pc (next, r) }
    else b

/-- R126: the bundle in focus has issued for a context that stood as `y`. -/
def State.capture (s : State) (y : Ctx) (r : RawBundle) : State :=
  let f := s.foc
  if y.outermost.isNone then s
  else
    (s.heal (fun d => decide (d = .loop f.core f.pc))).modCore f.core (fun k =>
      { k with loopBuf := k.loopBuf.capture f.ctx y f.pc f.next r })

/-- R62, R83, R84: a bundle that has been fetched issues, stalls or faults. -/
def State.issueBundle (s : State) (b : RawBundle) : State :=
  let xs := decodeSlots b
  let good := goodSlots xs
  let f : Focus := { s.foc with imm := bundleImm good }
  let pre : State := { s.seen with foc := f }
  let skip := pre.cur.stepMark
  let rs := good.map (fun q =>
    { slot := q.1, instr := q.2, res := if skip && q.1 == 6 then .ok id else runSlot q.2 { pre with foc := { f with slot := q.1 } } : SlotRes })
  let ct := if skip then none else inSlot good 6
  match earlyFault xs rs good pre b.pad with
  | some r => s.takePrecise r
  | none =>
    match bundleFault pre.cur (hdrQuiet b.hdr) ct with
    | some (a, atWait) => s.takeAsync f.core f.ctx a atWait f.pc
    | none =>
      if rs.any (fun r => r.res.isStall) || shortOfNames pre good then s
      else
        match rs.findSome? (fun r => r.res.held) with
        | some g => g s
        | none =>
          match (rs.findSome? (fun r => r.res.trapped)).or (rs.findSome? (fun r => r.res.lateFault)) with
          | some r => s.takePrecise r
          | none =>
            let s1 := s.stampSlots.modCur (fun x => { x with pc := BitVec.ofNat 48 f.next })
            let s2 : State := { issueSlots rs f s1 with foc := f }
            let s3 := if redirects pre ct then s2 else s2.modCur (fun x => x.endBodies f.next 6)
            ((s3.meetReads pre rs).capture pre.cur b).afterIssue b.hdr pre.cur.qb

/-! ### Fetching (R78, R421) -/

/-- The code pages that a fetch touched. -/
def Fetch.pages (f : Fetch) (start : Nat) : List Nat :=
  let last := match f with
    | .missing pc _ => pc
    | .illegal pc => pc
    | .got _ next _ => next - 1
  (List.range (last / 1024 + 1 - start / 1024)).map (· + start / 1024)

/-- R421: of the pages that a fetch reads, a damaged one, or every one after an error in the loop buffer, is filled again from
its image. An image whose storage is in error gives its page; a damaged page that its image holds no longer leaves the code
store. Assumption log 60 (DEDUCED). -/
def State.mendPages (s : State) (c p : Nat) (h : BitVec 32) (pages : List Nat) (every : Bool) : State × Option Nat :=
  pages.foldl (fun acc g =>
    match acc with
    | (t, some e) => (t, some e)
    | (t, none) =>
      let hurt := t.hurt (.code c p h g)
      if every || hurt then
        let t1 := if hurt then t.count (dieOf c) erUeSram else t
        let here := fun (q : CodePage) => decide (q.proc = p) && decide (q.handle = h) && decide (q.page = g)
        match t1.readPage p h g with
        | (t2, some m) =>
          ((t2.heal (fun d => decide (d = .code c p h g))).modCore c (fun k =>
            { k with pages := k.pages.map (fun q => if here q then { q with data := m } else q) }), none)
        | (t2, none) =>
          if (t1.imagePage p h g).isSome then (t2, some g)
          else if hurt then
            ((t2.heal (fun d => decide (d = .code c p h g))).modCore c (fun k =>
              { k with pages := k.pages.filter (fun q => !here q) }), none)
          else (t2, none)
      else (t, none))
    (s.correct (dieOf c) erCeSram (fun d => pages.any (fun g => decide (d = .code c p h g))), none)

/-- The address of the bundle that a fetch found, or looked for. -/
def Fetch.addr (f : Fetch) : Nat :=
  match f with
  | .missing pc _ => pc
  | .illegal pc => pc
  | .got pc _ _ => pc

/-- The state in which a bundle of a context is in focus. -/
def State.focus (s : State) (c x pc next : Nat) : State :=
  { s with foc := { core := c, ctx := x, slot := 0, pc := pc, next := next, imm := none } }

/-- R327: the state in which a refill of the pages of a context's next bundle waits for its image; none when the bundle needs
none, or its image may be read. -/
def State.mendGate (s : State) (c x : Nat) (every : Bool) : Option State :=
  let y := s.ctx c x
  let (p, h) := s.codeOf y
  let gs := ((s.fetch c x).pages y.pc.toNat).filter (fun g => every || s.hurt (.code c p h g))
  s.gate p (gs.flatMap (fun g => s.regionUnits p h clCode (1024 * g))) (.fill c x (y.pc.toNat / 1024))

/-- The bundle at a context's pc fetched from the code store, its pages mended, and issued; `every` as State.mendPages has
it. -/
def State.mendIssue (s0 : State) (c x : Nat) (every : Bool) : State :=
  let y := s0.ctx c x
  let (p, h) := s0.codeOf y
  match s0.mendPages c p h ((s0.fetch c x).pages y.pc.toNat) every with
  | (s, some g) =>
    (s.focus c x (s.fetch c x).addr 0).takePrecise { faultRec fcMemory none with handle := h, offset := 1024 * g }
  | (s, none) =>
    match s.fetch c x with
    | .missing pc line => (s.focus c x pc 0).takePrecise { faultRec fcFetch none with line := line }
    | .illegal pc => (s.focus c x pc 0).takePrecise (faultRec fcBundle none)
    | .got pc next b => (s.focus c x pc next).issueBundle b

/-- A context's next bundle from the code store, unless a page that it needs waits for its image. -/
def State.storeIssue (s : State) (c x : Nat) (every : Bool) : State :=
  (s.mendGate c x every).getD ((s.leaveUnit (.fill c x ((s.ctx c x).pc.toNat / 1024))).mendIssue c x every)

/-- R126: the bundle at a context's pc that the loop buffer of its core holds, with the address after it. -/
def Core.buffered (k : Core) (x : Nat) (y : Ctx) : Option (Nat × RawBundle) :=
  if k.loopBuf.serves x y then Tab.find k.loopBuf.bundles y.pc.toNat else none

/-- R126, R421: the bundle at a context's pc, from the loop buffer or from the code store; an error in the loop buffer empties
it, and the bundle's pages are filled and the bundle fetched again. Assumption log 80 (DEDUCED). -/
def State.fetchIssue (s : State) (c x : Nat) : State :=
  let y := s.ctx c x
  match (s.core c).buffered x y with
  | none => s.storeIssue c x false
  | some (next, b) =>
    let word := Damage.loop c y.pc.toNat
    if s.hurt word then
      (s.mendGate c x true).getD
        ((((s.heal (fun d => decide (d = word))).count (dieOf c) erPerr).modCore c (fun k => k.dropLoop x)).storeIssue c x true)
    else (s.focus c x y.pc.toNat next).issueBundle b

/-! ### When a bundle may issue -/

/-- R19, R204: the run count has reached its bound. -/
def Ctx.runOver (x : Ctx) (k : Core) : Bool := k.runOn && decide (x.rb.toNat ≤ x.runCount)

/-- R20, R204: the quiet count has reached its bound. -/
def Ctx.quietOver (x : Ctx) : Bool := decide (x.qb.toNat ≤ x.quietCount)

/-- Whether the launch of a context is to be rolled back (R271). -/
def State.rolling (s : State) (x : Ctx) : Bool := (s.launchOf x).any (fun l => l.rollback)

/-- BUNDLE_ISSUE (R62): the running context of a core issues its next bundle, once the one before it has had its
cycles and no bound is passed. -/
def State.bundleIssue (s : State) (c : Nat) : State :=
  let k := s.core c
  match k.running with
  | none => s
  | some x =>
    let y := k.ctx x
    if k.busy ≠ 0 ∨ k.ending ∨ y.st ≠ .ready ∨ s.rolling y ∨ y.runOver k ∨ y.quietOver then s
    else (s.landSteps c x).fetchIssue c x

/-- The meaning of BUNDLE_ISSUE. -/
def execBundleIssue (core : Nat) (s : State) : Host.Outcome State Fault Refusal := .next (s.bundleIssue core)

end Sys2Proof.Machine
end

