-- ==== Sys2Proof/Machine/Cycle.lean ====
section
/-! DEFINITION. What time does on a core: CORE_CYCLE (R19, R20, R80, R163, R204, R311, R332), the run scheduler (R16),
the two overruns (R204), and results landing before their bounds (R80). -/

set_option Elab.async false

namespace Sys2Proof.Machine

/-! ### One cycle -/

/-- A cycle of a D operation: of its wait, once its producers have completed (R311), and of the bounds it awaits. -/
def DOp.tick (o : DOp) : DOp :=
  { o with waited := if o.waits.isEmpty then o.waited + 1 else o.waited, bound := o.bound - 1 }

/-- R207: a cycle of a halted context: the wait on another party grows up to its limit.
Assumption log 51 (DEDUCED). -/
def haltTick (waits : Bool) (y : Ctx) : Ctx :=
  if y.st ≠ .halted then y
  else if !waits then { y with haltWait := 0 }
  else if y.haltWait < haltLimit then { y with haltWait := y.haltWait + 1 }
  else y

/-- R309, R355: a cycle of the pending answers, and of the bounds of the stores. -/
def Ctx.nxtTick (y : Ctx) : Ctx := { y with nxt := y.nxt.map (fun p => { p with left := p.left - 1 }), stores := y.stores - 1 }

/-- R204: whether the cycle is the last of the bundle issued last. -/
def Core.lastCycle (k : Core) : Bool := decide (k.busy = 1)

/-- R204, R205: the counts of the context that holds the core. The last cycle of a quiet bundle sets the quiet count to 0
unless the bound that governs the bundle has been reached. -/
def Core.countTick (k : Core) (y : Ctx) : Ctx :=
  let quiet := k.lastCycle && k.quieted && decide (y.quietCount < (k.qbOld.getD y.qb).toNat)
  { y with runCount := if k.runOn then y.runCount + 1 else y.runCount, quietCount := if quiet then 0 else y.quietCount + 1 }

/-! ### What comes before the next cycle (R16, R163, R204) -/

/-- R16: the order of choice among ready contexts: marked ones first, then priority, then the longest since its last
run, then the number; of two marked ones the priorities do not count. Assumption log 89 (DESIGN CHOICE). -/
def State.runsBefore (s : State) (a b : Nat × Ctx) : Bool :=
  let pri := fun (y : Ctx) =>
    match s.launchOf y with
    | some l => recPri l.bytes
    | none => 0
  if a.2.marked ≠ b.2.marked then a.2.marked
  else if !a.2.marked && decide (pri a.2 ≠ pri b.2) then decide (pri b.2 < pri a.2)
  else if a.2.lastRun ≠ b.2.lastRun then decide (a.2.lastRun < b.2.lastRun)
  else decide (a.1 < b.1)

/-- R16, R304, R398: the ready contexts of a core that await no code page. -/
def State.readyCtxs (s : State) (c : Nat) : List (Nat × Ctx) :=
  (s.core c).ctxs.filter (fun q => decide (q.2.st = .ready) && q.2.fills.isEmpty && !s.rolling q.2)

/-- R16: the context that is chosen next. -/
def State.chosen (s : State) (c : Nat) : Option Nat :=
  ((s.readyCtxs c).foldl (fun acc q =>
    match acc with
    | none => some q
    | some b => if s.runsBefore q b then some q else some b) none).map Prod.fst

/-- R19, R204: whether an overrun is due: a bound is reached at a boundary between bundles. -/
def Core.overrunDue (k : Core) : Bool :=
  match k.running with
  | some x => decide (k.busy = 0) && ((k.ctx x).runOver k || (k.ctx x).quietOver)
  | none => false

/-- R16, R163, R204: whether something happens on a core before its next cycle passes: an overrun, a choice of context, or the
start or the completion of a matrix operation. -/
def State.cycleHeld (s : State) (c : Nat) : Bool :=
  let k := s.core c
  k.overrunDue || (k.running.isNone && (s.chosen c).isSome) || (k.mxDue true).isSome || (k.mxDue false).isSome ||
    k.mxs.zipIdx.any (fun q => k.mxReady q.2 q.1)

/-- CORE_CYCLE (R332): the cycle of a core ends. A run does not end with it where an overrun is to follow (R204).
Assumption log 70 (DEDUCED). -/
def State.coreCycle (s : State) (c : Nat) : State :=
  if s.step < 4 ∨ s.tripped ∨ s.cycleHeld c then s
  else
    let k := s.core c
    let waits := fun (x : Nat) => !(s.waitIds c x).isEmpty
    let ctxs := k.ctxs.map (fun q =>
      let y := haltTick (waits q.1) q.2.nxtTick
      (q.1, if k.running = some q.1 then k.countTick y else y))
    let late := match k.running with
      | some x => (k.ctx x).runOver k || (k.countTick (k.ctx x)).quietOver
      | none => false
    let k1 : Core :=
      { k with
        ctxs := ctxs
        cycle := k.cycle + 1
        busy := k.busy - 1
        pend := k.pend.map (fun p => { p with left := p.left - 1 })
        dops := k.dops.map DOp.tick
        qbOld := if k.lastCycle then none else k.qbOld
        mxs := k.mxs.map MxOp.tick }
    let k2 := if k.lastCycle && k.ending && !late then k1.endRun else k1
    (s.setCore c k2).landDue c k.pend.length

/-! ### The run scheduler (R16) -/

/-- RUN_SCHEDULE (R16): a core that runs no context takes up the one chosen. -/
def State.schedule (s : State) (c : Nat) : State :=
  let k := s.core c
  match k.running, s.chosen c with
  | none, some x =>
    s.setCore c { k.modCtx x (fun y => { y with runCount := 0 }) with
      running := some x, runOn := false, ending := false, quieted := false }
  | _, _ => s

/-! ### The bounds (R204) -/

/-- R204: the address of a context's next bundle. -/
def State.nextPc (s : State) (c x : Nat) : Nat := (s.fetch c x).addr

/-- R122, R204: an overrun at the last cycle of a HALT bundle comes after the HALT has issued.
Assumption log 59 (DEDUCED). -/
def State.haltMark (s : State) (c x : Nat) : State :=
  s.modCtx c x (fun y => if y.st = .halted then { y with afterHalt := true } else y)

/-- RUN_OVERRUN (R19, R204): at a boundary between bundles. If both bounds are reached, only quiet-overrun is raised. -/
def State.runOverrun (s : State) (c : Nat) : State :=
  let k := s.core c
  match k.running with
  | none => s
  | some x =>
    let y := k.ctx x
    if decide (k.busy = 0) && y.runOver k && !y.quietOver then
      (s.haltMark c x).takeFault c x (faultRec fcRunOver none) false false (!y.untaken.isEmpty) 0 (s.nextPc c x)
    else s

/-- QUIET_OVERRUN (R20, R204): at a boundary between bundles. -/
def State.quietOverrun (s : State) (c : Nat) : State :=
  let k := s.core c
  match k.running with
  | none => s
  | some x =>
    let y := k.ctx x
    if decide (k.busy = 0) && y.quietOver then
      (s.haltMark c x).takeFault c x (faultRec fcQuietOver none) false false (!y.untaken.isEmpty) 0 (s.nextPc c x)
    else s

/-! ### The meanings of the events -/

/-- The meaning of CORE_CYCLE. -/
def execCoreCycle (core : Nat) (s : State) : Host.Outcome State Fault Refusal := .next (s.coreCycle core)

/-- The meaning of RUN_SCHEDULE. -/
def execRunSchedule (core : Nat) (s : State) : Host.Outcome State Fault Refusal := .next (s.schedule core)

/-- The meaning of RUN_OVERRUN. -/
def execRunOverrun (core : Nat) (s : State) : Host.Outcome State Fault Refusal := .next (s.runOverrun core)

/-- The meaning of QUIET_OVERRUN. -/
def execQuietOverrun (core : Nat) (s : State) : Host.Outcome State Fault Refusal := .next (s.quietOverrun core)

/-- The meaning of RESULT_LANDING (R80). -/
def execResultLanding (core idx : Nat) (parts : PartMask) (s : State) : Host.Outcome State Fault Refusal :=
  .next (s.landAt core idx parts)

/-- The meaning of MX_OP_START. -/
def execMxOpStart (core : Nat) (array : Bool) (s : State) : Host.Outcome State Fault Refusal := .next (s.mxStart core array)

/-- The meaning of MX_OP_COMPLETION. -/
def execMxOpCompletion (core idx : Nat) (s : State) : Host.Outcome State Fault Refusal := .next (s.mxComplete core idx)

end Sys2Proof.Machine
end

