-- ==== Sys2Proof/Machine/Shake.lean ====
section
/-! DEFINITION. SHAKE256, which R416 and R417 name and the standard FIPS 202 defines (assumption log 16, PRESUMED). -/

set_option Elab.async false

namespace Sys2Proof.Machine

/-- The Keccak state: lane x, y at place x + 5y. -/
abbrev Lanes := List Word

def Lanes.at (a : Lanes) (x y : Nat) : Word := a.getD (x % 5 + 5 * (y % 5)) 0

/-- The rotation counts of the lanes. -/
def keccakRot : List Nat :=
  [0, 1, 62, 28, 27, 36, 44, 6, 55, 20, 3, 10, 43, 25, 39, 41, 45, 15, 21, 8, 18, 2, 61, 56, 14]

/-- The round constants. -/
def keccakRc : List Word :=
  [0x0000000000000001, 0x0000000000008082, 0x800000000000808A, 0x8000000080008000,
   0x000000000000808B, 0x0000000080000001, 0x8000000080008081, 0x8000000000008009,
   0x000000000000008A, 0x0000000000000088, 0x0000000080008009, 0x000000008000000A] ++
  [0x000000008000808B, 0x800000000000008B, 0x8000000000008089, 0x8000000000008003,
   0x8000000000008002, 0x8000000000000080, 0x000000000000800A, 0x800000008000000A,
   0x8000000080008081, 0x8000000000008080, 0x0000000080000001, 0x8000000080008008]

/-- The lane at every place, from its coordinates. -/
def lanesOf (f : Nat → Nat → Word) : Lanes := (List.range 25).map (fun i => f (i % 5) (i / 5))

def theta (a : Lanes) : Lanes :=
  let c := (List.range 5).map (fun x => a.at x 0 ^^^ a.at x 1 ^^^ a.at x 2 ^^^ a.at x 3 ^^^ a.at x 4)
  let d := (List.range 5).map (fun x => c.getD ((x + 4) % 5) 0 ^^^ (c.getD ((x + 1) % 5) 0).rotateLeft 1)
  lanesOf (fun x y => a.at x y ^^^ d.getD x 0)

/-- The rotations, and the lanes in their new places. -/
def rhoPi (a : Lanes) : Lanes :=
  lanesOf (fun x y =>
    let x0 := (x + 3 * y) % 5
    (a.at x0 x).rotateLeft (keccakRot.getD (x0 + 5 * x) 0))

def chi (b : Lanes) : Lanes := lanesOf (fun x y => b.at x y ^^^ (~~~ (b.at (x + 1) y) &&& b.at (x + 2) y))

def keccakRound (a : Lanes) (rc : Word) : Lanes :=
  match chi (rhoPi (theta a)) with
  | [] => []
  | l :: rest => (l ^^^ rc) :: rest

def keccakF (a : Lanes) : Lanes := keccakRc.foldl keccakRound a

/-- The bytes of a block absorbed in one permutation. -/
def shakeRate : Nat := 136

/-- A block of bytes as lanes, the rest zero. -/
def blockLanes (bs : List Byte) : Lanes := (List.range 25).map (fun i => BitVec.ofNat 64 (leNat ((bs.drop (8 * i)).take 8)))

/-- A message with its padding: a whole number of blocks. -/
def shakePad (m : List Byte) : List Byte :=
  let n := shakeRate - m.length % shakeRate
  m ++ (if n = 1 then [0x9F] else 0x1F :: List.replicate (n - 2) 0 ++ [0x80])

/-- The sponge after n blocks. -/
def absorb : Nat → List Byte → Lanes → Lanes
  | 0, _, a => a
  | n + 1, bs, a =>
    absorb n (bs.drop shakeRate) (keccakF (List.zipWith (· ^^^ ·) a (blockLanes (bs.take shakeRate))))

/-- The first n bytes of SHAKE256 of a message, n at most the bytes of one block. Assumption log 16 (PRESUMED). -/
def shakeOut (n : Nat) (m : List Byte) : List Byte :=
  let p := shakePad m
  (((absorb (p.length / shakeRate) p (List.replicate 25 0)).take 17).flatMap (fun w => leBytes w.toNat 8)).take n

/-- SHAKE256 with the 32 bytes of output that R416 and R417 take. -/
def shake256 (m : List Byte) : List Byte := shakeOut 32 m

end Sys2Proof.Machine
end

