-- ==== Sys2Proof/Machine/Ed448.lean ====
section
/-! DEFINITION. Ed448 signatures, which R416 and R418 name and the standard RFC 8032 defines: the plain form, with no
context and no prehash (assumption log 15, PRESUMED). -/

set_option Elab.async false

namespace Sys2Proof.Machine

/-! ### The field and the curve -/

/-- The field's prime, the order of the base point, and the curve's constant d = −39081. -/
def edP : Nat := 2 ^ 448 - 2 ^ 224 - 1
def edL : Nat := 2 ^ 446 - 0x8335dc163bb124b65129c96fde933d8d723a70aadc873d6d54a7bb0d
def edD : Nat := edP - 39081

def edSub (a b : Nat) : Nat := (a + edP - b % edP) % edP

/-- The power of a, for an exponent of at most n bits. -/
def edPow (a : Nat) : Nat → Nat → Nat
  | 0, _ => 1
  | n + 1, e =>
    let h := edPow a n (e / 2)
    if e % 2 = 1 then h * h % edP * a % edP else h * h % edP

/-- A point in projective coordinates. -/
structure EdPoint where
  x : Nat
  y : Nat
  z : Nat
  deriving DecidableEq, Repr

def edZero : EdPoint := { x := 0, y := 1, z := 1 }

/-- The base point. -/
def edBase : EdPoint :=
  { x := 0x4f1970c66bed0ded221d15a622bf36da9e146570470f1767ea6de324a3d3a46412ae1af72ab66511433b80e18b00938e2626a82bc70cc05e
    y := 0x693f46716eb6bc248876203756c9c7624bea73736ca3984087789c1e05a0c2d73ad3ff1ce67c39c4fdbd132c4ed7c8ad9808795bf230fa14
    z := 1 }

/-- The sum of two points. -/
def EdPoint.add (p q : EdPoint) : EdPoint :=
  let a := p.z * q.z % edP
  let b := a * a % edP
  let c := p.x * q.x % edP
  let d := p.y * q.y % edP
  let e := edD * c % edP * d % edP
  let f := edSub b e
  let g := (b + e) % edP
  let h := (p.x + p.y) * (q.x + q.y) % edP
  { x := a * f % edP * edSub h (c + d) % edP, y := a * g % edP * edSub d c % edP, z := f * g % edP }

/-- The multiple of a point by a number of at most n bits. -/
def EdPoint.mul (p : EdPoint) : Nat → Nat → EdPoint
  | 0, _ => edZero
  | n + 1, k =>
    let h := p.mul n (k / 2)
    if k % 2 = 1 then (h.add h).add p else h.add h

/-- Whether two points are one. -/
def EdPoint.same (p q : EdPoint) : Bool :=
  decide (p.x * q.z % edP = q.x * p.z % edP) && decide (p.y * q.z % edP = q.y * p.z % edP)

/-! ### Encodings -/

/-- The 57 bytes of a point: y, and the low bit of x in the top bit. -/
def EdPoint.encode (p : EdPoint) : List Byte :=
  let i := edPow p.z 448 (edP - 2)
  leBytes (p.y * i % edP + p.x * i % edP % 2 * 2 ^ 455) 57

/-- The point of 57 bytes, if they encode one. -/
def edDecode (bs : List Byte) : Option EdPoint :=
  let v := leNat bs
  let y := v % 2 ^ 455
  let sign := v / 2 ^ 455
  let u := edSub (y * y) 1
  let w := edSub (edD * (y * y % edP)) 1
  let u3 := u * u % edP * u % edP
  let x := u3 * w % edP * edPow (u3 * u % edP * u % edP * (w * w % edP * w % edP) % edP) 448 ((edP - 3) / 4) % edP
  if edP ≤ y ∨ w * (x * x % edP) % edP ≠ u ∨ (x = 0 ∧ sign = 1) then none
  else some { x := if x % 2 = sign then x else edP - x, y := y, z := 1 }

/-! ### Signatures -/

/-- The hash of the scheme, of 114 bytes, over the bytes given: they follow the string SigEd448 and two zero bytes. -/
def edHash (m : List Byte) : List Byte := shakeOut 114 ([0x53, 0x69, 0x67, 0x45, 0x64, 0x34, 0x34, 0x38, 0, 0] ++ m)

/-- R416: whether 114 bytes are a signature of a message under a public key. Assumption log 15 (PRESUMED). -/
def ed448Verify (key msg sig : List Byte) : Bool :=
  let s := leNat (sig.drop 57)
  match edDecode key, edDecode (sig.take 57) with
  | some a, some r =>
    let k := leNat (edHash (sig.take 57 ++ key ++ msg)) % edL
    decide (s < edL) && ((edBase.mul 446 s).mul 3 4).same ((r.mul 3 4).add ((a.mul 446 k).mul 3 4))
  | _, _ => false

/-- The secret number of a private key. -/
def edSecret (h : List Byte) : Nat := leNat (h.take 56) / 4 * 4 % 2 ^ 447 + 2 ^ 447

/-- R418: the 114 bytes of a signature of a message under a private key of 57 bytes. Assumption log 15 (PRESUMED). -/
def ed448Sign (key msg : List Byte) : List Byte :=
  let h := shakeOut 114 key
  let s := edSecret h
  let a := (edBase.mul 448 s).encode
  let r := leNat (edHash (h.drop 57 ++ msg)) % edL
  let rb := (edBase.mul 446 r).encode
  let k := leNat (edHash (rb ++ a ++ msg)) % edL
  rb ++ leBytes ((r + k * s) % edL) 57

end Sys2Proof.Machine
end

