-- ==== Sys2Proof/Machine/Host.lean ====
section
/-! DEFINITION. What reaches the device through its ports: the accesses of hosts (R406, R407, R411) and of other devices
(R363). -/

set_option Elab.async false

namespace Sys2Proof.Machine

/-! ### The ports (R417, R419) -/

/-- R419, R417: the ports answer from step 6 of bring-up on; after a failed image check, only for the mailboxes.
Assumption log 62 (DEDUCED). -/
def State.portsUp (s : State) (p : Nat) : Bool :=
  !s.tripped && (decide (6 ≤ s.step) || (s.failed && decide (p = 0)))

/-- The statuses of R407. -/
def stDone : Nat := 0x00

/-- What becomes of a host access: it waits, it fails with a status, or it proceeds. -/
inductive HostFate where
  | wait
  | bad (status : Nat)
  | ok (h : Handle)
  deriving DecidableEq, Repr

/-- R411: a host's own bytes behind a fixed handle of process 0: first and length. -/
def ownBytes (host i : Nat) : Nat × Nat :=
  match i with
  | 1 => (1024 * host, 1024)
  | 2 => (16 * host, 16)
  | _ => (256 * host, 256)

/-- R406, R411: whether a host may name the bytes: its own behind a fixed handle, or a region mapped for it. -/
def hostMay (a : HostAccess) (h : Handle) (n : Nat) : Bool :=
  if a.proc = 0 then
    let (o, m) := ownBytes a.host (hIndex a.handle)
    decide (hIndex a.handle ≤ 3) && decide (o ≤ a.offset) && decide (a.offset + n ≤ o + m)
  else decide (h.host = some a.host)

/-- R314, R406, R407, R411: the fate of a host access of n bytes to a region of one of the classes. Process 0 has its three
fixed handles alone. Assumption log 61 (DEDUCED). -/
def State.hostFate (s : State) (a : HostAccess) (classes : List Nat) (n : Nat) : HostFate :=
  let e := s.handle a.proc (hIndex a.handle)
  let may := classes.contains e.cls && hostMay a e n
  if a.proc = 0 ∧ ¬(1 ≤ a.handle.toNat ∧ a.handle.toNat ≤ 3) then .bad fcInvalid
  else
    match s.lookup a.proc a.handle e.cls with
    | .bad code => .bad code
    | .wait => if may then .wait else .bad fcInvalid
    | .ok h => if may then .ok h else .bad fcInvalid

/-- R407: the response to a host or to another device. -/
def State.respond (s : State) (who status : Nat) (bytes : List Byte) : State :=
  { s with resp := Tab.put s.resp who { status := status, bytes := bytes } }

/-- An access of a host as its fate has it: the status of its failure, or its effect. -/
def State.hostAccess (s : State) (a : HostAccess) (classes : List Nat) (n : Nat) (k : Handle → State) : State :=
  match s.hostFate a classes n with
  | .wait => s
  | .bad status => s.respond a.host status []
  | .ok h => k h

/-- The beats of a region that n bytes written from an offset replace are damaged no longer. -/
def State.healCells (s : State) (p i off n : Nat) : State := s.heal (cellsOver p i off n)

/-- R406, R407: the size and the alignment of a read or a write. Assumption log 61 (DEDUCED). -/
def spanOk (h : Handle) (off n : Nat) : Bool :=
  decide (8 ≤ n) && decide (n ≤ 256) && decide (off % 8 = 0) && decide (off + n ≤ h.len)

/-! ### The accesses of hosts (R406) -/

/-- R406: bytes written within one slot of a QBODY region. -/
def State.hostWriteAt (s : State) (a : HostAccess) (bs : List Byte) : State :=
  let n := bs.length
  let i := hIndex a.handle
  s.hostAccess a [clQbody] n (fun h =>
    if !spanOk h a.offset n || decide (a.offset / 256 ≠ (a.offset + n - 1) / 256) then s.respond a.host fcMisaligned []
    else
      let s1 := (s.healCells a.proc i a.offset n).modHandle a.proc i (fun e =>
        { e with data := Memory.writeRun e.data a.offset bs })
      (s1.touch a.proc i (linesAt a.offset n)).respond a.host stDone [])

/-- R406: the bytes of a QBODY or SYNC region. -/
def State.hostReadAt (s : State) (a : HostAccess) (n : Nat) : State :=
  let i := hIndex a.handle
  s.hostAccess a [clQbody, clSync] n (fun h =>
    if !spanOk h a.offset n then s.respond a.host fcMisaligned []
    else
      let (s1, bad) := s.unitRead a.proc i a.offset n
      if bad then s1.respond a.host fcMemory [] else s1.respond a.host stDone (Memory.readRun h.data a.offset n))

/-- R293, R294, R296: a host's atomic has written a cell: the launch unit of each LAUNCH queue whose TAIL it is looks at
the queue, or misses it. -/
def State.tailWritten (s : State) (p i off : Nat) : State :=
  (s.proc p).queues.foldl (fun t q =>
    if hIndex q.2.cellH = i ∧ q.2.tailOff = off / 8 * 8 ∧ !q.2.work ∧ !q.2.draining then
      if q.2.resident then t.noteQueue p q.1 else t.queueMiss p q.1
    else t) s

/-- R281: an atomic made from outside the device: the state after it, and the bytes that it returns; or the fault of its
cell. -/
def State.outerAtomic (s : State) (op p : Nat) (handle : BitVec 32) (off : Nat) (q : AtomicArgs) : State × Except Nat (List Byte) :=
  let n := 2 ^ q.size.toNat
  let i := hIndex handle
  if s.cellHurt p i off then ((s.unitRead p i off 1).1, .error fcMemory)
  else
    let (t, old) := s.atomicAt p i op q.sgn off n q.v.toNat q.n.toNat
    let wrote := (atomicNew op q.sgn n old (q.v.toNat % 2 ^ (8 * n)) (q.n.toNat % 2 ^ (8 * n))).isSome
    (if wrote then t.tailWritten p i off else t, .ok (if op = 0x19 then [] else leBytes (atomicResult q.sgn n old).toNat 8))

/-- R407: the answer to a party: a status with nothing, or bytes. -/
def State.reply (s : State) (who : Nat) (r : Except Nat (List Byte)) : State :=
  match r with
  | .error status => s.respond who status []
  | .ok bs => s.respond who stDone bs

/-- A host's atomic (R281, R406): the value that the cell held is returned; a store returns none. -/
def State.hostAtomicAt (s : State) (op : Nat) (a : HostAccess) (q : AtomicArgs) : State :=
  let n := 2 ^ q.size.toNat
  s.hostAccess a [clSync] n (fun h =>
    if a.offset % n ≠ 0 ∨ h.len < a.offset + n then s.respond a.host fcMisaligned []
    else
      let (t, r) := s.outerAtomic op a.proc a.handle a.offset q
      t.reply a.host r)

/-! ### The accesses of other devices (R363) -/

/-- Where the answer to another device stands. -/
def devKey (dev : Nat) : Nat := 64 + dev

/-- R363: what an access of another device finds at the one handle that it names: a queue's body and cells are named by
either class. -/
def State.remoteLook (s : State) (p : Nat) (h : BitVec 32) (r : RemoteReq) : Look :=
  match r with
  | .atomic .. => s.lookup p h clSync
  | .element .. | .store .. | .patch .. => s.lookup p h clTensor
  | .load .. | .put .. => s.lookup p h (s.handle p (hIndex h)).cls

/-- R363: what becomes of an access of another device: the entry of its handle, or a status. -/
def State.outerHandle (s : State) (p : Nat) (handle : BitVec 32) (cls : Nat) : Except Nat Handle :=
  match s.lookup p handle cls with
  | .bad code => .error code
  | .wait => .error fcInvalid
  | .ok h => .ok h

/-- R363, R281: an atomic of another device on a cell held here. -/
def State.remoteAtomic (s : State) (dev op p : Nat) (handle : BitVec 32) (off : Nat) (q : AtomicArgs) : State :=
  let n := 2 ^ q.size.toNat
  match s.outerHandle p handle clSync with
  | .error code => s.respond (devKey dev) code []
  | .ok h =>
    if off % n ≠ 0 then s.respond (devKey dev) fcMisaligned []
    else if h.len < off + n then s.respond (devKey dev) fcInvalid []
    else
      let (t, r) := s.outerAtomic op p handle off q
      t.reply (devKey dev) r

/-- The reader that a context of another device is. -/
def farReader (dev : Nat) (who : FarCtx) : Reader := { dev := dev, core := who.core, ctx := who.ctx, launch := who.launch }

/-- R273, R350: an error beyond correction that an operation of another device meets. -/
def State.farError (s : State) (r : FaultRec) : State := r.word.elim s s.hbmError

/-- R256–R269, R363: a STOW, a patch operation or a fork of another device on a tensor held here: the answer is its fault, or
the four lanes of its status (R254). -/
def State.remotePatch (s : State) (dev p : Nat) (who : FarCtx) (op : FarPatch) : State :=
  match runFar p (farReader dev who) op (s.cacheGranules p (s.farUnits p op)) with
  | .wait => s
  | .fail r t => (t.farError r).respond (devKey dev) r.code []
  | .done code count a b t =>
    t.respond (devKey dev) stDone ([code, count, a, b].flatMap (fun v => leBytes (v % 2 ^ 32) 4))

/-- R250: the 8 bytes that hold the value of an element of a tensor exactly, where records add to it: an INT64 for an integer
format, and an FP64 for any other, of whose FP32 sum it is a wider form (assumption log 17, DESIGN CHOICE). -/
def exactBytes (f : Sfmt) (v : Fv) : List Byte :=
  if f.isInt then leBytes (v.toIntSat .rne true 64 % 2 ^ 64).toNat 8 else leBytes (rne64 v) 8

/-- R249, R250, R273: a read by another device of one element through a ray, the index last (assumption log 17, DESIGN
CHOICE). -/
def State.remoteElement (s : State) (dev p : Nat) (who : FarCtx) (handle : BitVec 32) (ray : Nat) (row col : Int) : State :=
  let x := farReader dev who
  let ref : TRef := { handle := handle, ray := ray }
  match s.outerHandle p handle clTensor with
  | .error code => s.respond (devKey dev) code []
  | .ok h =>
    if !(h.ray ray).alive then s.respond (devKey dev) fcInvalid []
    else if !h.inside row col then s
    else
      let s1 := s.afterTensor p ref x row col 1 1
      match s.rowDamage p h ref x row col 1 with
      | some r => (s1.farError r).respond (devKey dev) r.code []
      | none =>
        let e := readElem (s.proc p) h ray x (h.elem row col)
        if e.poison.isSome then s1.respond (devKey dev) fcPoisoned []
        else
          s1.respond (devKey dev) stDone
            (match e.bits with
             | some b => leBytes b 8 ++ [BitVec.ofNat 8 e.idx]
             | none => exactBytes h.sfmt e.val ++ [BitVec.ofNat 8 e.idx])

/-- R261, R263, R363: the base element that a patch operation of another device writes here. -/
def State.remoteStore (s : State) (dev p : Nat) (handle : BitVec 32) (row col : Int) (bits idx : Nat) : State :=
  let i := hIndex handle
  match s.outerHandle p handle clTensor with
  | .error code => s.respond (devKey dev) code []
  | .ok h =>
    if !h.inside row col then s
    else
      ((s.setHandle p i (h.setElem (h.elem row col) (bits % 2 ^ h.sfmt.bits) (some (idx % 16)))).touch p i
        (h.lines row col 1 1)).respond (devKey dev) stDone []

/-- R315, R363: the bytes of a region held here that an operation of another device reads: those of a queue's body, of cells
or of a list, a page of code that is mapped, or a save area. -/
def State.remoteLoad (s : State) (dev p : Nat) (handle : BitVec 32) (off n : Nat) : State :=
  let i := hIndex handle
  let cls := (s.handle p i).cls
  match s.outerHandle p handle cls with
  | .error code => s.respond (devKey dev) code []
  | .ok h =>
    if cls = clTensor ∨ h.len < off + n ∨ (cls = clCode ∧ ∃ k < n, (off + k) / 1024 ∉ h.present) then
      s.respond (devKey dev) fcInvalid []
    else
      let (s1, bad) := s.unitRead p i off n
      s1.reply (devKey dev) (if bad then .error fcMemory else .ok (Memory.readRun h.data off n))

/-- R306, R363: the bytes of a queue's body, of cells or of a save area that an operation of another device writes. -/
def State.remotePut (s : State) (dev p : Nat) (handle : BitVec 32) (off : Nat) (bs : List Byte) : State :=
  let i := hIndex handle
  let cls := (s.handle p i).cls
  match s.outerHandle p handle cls with
  | .error code => s.respond (devKey dev) code []
  | .ok h =>
    if (cls ≠ clQbody ∧ cls ≠ clSync ∧ cls ≠ clSave) ∨ h.len < off + bs.length then s.respond (devKey dev) fcInvalid []
    else
      let s1 := (s.healCells p i off bs.length).setHandle p i { h with data := Memory.writeRun h.data off bs }
      let s2 := s1.touch p i (linesAt off bs.length)
      (if cls = clSync then s2.tailWritten p i off else s2).respond (devKey dev) stDone []

/-- The process and the handle that an access of another device names, with the granule or the page; none for a patch
operation, which may name several. -/
def State.remoteUnit (s : State) (r : RemoteReq) : Option (Nat × BitVec 32 × Nat) :=
  match r with
  | .atomic _ p h off _ | .load p h off _ | .put p h off _ => some (p, h, pageOf off)
  | .element p _ h _ row col | .store p h row col _ _ =>
    let e := s.handle p (hIndex h)
    some (p, h, if e.inside row col then e.granule (e.elem row col) else 0)
  | .patch .. => none

/-! ### Accesses arriving and held (R327, R407) -/

/-- An access from outside the device, or one of a launch unit whose turn has come, is made. -/
def State.heldDo (s : State) (w : HeldWhat) : State :=
  match w with
  | .op _ _ | .list _ _ => s
  | .fill c x g => s.fillPage c x g
  | .queue p q =>
    match s.queue p q with
    | some v => s.dispatch v.home
    | none => s
  | .deps p die src =>
    match (s.die die).cands.findIdx? (fun c => decide (c.proc = p) && decide (c.src = src)) with
    | some i => s.testDeps die i
    | none => s
  | .retire l => s.retire l
  | .save c x => if (s.ctx c x).marked then s.saveCtx c x else s.resumeSaved c x
  | .auto p n => s.deferredApply p n
  | .hostWrite a bs => s.hostWriteAt a bs
  | .hostRead a n => s.hostReadAt a n
  | .hostAtomic op a q => s.hostAtomicAt op a q
  | .remote dev r =>
    match r with
    | .atomic op p h off q => s.remoteAtomic dev op p h off q
    | .element p who h ray row col => s.remoteElement dev p who h ray row col
    | .patch p who op => s.remotePatch dev p who op
    | .store p h row col bits idx => s.remoteStore dev p h row col bits idx
    | .load p h off n => s.remoteLoad dev p h off n
    | .put p h off bs => s.remotePut dev p h off bs

/-- R327, R407: an access from outside the device arrives: it is made, or held behind those that the replay queues hold for
its handle. -/
def State.arrive (s : State) (p i n : Nat) (waits : Bool) (w : HeldWhat) : State :=
  if waits || !s.noneHeld p i then s.holdNew p i n w else s.heldDo w

/-- R327: an access of a host, once its port is up, to a region of one of the classes. -/
def State.hostArrive (s : State) (a : HostAccess) (classes : List Nat) (n : Nat) (w : HeldWhat) : State :=
  if !s.portsUp a.proc || decide (64 ≤ a.host) then s
  else
    match s.hostFate a classes n with
    | .bad _ => s.heldDo w
    | f => s.arrive a.proc (hIndex a.handle) (pageOf a.offset) (decide (f = .wait)) w

/-- HOST_WRITE (R406). -/
def State.hostWrite (s : State) (a : HostAccess) (bs : List Byte) : State :=
  s.hostArrive a [clQbody] bs.length (.hostWrite a bs)

/-- HOST_READ (R406). -/
def State.hostRead (s : State) (a : HostAccess) (n : Nat) : State := s.hostArrive a [clQbody, clSync] n (.hostRead a n)

/-- The host atomics (R406). -/
def State.hostAtomic (s : State) (op : Nat) (a : HostAccess) (q : AtomicArgs) : State :=
  s.hostArrive a [clSync] (2 ^ q.size.toNat) (.hostAtomic op a q)

/-- REMOTE_ACCESS (R363): this device's agent performs an access of another device of the domain. -/
def State.remoteAccess (s : State) (dev : Nat) (r : RemoteReq) : State :=
  if !s.portsUp 1 || decide (1024 ≤ dev) || decide (dev = s.node) then s
  else
    let w : HeldWhat := .remote dev r
    match s.remoteUnit r, r with
    | some (p, h, n), _ =>
      match s.remoteLook p h r with
      | .bad _ => s.heldDo w
      | f => s.arrive p (hIndex h) n (decide (f = .wait)) w
    | none, .patch p _ op => (s.gate p (s.farUnits p op) w).getD (s.heldDo w)
    | none, _ => s

/-- Whether an access that a replay queue holds is made here, and not by the event of an operation. -/
def HeldWhat.unitary (w : HeldWhat) : Bool :=
  match w with
  | .op _ _ => false
  | _ => true

/-- R327: of the accesses to a handle that the replay queues release, the oldest of a queue, made for a launch unit or for a
party outside the device; it then leaves the queues. -/
def State.replayNext (s : State) (p i : Nat) : State :=
  match s.replays.findSome? (fun q => (s.heldFor q.1 p i).head?.filter (fun a => a.what.unitary && s.released a.what)) with
  | none => s
  | some a => (s.heldDo a.what).leaveUnit a.what

/-! ### The meanings of the events -/

/-- The meaning of HOST_WRITE. -/
def execHostWrite (h : HostAccess) (bytes : List Byte) (s : State) : Host.Outcome State Fault Refusal :=
  .next (s.hostWrite h bytes)

/-- The meaning of HOST_READ. -/
def execHostRead (h : HostAccess) (len : Nat) (s : State) : Host.Outcome State Fault Refusal := .next (s.hostRead h len)

/-- The meaning of HOST_ATOMIC_ADD. -/
def execHostAtomicAdd (h : HostAccess) (p : AtomicArgs) (s : State) : Host.Outcome State Fault Refusal :=
  .next (s.hostAtomic 0x13 h p)

/-- The meaning of HOST_ATOMIC_MAX. -/
def execHostAtomicMax (h : HostAccess) (p : AtomicArgs) (s : State) : Host.Outcome State Fault Refusal :=
  .next (s.hostAtomic 0x14 h p)

/-- The meaning of HOST_ATOMIC_OR. -/
def execHostAtomicOr (h : HostAccess) (p : AtomicArgs) (s : State) : Host.Outcome State Fault Refusal :=
  .next (s.hostAtomic 0x15 h p)

/-- The meaning of HOST_ATOMIC_CAS. -/
def execHostAtomicCas (h : HostAccess) (p : AtomicArgs) (s : State) : Host.Outcome State Fault Refusal :=
  .next (s.hostAtomic 0x16 h p)

/-- The meaning of HOST_ATOMIC_SWAP. -/
def execHostAtomicSwap (h : HostAccess) (p : AtomicArgs) (s : State) : Host.Outcome State Fault Refusal :=
  .next (s.hostAtomic 0x17 h p)

/-- The meaning of HOST_ATOMIC_LDA. -/
def execHostAtomicLda (h : HostAccess) (p : AtomicArgs) (s : State) : Host.Outcome State Fault Refusal :=
  .next (s.hostAtomic 0x18 h p)

/-- The meaning of HOST_ATOMIC_STL. -/
def execHostAtomicStl (h : HostAccess) (p : AtomicArgs) (s : State) : Host.Outcome State Fault Refusal :=
  .next (s.hostAtomic 0x19 h p)

/-- The meaning of REMOTE_ACCESS. -/
def execRemoteAccess (dev : Nat) (r : RemoteReq) (s : State) : Host.Outcome State Fault Refusal := .next (s.remoteAccess dev r)

end Sys2Proof.Machine
end

