-- ==== Sys2Proof/Machine/Firmware.lean ====
section
/-! DEFINITION. Bring-up and resets (R403, R411, R416–R420, R424), revocation and migration (R326–R329), scrubbing
(R422), power (R423) and the registers that the service firmware writes (R350, R423). -/

set_option Elab.async false

namespace Sys2Proof.Machine

/-! ### Images (R416, R417) -/

/-- The bytes of an image from `off` to `off + n − 1`. -/
def imBytes (im : List Byte) (off n : Nat) : List Byte := (im.drop off).take n
def imNat (im : List Byte) (off n : Nat) : Nat := leNat (imBytes im off n)

/-- R416: whether the root firmware accepts an image of a kind. -/
def imageOk (kind : Nat) (im : List Byte) : Bool :=
  let key := imBytes im 0xC0 57
  decide (256 ≤ im.length) && decide (imNat im 0x00 4 = kind) && decide (Config.fusedMinVersion kind ≤ imNat im 0x04 4) &&
    decide (im.length = 256 + imNat im 0x08 8) && decide (imNat im 0x10 48 = 0) && decide (imNat im 0xB2 14 = 0) &&
    decide (imNat im 0xF9 7 = 0) && decide (shake256 key = leBytes Config.fusedKeyHash.toNat 32) &&
    ed448Verify key (im.take 0x40 ++ im.drop 0x100) (imBytes im 0x40 114)

/-- R417: the chain after one more image. -/
def measure (chain im : List Byte) : List Byte := shake256 (chain ++ shake256 im)

/-! ### Bring-up (R419) -/

/-- A region that MAP, or bring-up, lays out: VALID, on this device. -/
def Handle.region (cls len : Nat) : Handle := { Handle.reset with cls := cls, st := .valid, len := len }

/-- R411: process 0 and its three fixed handles. -/
def mailboxes : Process :=
  { Process.reset with
    alive := true
    handles := [(1, Handle.region clQbody 65536), (2, Handle.region clSync 1024), (3, Handle.region clQbody 16384)] }

/-- The device as a reset leaves it (R420): what the model itself holds, and what bring-up meets, stay. -/
def State.cleared (s : State) : State :=
  { State.reset with agenda := s.agenda, foc := s.foc, draws := s.draws, stamp := s.stamp, boot := s.boot }

/-- R416, R417: the image of a kind is checked; an accepted one is measured and its step is complete, a refused one stops
bring-up with the mailboxes up. -/
def State.check (s : State) (kind step : Nat) : State :=
  if s.failed then s
  else
    let im := s.boot.images.getD (kind - 1) []
    if imageOk kind im then { s with chain := measure s.chain im, accepted := s.accepted + 1, step := step }
    else { s with failed := true, procs := [(0, mailboxes)] }

/-- R403: the numbers that the ports report. -/
def portNumbers (b : BringUp) : List (Nat × Nat) :=
  (b.reports.take 24).zipIdx.filterMap (fun q => if q.1.1 < 32 ∧ q.1.2 < 32 then some (q.2, 32 * q.1.1 + q.1.2) else none)

/-- R403, R411, R419 steps 6 and 7: the ports train; the device takes the number that its first port reports, and a port
that reports another is a training failure. Without a report, step 6 does not complete. -/
def State.train (s : State) : State :=
  if s.failed then s
  else
    match portNumbers s.boot with
    | [] => s
    | (_, n) :: rest =>
      let bad := (rest.filter (fun r => decide (r.2 ≠ n))).map Prod.fst
      let s1 := { s with node := n, step := 7, procs := [(0, { mailboxes with
        handles := mailboxes.handles.map (fun h => (h.1, { h.2 with place := { h.2.place with node := n } })) })] }
      bad.foldl (fun t r => t.notify (.training r)) s1

/-- R419: steps 2 to 7. -/
def State.fromStep2 (s : State) : State := ((s.check 2 4).check 3 5).train

/-- R419, R424: bring-up from its first step; a first reading above 95 °C holds it before step 2.
Assumption log 63 (DEDUCED). -/
def State.bringUp (s : State) : State :=
  let s1 := s.check 1 1
  if 95 < s.boot.temp ∧ !s1.failed then { s1 with tripped := true } else s1.fromStep2

/-- POWER_GOOD (R419). -/
def State.powerGood (s : State) (b : BringUp) : State :=
  if s.step ≠ 0 ∨ s.failed ∨ s.tripped then s else { s.cleared with boot := b }.bringUp

/-- THERMAL_TRIP (R424): the device is held in reset. -/
def State.trip (s : State) : State :=
  if (s.step = 0 ∧ !s.failed) ∨ s.tripped then s else { s.cleared with tripped := true }

/-- THERMAL_RECOVERY (R424): bring-up is repeated; its first step meets the same root stage, so this is bring-up from
step 2. -/
def State.recover (s : State) : State :=
  if s.tripped then { s.cleared with boot := { s.boot with temp := 0 } }.bringUp else s

/-- WATCHDOG_RESET (R420): the service firmware, started at step 5, fails to answer. -/
def State.watchdog (s : State) : State :=
  if s.step < 5 ∨ s.tripped then s else { s.cleared with boot := { s.boot with temp := 0 } }.bringUp

/-! ### Revocation (R326) -/

/-- The operations in flight on every core: core and number. -/
def State.allOps (s : State) : List (Nat × Nat) := s.cores.flatMap (fun k => k.2.dops.map (fun o => (k.1, o.id)))

/-- R326 steps 1 and 2: the entry is revoked and its generation rises; it keeps the operations that are in flight at the
revocation point, and both places of a region that was being moved. Assumption log 67 (DEDUCED). -/
def State.revoke (s : State) (p i : Nat) : State :=
  (s.invalidate p i).modHandle p i (fun h =>
    { h with st := .revoked, gen := (h.gen + 1) % 256, pull := false, live := s.allOps })

/-- R326 step 4: a revoked entry without its storage; the records on its rays stay (R244), and so do its class and its
shape. -/
def State.freeStorage (s : State) (p i : Nat) : State :=
  (s.heal (regionWords p i)).modHandle p i (fun h =>
    { Handle.reset with
      cls := h.cls, st := .revoked, gen := h.gen, fmt := h.fmt, scl := h.scl, rows := h.rows, cols := h.cols, rays := h.rays,
      born := h.born })

/-- REVOCATION_STORAGE_FREE (R326): once every operation that was in flight at the revocation point has completed. -/
def State.freeRevoked (s : State) (p i : Nat) : State :=
  let h := s.handle p i
  if h.st = .revoked ∧ h.held ∧ h.live.all (fun q => !(s.core q.1).inFlight q.2) then s.freeStorage p i else s

/-! ### Migration (R327–R329) -/

/-- R328: the 4 KiB lines of a region; those of a tensor count the bytes of its elements, row by row, without the indices of
its scale plane. Assumption log 108 (DESIGN CHOICE). -/
def Handle.lineCount (h : Handle) : Nat :=
  ((if h.cls = clTensor then (h.rows * h.cols * h.sfmt.bits + 7) / 8 else h.len) + 4095) / 4096

/-- R327, R328, R421: words of a region are copied to its new place: what ECC corrects is correct there. -/
def State.copyWords (s : State) (p : Damage → Bool) : State :=
  let t := (s.readWords p).1
  { t with weak := t.weak.filter (fun d => !p d) }

/-- MIGRATION_COPY_DONE (R327): the new place is in force, and the held accesses go on in their order: those of the cores'
engines by their own events, and those of hosts and other devices here, one at a time. -/
def State.copyDone (s : State) (p i : Nat) : State :=
  let h := s.handle p i
  if h.st = .migrating then
    (((s.copyWords (regionWords p i)).invalidate p i).setHandle p i { h with st := .valid, place := h.plan.getD h.place, old := none, plan := none }).notify
      (.migrated p i)
  else s.replayNext p i

/-- PULL_LINE_FETCH (R328): an absent line is fetched once. -/
def State.pullLine (s : State) (p i line : Nat) : State :=
  let h := s.handle p i
  if h.pull ∧ line < h.lineCount ∧ !h.present.contains line then (s.copyWords (s.lineWords p i line)).touch p i [line] else s

/-- PULL_BACKGROUND_FETCH (R328): the next absent line, in ascending order, of the first region that is being pulled. -/
def State.pullNext (s : State) : State :=
  match s.procs.findSome? (fun v => (v.2.handles.find? (fun e => e.2.pull)).map (fun e => (v.1, e.1, e.2))) with
  | none => s
  | some (p, i, h) =>
    match (List.range h.lineCount).find? (fun n => !h.present.contains n) with
    | none => s
    | some n => (s.copyWords (s.lineWords p i n)).touch p i [n]

/-- PULL_COMPLETION (R328): once every line is present. -/
def State.pullDone (s : State) (p i : Nat) : State :=
  let h := s.handle p i
  if h.pull ∧ (List.range h.lineCount).all (fun n => h.present.contains n) then
    ((s.invalidate p i).setHandle p i { h with pull := false, old := none, present := [] }).notify (.migrated p i)
  else s

/-! ### Scrubbing, power and registers (R350, R422, R423) -/

/-- Whether a word lies in device memory. -/
def Damage.inHbm (d : Damage) : Bool :=
  match d with
  | .cell .. | .base .. | .store .. | .undo .. | .link .. => true
  | _ => false

/-- Whether a word lies in the base storage of a tensor. -/
def Damage.isBase (d : Damage) : Bool :=
  match d with
  | .base .. => true
  | _ => false

/-- SCRUB_READ (R422). A correctable error is counted and rewritten with its corrected bits: the first one listed on the
stacks of the die. An error beyond correction poisons its granule in a tensor's base storage, and is counted alone in other
storage. Assumption log 10 (DESIGN CHOICE). -/
def State.scrub (s : State) (f : ScrubFind) : State :=
  match f with
  | .clean => s
  | .corrected die =>
    if Config.dies ≤ die then s
    else
      match s.weak.find? (fun d => d.inHbm && decide (s.damageDie d = die)) with
      | some d => { s.count die erCeHbm with weak := s.weak.erase d }
      | none => s.count die erCeHbm
  | .standing die =>
    if s.damaged.any (fun d => d.inHbm && !d.isBase && decide (s.damageDie d = die)) then s.count die erUeHbm else s
  | .uncorrectable p i g =>
    let h := s.handle p i
    if h.cls = clTensor ∧ h.st ≠ .free ∧ h.st ≠ .revoked ∧ h.granElems g ≠ [] then
      let s1 := (s.heal (fun d => decide (d.unit = .base p i g 0))).count (h.dieAt g) erUeHbm
      if h.poison.contains g then s1
      else (s1.modHandle p i (fun e => { e with poison := e.poison ++ [g] })).count (h.dieAt g) erPoisoned
    else s

/-- POWER_ESTIMATE (R423): the throttle level of a die, from an estimate in watts and the junction temperature. -/
def State.power (s : State) (d watts temp : Nat) : State :=
  if s.step < 2 ∨ s.tripped ∨ Config.dies ≤ d then s
  else
    let hot := decide (105 ≤ temp)
    let tl := if hot then 7 else (Config.throttle watts (s.die d).plimit s.draws).toNat
    { s.modDie d (fun v =>
        { v with tl := tl, hot := hot, tcyc := if 0 < tl then min (v.tcyc + 1) (2 ^ 32 - 1) else v.tcyc }) with
      draws := s.draws + 1 }

/-- R423: a write of the status register of a die: PLIMIT within its range, and TCYC cleared bit by bit. -/
def Die.wrStatus (v : Die) (w : Word) : Die :=
  let lim := w.toNat / 2 ^ 16 % 2 ^ 16
  { v with
    plimit := if 600 ≤ lim ∧ lim ≤ 2400 then lim else v.plimit
    tcyc := (BitVec.ofNat 32 v.tcyc &&& ~~~ (w.extractLsb' 32 32)).toNat }

/-- R423: the status register of a die as the service firmware reads it. -/
def Die.status (v : Die) : Word :=
  BitVec.ofNat 64 (v.tl + v.hot.toNat * 2 ^ 3 + v.plimit * 2 ^ 16 + v.tcyc * 2 ^ 32)

/-- FIRMWARE_REGISTER_WRITE (R350, R423): register 0 is the status register of a die, registers 1 to 8 its error
counters. -/
def State.fwWrite (s : State) (d reg : Nat) (w : Word) : State :=
  if s.step < 5 ∨ s.tripped ∨ Config.dies ≤ d then s
  else
    match reg with
    | 0 => s.modDie d (fun v => v.wrStatus w)
    | k + 1 => if k < 8 then s.modDie d (fun v => { v with errs := Tab.put v.errs k (w.toNat % 2 ^ 32) }) else s

/-! ### The meanings of the events -/

/-- The meaning of POWER_GOOD. -/
def execPowerGood (b : BringUp) (s : State) : Host.Outcome State Fault Refusal := .next (s.powerGood b)

/-- The meaning of THERMAL_TRIP. -/
def execThermalTrip (s : State) : Host.Outcome State Fault Refusal := .next s.trip

/-- The meaning of THERMAL_RECOVERY. -/
def execThermalRecovery (s : State) : Host.Outcome State Fault Refusal := .next s.recover

/-- The meaning of WATCHDOG_RESET. -/
def execWatchdogReset (s : State) : Host.Outcome State Fault Refusal := .next s.watchdog

/-- The meaning of REVOCATION_STORAGE_FREE. -/
def execRevocationStorageFree (proc index : Nat) (s : State) : Host.Outcome State Fault Refusal :=
  .next (s.freeRevoked proc index)

/-- The meaning of MIGRATION_COPY_DONE. -/
def execMigrationCopyDone (proc index : Nat) (s : State) : Host.Outcome State Fault Refusal := .next (s.copyDone proc index)

/-- The meaning of PULL_LINE_FETCH. -/
def execPullLineFetch (proc index line : Nat) (s : State) : Host.Outcome State Fault Refusal :=
  .next (s.pullLine proc index line)

/-- The meaning of PULL_BACKGROUND_FETCH. -/
def execPullBackgroundFetch (s : State) : Host.Outcome State Fault Refusal := .next s.pullNext

/-- The meaning of PULL_COMPLETION. -/
def execPullCompletion (proc index : Nat) (s : State) : Host.Outcome State Fault Refusal := .next (s.pullDone proc index)

/-- The meaning of SCRUB_READ. -/
def execScrubRead (found : ScrubFind) (s : State) : Host.Outcome State Fault Refusal := .next (s.scrub found)

/-- The meaning of POWER_ESTIMATE. -/
def execPowerEstimate (die watts temp : Nat) (s : State) : Host.Outcome State Fault Refusal := .next (s.power die watts temp)

/-- The meaning of FIRMWARE_REGISTER_WRITE. -/
def execFirmwareRegisterWrite (die reg : Nat) (value : Word) (s : State) : Host.Outcome State Fault Refusal :=
  .next (s.fwWrite die reg value)

/-- The meaning of FLIT_RETRY (R401): a retry changes no value and no order. -/
def execFlitRetry (s : State) : Host.Outcome State Fault Refusal := .next s

end Sys2Proof.Machine
end

