-- ==== Sys2Proof/Machine/Mailbox.lean ====
section
/-! DEFINITION. The firmware mailbox (R409–R411, R418): the ring of each host, and what the service firmware does at each
code. -/

set_option Elab.async false

namespace Sys2Proof.Machine

/-! ### The rings (R409, R411) -/

/-- A request as the firmware reads it: the host and the 64 bytes of its record. -/
structure Req where
  host : Nat
  bytes : List Byte
  deriving DecidableEq, Repr

/-- R292, R411: the counts of a host's ring. -/
def State.mailHead (s : State) (h : Nat) : Nat := Memory.readNat (s.handle 0 2).data (16 * h) 8
def State.mailTail (s : State) (h : Nat) : Nat := Memory.readNat (s.handle 0 2).data (16 * h + 8) 8

/-- R411: where a host's next record lies. -/
def State.mailAt (s : State) (h : Nat) : Nat := 1024 * h + s.mailHead h % 16 * 64

/-- R421: the words of a host's counts and of its next record. -/
def State.mailWords (s : State) (h : Nat) (d : Damage) : Bool :=
  cellWords 0 2 (16 * h) 16 d || cellWords 0 1 (s.mailAt h) 64 d

/-- R409: a host's next record, if its ring holds one; one in error beyond correction is not read (assumption log 18, DESIGN
CHOICE). -/
def State.mail (s : State) (h : Nat) : Option Req :=
  if s.mailHead h = s.mailTail h ∨ s.damaged.any (s.mailWords h) = true then none
  else some { host := h, bytes := Memory.readRun (s.handle 0 1).data (s.mailAt h) 64 }

def Req.nat (r : Req) (off n : Nat) : Nat := recNat r.bytes off n
def Req.code (r : Req) : Nat := r.nat 0x00 1
def Req.proc (r : Req) : Nat := r.nat 0x02 2
def Req.h32 (r : Req) (off : Nat) : BitVec 32 := BitVec.ofNat 32 (r.nat off 4)

/-- R409: byte 0x01, and the bytes of ARGS that are not named, are zero. Assumption log 64 (DEDUCED). -/
def Req.clean (r : Req) (named : List (Nat × Nat)) : Bool :=
  decide (r.nat 0x01 1 = 0) &&
    (List.range 48).all (fun i =>
      named.any (fun q => decide (q.1 ≤ 8 + i) && decide (8 + i < q.1 + q.2)) || decide (r.nat (8 + i) 1 = 0))

/-- R409: the firmware is done with a record: STATUS and RESULT are written, and HEAD rises by one. -/
def State.mailDone (s : State) (r : Req) (status result : Nat) : State :=
  let at_ := s.mailAt r.host
  let s1 := s.modHandle 0 1 (fun h =>
    { h with data := Memory.writeNat (Memory.writeNat h.data (at_ + 4) 4 status) (at_ + 0x38) 8 result })
  s1.modHandle 0 2 (fun h => { h with data := Memory.writeNat h.data (16 * r.host) 8 (s.mailHead r.host + 1) })

/-- The answer to a request: STATUS, RESULT and the state. -/
structure Answer where
  status : Nat
  result : Nat
  st : State

/-- The statuses of R409. -/
def msRefused : Nat := 0x01
def msNoRoom : Nat := 0x02
def msMalformed : Nat := 0x03

def State.refuse (s : State) (status : Nat) : Answer := { status := status, result := 0, st := s }
def State.answer (s : State) (result : Nat) : Answer := { status := 0, result := result, st := s }

/-- The firmware serves the next request of a code: that of the lowest host whose next record has it and can be acted on
(assumption log 18, DESIGN CHOICE). After a failed image check only ATTEST is served (R417). -/
def State.serveWhen (s : State) (code : Nat) (ready : Req → Bool) (f : State → Req → Answer) : State :=
  if !s.portsUp 0 then s
  else
    match ((List.range 64).filterMap s.mail).find? (fun r => decide (r.code = code) && (s.failed || ready r)) with
    | none => s
    | some r =>
      let t := s.correctHbm (s.mailWords r.host)
      if s.failed ∧ code ≠ 0x07 then t.mailDone r msRefused 0
      else
        let a := f t r
        a.st.mailDone r a.status a.result

/-- The firmware serves the next request of a code. -/
def State.serve (s : State) (code : Nat) (f : State → Req → Answer) : State := s.serveWhen code (fun _ => true) f

/-- A request for a process, with its reserved bytes zero. -/
def State.forProc (s : State) (r : Req) (named : List (Nat × Nat)) (f : Nat → Answer) : Answer :=
  if !r.clean named then s.refuse msMalformed
  else if r.proc = 0 ∨ !(s.proc r.proc).alive then s.refuse msRefused
  else f r.proc

/-- A handle that a request names: VALID, MIGRATING or neither. -/
def State.named (s : State) (p : Nat) (h : BitVec 32) : Option (Nat × Handle) :=
  let e := s.handle p (hIndex h)
  match s.lookup p h e.cls with
  | .bad _ => none
  | _ => some (hIndex h, e)

/-! ### MAP (R410) -/

/-- R410: the fields of the region layout. -/
structure MapArgs where
  cls : Nat
  scl : Bool
  auto : Bool
  host : Bool
  fmt : Nat
  stack : Nat
  rows : Nat
  cols : Nat
  len : Nat
  handle : BitVec 32
  src : BitVec 32
  off : Nat
  deriving DecidableEq, Repr

def Req.mapArgs (r : Req) : MapArgs :=
  let fl := r.nat 0x09 1
  { cls := r.nat 0x08 1, scl := decide (fl % 2 = 1), auto := decide (fl / 2 % 2 = 1), host := decide (fl / 4 % 2 = 1),
    fmt := r.nat 0x0A 1, stack := r.nat 0x0B 1, rows := r.nat 0x0C 4, cols := r.nat 0x10 4, len := r.nat 0x14 8,
    handle := r.h32 0x1C, src := r.h32 0x20, off := r.nat 0x24 8 }

/-- R31, R38, R239: the attributes of a tensor. -/
def MapArgs.tensorOk (a : MapArgs) : Bool :=
  match Sfmt.ofCode a.fmt with
  | none => false
  | some f =>
    decide (1 ≤ a.rows) && decide (a.rows < 2 ^ 31) && decide (1 ≤ a.cols) && decide (a.cols < 2 ^ 31) &&
      (decide (f ≠ .lns6) || decide (a.cols % 4 = 0)) &&
      (!a.scl || (([3, 4, 5, 8] : List Nat).contains a.fmt && decide (a.cols % 32 = 0)))

/-- R239, R277, R292, R315, R410: whether the fields of a MAP are well formed; a stack is 0 to 11 or 0xFF, a SYNC region is
made of cells and a QBODY region of record slots. Assumption log 66 (DEDUCED). -/
def MapArgs.ok (a : MapArgs) : Bool :=
  decide (a.stack ≤ 11 ∨ a.stack = 255) &&
    (match a.cls with
     | 1 => a.tensorOk
     | 2 => decide (a.len % 8 = 0)
     | 3 => decide (a.len % 1024 = 0)
     | 6 => decide (a.len % 256 = 0) && decide (a.len ≠ 0)
     | 4 | 5 => true
     | _ => false)

/-- R40: the bytes of a row of a scale plane. -/
def planeRow (cols : Nat) : Nat := (cols / 32 + 15) / 16 * 8

/-- The bytes of a tensor's base in its format, row-major. -/
def MapArgs.baseBytes (a : MapArgs) : Nat := (a.rows * a.cols * ((Sfmt.ofCode a.fmt).getD .fp32).bits + 7) / 8

/-- R410: the number of initial bytes that a region takes. -/
def MapArgs.srcBytes (a : MapArgs) : Nat :=
  if a.cls = clTensor then a.baseBytes + (if a.scl then a.rows * planeRow a.cols else 0) else a.len

/-- n bits from bit `b` of the bytes from `off` on (R1). -/
def memBits (m : Memory) (off b n : Nat) : Nat :=
  Memory.readNat m (off + b / 8) ((b % 8 + n + 7) / 8) / 2 ^ (b % 8) % 2 ^ n

/-- A table of the nonzero values among the first n. -/
def tabOf (n : Nat) (f : Nat → Nat) : Tab Nat :=
  (List.range n).filterMap (fun i => if f i = 0 then none else some (i, f i))

/-- The initial contents of a tensor, from the bytes from `off` on. -/
def MapArgs.fill (a : MapArgs) (m : Memory) (h : Handle) : Handle :=
  let n := h.sfmt.bits
  let gs := a.cols / 32
  { h with
    base := tabOf (a.rows * a.cols) (fun e => memBits m a.off (n * e) n)
    idx := if a.scl then
        tabOf (a.rows * gs) (fun g => memBits m (a.off + a.baseBytes + g / gs * planeRow a.cols) (4 * (g % gs)) 4)
      else [] }

/-- n bytes of a memory from `off`, as a memory of their own. -/
def Memory.slice (m : Memory) (off n : Nat) : Memory :=
  (m.filter (fun q => decide (off ≤ q.1) && decide (q.1 < off + n))).map (fun q => (q.1 - off, q.2))

/-- The region that a MAP lays out on a device, by a draw of the firmware's choices, with its initial bytes from the
memory given; its stacks are still to be chosen. -/
def MapArgs.region (a : MapArgs) (node draw host : Nat) (src : Option Memory) : Handle :=
  let h := { Handle.region a.cls a.len with
    place := { node := node, runs := [], born := draw, moved := [] }, born := draw, held := true,
    host := if a.host ∧ (a.cls = clSync ∨ a.cls = clQbody) then some host else none }
  if a.cls = clTensor then
    let t := { h with len := 0, fmt := a.fmt, scl := a.scl, auto := a.auto, rows := a.rows, cols := a.cols,
                      rays := [(0, { Ray.reset with alive := true, born := draw })] }
    match src with
    | some m => a.fill m t
    | none => t
  else
    let t := if a.cls = clCode then { h with present := List.range (a.len / 1024) } else h
    match src with
    | some m => { t with data := Memory.slice m a.off a.len }
    | none => t

/-- R314: the least index that MAP may give: a free one, or one whose revoked storage is freed, on whose rays no record
is left, and whose generation has not come round (R326). Assumption log 65 (DESIGN CHOICE). -/
def Process.newIndex (p : Process) : Option Nat :=
  let taken := fun (i : Nat) =>
    match Tab.find p.handles i with
    | some h =>
      decide (h.st ≠ .free) && (p.patches.any (fun q => decide (q.2.home = i)) ||
        !(decide (h.st = .revoked) && !h.held && decide (h.gen ≠ 0)))
    | none => false
  ((List.range (p.handles.length + 1)).map (· + 1)).find? (fun i => !taken i && decide (i < 2 ^ 24))

/-- R410, R238: the stacks of n pages of a region, or of n granules of a tensor, of u bytes each: the one that MAP names, or
the firmware's choice. -/
def State.runsFor (s : State) (p stack cls u n : Nat) : List (Nat × Nat) :=
  if stack ≤ 11 then [(stack, n)] else if cls = clTensor then s.poolRuns p u n else s.pageRuns n

/-- R410, R277: the initial bytes of a MAP from the `skip`th on, read (R328, R350): none, or those of a QBODY region that holds
them all; a SYNC region reads as zero. A source in error beyond correction is refused, as one that is not there.
Assumption log 66 (DEDUCED). -/
def State.mapSource (s : State) (p : Nat) (a : MapArgs) (skip : Nat) : State × Option (Option Memory) :=
  if a.src = 0 ∨ a.cls = clSync then (s, some none)
  else
    match s.lookup p a.src clQbody with
    | .ok e =>
      let n := a.srcBytes - skip
      if e.len < a.off + a.srcBytes then (s, none)
      else if n = 0 then (s, some (some e.data))
      else
        let (t, bad) := s.unitRead p (hIndex a.src) (a.off + skip) n
        (t, if bad then none else some (some e.data))
    | _ => (s, none)

/-- R317, R410: the mapped pages of a CODE handle are extended, its entry invalidated in every cache. -/
def State.extendCode (s : State) (p : Nat) (a : MapArgs) : Answer :=
  match s.lookup p a.handle clCode with
  | .ok e =>
    if a.len < e.len then s.refuse msRefused
    else
      match s.mapSource p a e.len with
      | (t, none) => t.refuse msRefused
      | (t, some src) =>
        let more := match src with
          | some m => Memory.writeRun e.data e.len (Memory.readRun m (a.off + e.len) (a.len - e.len))
          | none => e.data
        let runs := e.place.runs ++ t.runsFor p a.stack clCode Config.pageBytes (pagesFor a.len - pagesFor e.len)
        let t1 := (t.draw.invalidate p (hIndex a.handle)).setHandle p (hIndex a.handle)
          { e with len := a.len, data := more, present := List.range (a.len / 1024), place := { e.place with runs := runs } }
        if t1.fits then t1.answer a.handle.toNat else t.refuse msNoRoom
  | _ => s.refuse msRefused

/-- R410: a MAP that lays out a new region. -/
def State.mapNew (s : State) (p host : Nat) (a : MapArgs) : Answer :=
  match s.mapSource p a 0 with
  | (t, none) => t.refuse msRefused
  | (t, some src) =>
    match (t.proc p).newIndex with
    | none => t.refuse msNoRoom
    | some i =>
      let g := (t.handle p i).gen
      let h := a.region t.node t.draws host src
      let place := { h.place with runs := t.runsFor p a.stack a.cls h.unitBytes h.units }
      let t1 := t.draw.setHandle p i { h with gen := g, place := place }
      if t1.fits then t1.answer (i + g * 2 ^ 24) else t.refuse msNoRoom

/-- MAP (R410). -/
def State.mapReq (s : State) (r : Req) : Answer :=
  s.forProc r [(0x08, 36)] (fun p =>
    let a := r.mapArgs
    if !a.ok || decide (8 ≤ r.nat 0x09 1) then s.refuse msMalformed
    else if a.cls = clCode ∧ a.handle ≠ 0 then s.extendCode p a
    else s.mapNew p r.host a)

/-- R327, R329: whether an access of the firmware to a handle may be made: the handle is not being moved, and no replay queue
holds an access to it. -/
def State.freeOf (s : State) (p : Nat) (h : BitVec 32) : Bool :=
  decide ((s.handle p (hIndex h)).st ≠ .migrating) && s.noneHeld p (hIndex h)

/-- R327: whether the firmware can act on a MAP: its source, and the CODE region that it extends, may be reached. -/
def State.mapReady (s : State) (r : Req) : Bool :=
  let a := r.mapArgs
  !r.clean [(0x08, 36)] ||
    ((decide (a.src = 0) || s.freeOf r.proc a.src) && (decide (a.handle = 0) || s.freeOf r.proc a.handle))

/-- UNMAP (R410, R326). -/
def State.unmapReq (s : State) (r : Req) : Answer :=
  s.forProc r [(0x08, 4)] (fun p =>
    match s.named p (r.h32 0x08) with
    | none => s.refuse msRefused
    | some (i, _) => (s.revoke p i).answer 0)

/-! ### Work queues (R292, R296, R321) -/

/-- R321: the queue that a queue-table entry describes. -/
def Req.queue (r : Req) : Queue :=
  let b := r.nat 0x08 2
  { draining := false, c := b / 4 % 16, push := decide (b / 64 % 2 = 1), work := decide (b / 128 % 2 = 1),
    home := b / 256 % 4, resident := false, bodyH := r.h32 0x10, cellH := r.h32 0x18, headOff := r.nat 0x1C 4,
    tailOff := r.nat 0x20 4, since := [], deps := [] }

/-- R321: the fixed and the reserved fields of a queue-table entry. -/
def Req.queueOk (r : Req) : Bool :=
  decide (r.nat 0x08 1 % 4 = 1) && decide (r.queue.c ≤ 12) && decide (r.nat 0x08 8 < 2 ^ 10) &&
    decide (r.nat 0x14 4 = 0) && decide (r.nat 0x24 4 = 0) && decide (r.queue.headOff % 8 = 0) &&
    decide (r.queue.tailOff % 8 = 0)

/-- R292, R321: the regions of a queue: its body, and two cells. -/
def State.queueRegions (s : State) (p : Nat) (v : Queue) : Bool :=
  (match s.entry p v.bodyH clQbody with
   | some h => decide (256 * v.cap ≤ h.len)
   | none => false) &&
    syncRange s p v.cellH v.headOff 8 && syncRange s p v.cellH v.tailOff 8 && decide (v.headOff ≠ v.tailOff)

/-- The least number that no queue of a process has. -/
def Process.newQueue (p : Process) : Option Nat :=
  (List.range (p.queues.length + 1)).find? (fun q => (Tab.find p.queues q).isNone && decide (q < 4096))

/-- CREATEQ (R410, R321). -/
def State.createqReq (s : State) (r : Req) : Answer :=
  s.forProc r [(0x08, 32)] (fun p =>
    if !r.queueOk then s.refuse msMalformed
    else if !s.queueRegions p r.queue then s.refuse msRefused
    else
      match (s.proc p).newQueue with
      | none => s.refuse msNoRoom
      | some q => (s.setQueue p q r.queue).answer q)

/-- R292: the records that are in a queue. -/
def State.queued (s : State) (p : Nat) (v : Queue) : List (List Byte) :=
  (List.range (min (s.qCount p v) v.cap)).map (fun i => s.qRecord p v (s.qHead p v + i))

/-- R296, R314: the records of a LAUNCH queue that have not been dispatched complete as CLOSED, but those that can no longer
be read. -/
def State.dropQueued (s : State) (p q : Nat) (v : Queue) : State :=
  if v.work then s
  else
    let s1 := match s.qLook p v with
      | .ok _ =>
        let (s0, bad) := s.readCounts p v
        if bad then s0
        else
          let t := (s.queued p v).zipIdx.foldl (fun (t : State) (r : List Byte × Nat) =>
            let (u, bad) := t.unitRead p (hIndex v.bodyH) ((s.qHead p v + r.2) % v.cap * 256) 256
            if bad then u else u.dropRecord p r.1 coClosed) s0
          t.setQCell p v v.headOff (s.qTail p v)
      | _ => s
    s1.modDie v.home (fun d => { d with cands := d.cands.filter (fun c => !c.ofQueue p q) })

/-- R327: whether the firmware can drop the records of the queue that a DESTROYQ names: neither the queue nor the completion
block of a record in it is being moved. A malformed request is answered at once. -/
def State.destroyReady (s : State) (r : Req) : Bool :=
  match s.queue r.proc (r.nat 0x08 2) with
  | none => true
  | some v =>
    !r.clean [(0x08, 2)] || v.work || (!s.qHeld r.proc (r.nat 0x08 2) && (s.queued r.proc v).all (fun bs =>
      !s.doneHeld r.proc bs (.queue r.proc (r.nat 0x08 2))))

/-- DESTROYQ (R296). Assumption log 68 (DEDUCED). -/
def State.destroyqReq (s : State) (r : Req) : Answer :=
  s.forProc r [(0x08, 2)] (fun p =>
    let q := r.nat 0x08 2
    match s.queue p q with
    | none => s.refuse msRefused
    | some v =>
      if v.draining then s.refuse msRefused
      else
        let s1 := (s.dropQueued p q v).setQueue p q { v with draining := true, since := [] }
        (s1.freeDrained p q).answer 0)

/-! ### Channels (R310, R409) -/

/-- OPENCH (R409). Assumption log 97 (DEDUCED). -/
def State.openchReq (s : State) (r : Req) : Answer :=
  s.forProc r [(0x08, 3)] (fun p =>
    let peer := r.nat 0x08 2
    let n := r.nat 0x0A 1
    if 1024 ≤ peer ∨ 16 ≤ n then s.refuse msMalformed
    else if ((s.proc p).chan peer n).isSome then s.refuse msRefused
    else
      let ch : Chan := { peer := peer, chan := n, rx := [], tx := [], recvs := [], loc := s.linkLoc p, granted := 0 }
      let t := s.draw.modProc p (fun v => { v with chans := v.chans ++ [ch] })
      if t.fits then t.answer 0 else s.refuse msNoRoom)

/-- Whether an operation is a SEND or a RECV on a channel. -/
def DOp.onChan (o : DOp) (peer n : Nat) : Bool :=
  match o.kind with
  | .send _ _ p c => decide (p = peer) && decide (c = n)
  | .recv _ _ p c _ _ => decide (p = peer) && decide (c = n)
  | _ => false

/-- R409: whether a SEND or a RECV of a process on a channel is in flight, or withdrawn with an evicted context. -/
def State.chanBusy (s : State) (p peer n : Nat) : Bool :=
  s.cores.any (fun k => k.2.dops.any (fun o => decide (s.procOf (k.2.ctx o.ctx) = p) && o.onChan peer n)) ||
    s.launches.any (fun l => decide (l.2.proc = p) && l.2.saved.any (fun v => v.ops.any (fun o => o.onChan peer n)))

/-- CLOSECH (R409). Assumption log 97 (DEDUCED). -/
def State.closechReq (s : State) (r : Req) : Answer :=
  s.forProc r [(0x08, 3)] (fun p =>
    let peer := r.nat 0x08 2
    let n := r.nat 0x0A 1
    if 1024 ≤ peer ∨ 16 ≤ n then s.refuse msMalformed
    else if ((s.proc p).chan peer n).isNone ∨ s.chanBusy p peer n then s.refuse msRefused
    else
      let inQueue := fun (d : Damage) =>
        match d with
        | .link p' peer' n' _ _ => decide (p' = p) && decide (peer' = peer) && decide (n' = n)
        | _ => false
      ((s.heal inQueue).modProc p (fun v =>
        { v with chans := v.chans.filter (fun c => !(decide (c.peer = peer) && decide (c.chan = n))) })).answer 0)

/-! ### Attestation (R418) -/

/-- R418: the signed part of a quote. -/
def State.quoteHead (s : State) (nonce : List Byte) : List Byte :=
  nonce ++ s.chain ++ leBytes Config.serial.toNat 8 ++ leBytes s.accepted 1 ++ leBytes s.failed.toNat 1 ++ List.replicate 68 0

/-- R418: a quote. -/
def State.quote (s : State) (nonce : List Byte) : List Byte :=
  let q := s.quoteHead nonce
  q ++ ed448Sign (leBytes Config.identityKey.toNat 57) q

/-- ATTEST (R418). -/
def State.attestReq (s : State) (r : Req) : Answer :=
  let h := r.h32 0x08
  let off := r.nat 0x0C 4
  if !r.clean [(0x08, 40)] || decide (r.proc ≠ 0) then s.refuse msMalformed
  else
    match s.lookup 0 h clQbody with
    | .ok e =>
      if off % 256 ≠ 0 ∨ e.len < off + 256 then s.refuse msMalformed
      else
        ((s.healCells 0 (hIndex h) off 256).modHandle 0 (hIndex h) (fun e =>
          { e with data := Memory.writeRun e.data off (s.quote ((r.bytes.drop 0x10).take 32)) })).answer 0
    | _ => s.refuse msMalformed

/-! ### Processes and rays (R319, R410) -/

/-- CREATEP (R410): the least number of a process that does not exist. -/
def State.createpReq (s : State) (r : Req) : Answer :=
  if !r.clean [] || decide (r.proc ≠ 0) then s.refuse msMalformed
  else
    match ((List.range (s.procs.length + 1)).map (· + 1)).find? (fun p => !(s.proc p).alive && decide (p < 2 ^ 16)) with
    | none => s.refuse msNoRoom
    | some p =>
      let s1 := s.setProc p { Process.reset with alive := true }
      let clear := fun (k : Core) => { k with names := Tab.erase k.names p }
      ({ s1 with cores := s1.cores.map (fun q => (q.1, clear q.2)) } : State).answer p

/-- R410: whether a process is in use: by a launch, a queue or a channel. -/
def State.procBusy (s : State) (p : Nat) : Bool :=
  s.launches.any (fun l => decide (l.2.proc = p)) ||
    (s.proc p).queues.any (fun q => !q.2.draining) || !(s.proc p).chans.isEmpty

/-- R326, R410: the handles of a process are revoked, and the records of it that wait in an intake are dropped.
Assumption log 98 (DESIGN CHOICE). -/
def State.revokeAll (s : State) (p : Nat) : State :=
  let live := (s.proc p).handles.filter (fun h => decide (h.2.st = .valid) || decide (h.2.st = .migrating))
  let t := live.foldl (fun t h => t.revoke p h.1) s
  { t with dies := t.dies.map (fun d => (d.1, { d.2 with cands := d.2.cands.filter (fun c => decide (c.proc ≠ p)) })) }

/-- R410: whether the firmware destroys the process that a DESTROYP names. -/
def State.destroys (s : State) (r : Req) : Bool :=
  decide (r.code = 0x09) && r.clean [] && decide (r.proc ≠ 0) && (s.proc r.proc).alive && !s.procBusy r.proc && !s.failed

/-- R410: the handles of the processes that are to be destroyed are revoked. -/
def State.startDestroy (s : State) : State :=
  if !s.portsUp 0 then s
  else (((List.range 64).filterMap s.mail).filter s.destroys).foldl (fun t r => t.revokeAll r.proc) s

/-- R326 steps 3 and 4, R410: whether the storage of every handle of such a process has been freed. -/
def State.destroypReady (s : State) (r : Req) : Bool :=
  !s.destroys r || (s.proc r.proc).handles.all (fun h => !h.2.held)

/-- DESTROYP (R410): once its handles are revoked and freed, the process is gone. -/
def State.destroypReq (s : State) (r : Req) : Answer :=
  s.forProc r [] (fun p =>
    if s.procBusy p then s.refuse msRefused
    else (s.modProc p (fun v => { v with alive := false, patches := [], queues := [], chans := [] })).answer 0)

/-- R319: a ray is removed; the records that only it holds are discarded. -/
def State.removeRay (s : State) (p i k : Nat) : State :=
  let h := s.handle p i
  let mine := (h.ray k).recs.filter (fun n => decide ((h.raysOf n).length ≤ 1))
  let s1 := mine.foldl (fun t n =>
    match (t.proc p).patch n with
    | some q => t.dropRec p n q
    | none => t) s
  s1.modHandle p i (fun e => { e with rays := Tab.erase e.rays k })

/-- RMRAY (R319, R410). -/
def State.rmrayReq (s : State) (r : Req) : Answer :=
  s.forProc r [(0x08, 5)] (fun p =>
    let k := r.nat 0x0C 1
    if k = 0 ∨ 64 ≤ k then s.refuse msMalformed
    else
      match s.entry p (r.h32 0x08) clTensor with
      | none => s.refuse msRefused
      | some h =>
        let v := h.ray k
        let child := h.rays.any (fun q => q.2.alive && decide (q.1 ≠ 0) && decide (q.2.parent = k))
        if !v.alive || decide (v.pins ≠ 0) || child then s.refuse msRefused
        else (s.removeRay p (hIndex (r.h32 0x08)) k).answer 0)

/-! ### Migration (R327, R328) -/

/-- R327, R328: whether a region is moved by stop-and-copy. -/
def Handle.stops (h : Handle) : Bool := decide (h.cls = clCode) || decide (h.bytes ≤ 64 * 2 ^ 20)

/-- MIGRATE (R410). Assumption log 69 (DEDUCED). -/
def State.migrateReq (s : State) (r : Req) : Answer :=
  s.forProc r [(0x08, 7)] (fun p =>
    let node := r.nat 0x0C 2
    let stack := r.nat 0x0E 1
    if 1024 ≤ node ∨ 12 ≤ stack then s.refuse msMalformed
    else
      match s.named p (r.h32 0x08) with
      | none => s.refuse msRefused
      | some (i, h) =>
        if h.st ≠ .valid ∨ h.pull then s.refuse msRefused
        else
          let dest : Place := { node := node, runs := [(stack, h.units)], born := s.draws, moved := [] }
          let h1 :=
            if h.stops then { h with st := .migrating, old := some h.place, plan := some dest }
            else { h with pull := true, present := [], old := some h.place, place := dest }
          let t := (s.draw.invalidate p i).setHandle p i h1
          if t.fits then t.answer 0 else s.refuse msNoRoom)

/-! ### The meanings of the requests -/

/-- The meaning of MAP. -/
def execMap (s : State) : Host.Outcome State Fault Refusal := .next (s.serveWhen 0x01 s.mapReady State.mapReq)

/-- The meaning of UNMAP. -/
def execUnmap (s : State) : Host.Outcome State Fault Refusal := .next (s.serve 0x02 State.unmapReq)

/-- The meaning of CREATEQ. -/
def execCreateq (s : State) : Host.Outcome State Fault Refusal := .next (s.serve 0x03 State.createqReq)

/-- The meaning of DESTROYQ. -/
def execDestroyq (s : State) : Host.Outcome State Fault Refusal := .next (s.serveWhen 0x04 s.destroyReady State.destroyqReq)

/-- The meaning of OPENCH. -/
def execOpench (s : State) : Host.Outcome State Fault Refusal := .next (s.serve 0x05 State.openchReq)

/-- The meaning of CLOSECH. -/
def execClosech (s : State) : Host.Outcome State Fault Refusal := .next (s.serve 0x06 State.closechReq)

/-- The meaning of ATTEST. -/
def execAttest (s : State) : Host.Outcome State Fault Refusal := .next (s.serve 0x07 State.attestReq)

/-- The meaning of CREATEP. -/
def execCreatep (s : State) : Host.Outcome State Fault Refusal := .next (s.serve 0x08 State.createpReq)

/-- The meaning of DESTROYP. -/
def execDestroyp (s : State) : Host.Outcome State Fault Refusal :=
  let t := s.startDestroy
  .next (t.serveWhen 0x09 t.destroypReady State.destroypReq)

/-- The meaning of RMRAY. -/
def execRmray (s : State) : Host.Outcome State Fault Refusal := .next (s.serve 0x0A State.rmrayReq)

/-- The meaning of MIGRATE. -/
def execMigrate (s : State) : Host.Outcome State Fault Refusal := .next (s.serve 0x0B State.migrateReq)

/-- R350, R421: the records of the mailbox that are in error beyond correction are read in vain, and their errors counted. -/
def State.readMail (s : State) : State :=
  (List.range 64).foldl (fun t h =>
    if t.mailHead h ≠ t.mailTail h ∧ t.damaged.any (t.mailWords h) = true then (t.readWords (t.mailWords h)).1 else t) s

/-- MALFORMED_MAILBOX_RECORD (R409): a record whose code is not assigned, or, with none, those that cannot be read. -/
def State.serveUnknown (s : State) : State :=
  if !s.portsUp 0 then s
  else
    match ((List.range 64).filterMap s.mail).find? (fun r => decide (r.code = 0) || decide (0x0B < r.code)) with
    | none => if s.damaged.isEmpty then s else s.readMail
    | some r => (s.correctHbm (s.mailWords r.host)).mailDone r (if s.failed then msRefused else msMalformed) 0

/-- The meaning of MALFORMED_MAILBOX_RECORD. -/
def execMalformedMailboxRecord (s : State) : Host.Outcome State Fault Refusal := .next s.serveUnknown

end Sys2Proof.Machine
end

