-- ==== Sys2Proof/Machine/Dispatch.lean ====
section
/-! DEFINITION. One arm for every instruction: its meaning. -/

namespace Sys2Proof.Machine

/-- The meaning of an instruction. Assumption log 13 (DESIGN CHOICE). -/
def exec (i : Instr) (s : State) : Host.Outcome State Fault Refusal :=
  match i with
  | .bundleIssue core => Sys2Proof.Machine.execBundleIssue core s
  | .runSchedule core => Sys2Proof.Machine.execRunSchedule core s
  | .runOverrun core => Sys2Proof.Machine.execRunOverrun core s
  | .quietOverrun core => Sys2Proof.Machine.execQuietOverrun core s
  | .resultLanding core idx lanes => Sys2Proof.Machine.execResultLanding core idx lanes s
  | .mxOpStart core array => Sys2Proof.Machine.execMxOpStart core array s
  | .mxOpCompletion core idx => Sys2Proof.Machine.execMxOpCompletion core idx s
  | .dOperationStart core idx => Sys2Proof.Machine.execDOperationStart core idx s
  | .copyCompletion core idx => Sys2Proof.Machine.execCopyCompletion core idx s
  | .strmVectorEntry core idx => Sys2Proof.Machine.execStrmVectorEntry core idx s
  | .ringShiftStart core idx => Sys2Proof.Machine.execRingShiftStart core idx s
  | .windowRowFetch core idx => Sys2Proof.Machine.execWindowRowFetch core idx s
  | .scatterUpdate core idx => Sys2Proof.Machine.execScatterUpdate core idx s
  | .tokenJoinCompletion core idx => Sys2Proof.Machine.execTokenJoinCompletion core idx s
  | .nameReserveRefill core proc => Sys2Proof.Machine.execNameReserveRefill core proc s
  | .patchEngineOperation core idx => Sys2Proof.Machine.execPatchEngineOperation core idx s
  | .atomicUnitOperation core idx => Sys2Proof.Machine.execAtomicUnitOperation core idx s
  | .launchDispatch die => Sys2Proof.Machine.execLaunchDispatch die s
  | .dependenceTest die slot => Sys2Proof.Machine.execDependenceTest die slot s
  | .codePageFill core ctx page => Sys2Proof.Machine.execCodePageFill core ctx page s
  | .evictionSave core ctx => Sys2Proof.Machine.execEvictionSave core ctx s
  | .evictionResume core ctx => Sys2Proof.Machine.execEvictionResume core ctx s
  | .haltWaitEvent launch => Sys2Proof.Machine.execHaltWaitEvent launch s
  | .launchRetirement launch => Sys2Proof.Machine.execLaunchRetirement launch s
  | .deferredAutoApply proc name => Sys2Proof.Machine.execDeferredAutoApply proc name s
  | .rollback launch => Sys2Proof.Machine.execRollback launch s
  | .faultResume core ctx w => Sys2Proof.Machine.execFaultResume core ctx w s
  | .faultResumeStepOver core ctx w => Sys2Proof.Machine.execFaultResumeStepOver core ctx w s
  | .faultTerminate core ctx => Sys2Proof.Machine.execFaultTerminate core ctx s
  | .queueMissService proc q => Sys2Proof.Machine.execQueueMissService proc q s
  | .intakeAcceptance core idx => Sys2Proof.Machine.execIntakeAcceptance core idx s
  | .nxtLanding core ctx => Sys2Proof.Machine.execNxtLanding core ctx s
  | .stepBlockRefill launch die => Sys2Proof.Machine.execStepBlockRefill launch die s
  | .sendQueueEntry core idx => Sys2Proof.Machine.execSendQueueEntry core idx s
  | .flitArrival proc peer chan bytes => Sys2Proof.Machine.execFlitArrival proc peer chan bytes s
  | .recvGrant core idx => Sys2Proof.Machine.execRecvGrant core idx s
  | .linkReceiveTimeout core idx => Sys2Proof.Machine.execLinkReceiveTimeout core idx s
  | .remoteAccess dev r => Sys2Proof.Machine.execRemoteAccess dev r s
  | .remoteAccessAck core idx => Sys2Proof.Machine.execRemoteAccessAck core idx s
  | .revocationStorageFree proc index => Sys2Proof.Machine.execRevocationStorageFree proc index s
  | .migrationCopyDone proc index => Sys2Proof.Machine.execMigrationCopyDone proc index s
  | .pullLineFetch proc index line => Sys2Proof.Machine.execPullLineFetch proc index line s
  | .pullCompletion proc index => Sys2Proof.Machine.execPullCompletion proc index s
  | .partialEstimatorSample cluster => Sys2Proof.Machine.execPartialEstimatorSample cluster s
  | .batchMerge launch => Sys2Proof.Machine.execBatchMerge launch s
  | .stopReceipt launch unit => Sys2Proof.Machine.execStopReceipt launch unit s
  | .remainderMerge launch => Sys2Proof.Machine.execRemainderMerge launch s
  | .scrubRead found => Sys2Proof.Machine.execScrubRead found s
  | .powerEstimate die watts temp => Sys2Proof.Machine.execPowerEstimate die watts temp s
  | .powerGood b => Sys2Proof.Machine.execPowerGood b s
  | .firmwareRegisterWrite die reg value => Sys2Proof.Machine.execFirmwareRegisterWrite die reg value s
  | .hostWrite h bytes => Sys2Proof.Machine.execHostWrite h bytes s
  | .hostRead h len => Sys2Proof.Machine.execHostRead h len s
  | .hostAtomicAdd h p => Sys2Proof.Machine.execHostAtomicAdd h p s
  | .hostAtomicMax h p => Sys2Proof.Machine.execHostAtomicMax h p s
  | .hostAtomicOr h p => Sys2Proof.Machine.execHostAtomicOr h p s
  | .hostAtomicCas h p => Sys2Proof.Machine.execHostAtomicCas h p s
  | .hostAtomicSwap h p => Sys2Proof.Machine.execHostAtomicSwap h p s
  | .hostAtomicLda h p => Sys2Proof.Machine.execHostAtomicLda h p s
  | .hostAtomicStl h p => Sys2Proof.Machine.execHostAtomicStl h p s
  | .add g d a b => Sys2Proof.Machine.execAdd g d a b s
  | .sub g d a b => Sys2Proof.Machine.execSub g d a b s
  | .addi g d a imm => Sys2Proof.Machine.execAddi g d a imm s
  | .mul g d a b => Sys2Proof.Machine.execMul g d a b s
  | .mulhi g d a b => Sys2Proof.Machine.execMulhi g d a b s
  | .mulhu g d a b => Sys2Proof.Machine.execMulhu g d a b s
  | .div g d a b => Sys2Proof.Machine.execDiv g d a b s
  | .divu g d a b => Sys2Proof.Machine.execDivu g d a b s
  | .rem g d a b => Sys2Proof.Machine.execRem g d a b s
  | .remu g d a b => Sys2Proof.Machine.execRemu g d a b s
  | .and g d a b => Sys2Proof.Machine.execAnd g d a b s
  | .or g d a b => Sys2Proof.Machine.execOr g d a b s
  | .xor g d a b => Sys2Proof.Machine.execXor g d a b s
  | .andn g d a b => Sys2Proof.Machine.execAndn g d a b s
  | .shl g d a b => Sys2Proof.Machine.execShl g d a b s
  | .shlImm g d a n => Sys2Proof.Machine.execShlImm g d a n s
  | .shrl g d a b => Sys2Proof.Machine.execShrl g d a b s
  | .shrlImm g d a n => Sys2Proof.Machine.execShrlImm g d a n s
  | .shra g d a b => Sys2Proof.Machine.execShra g d a b s
  | .shraImm g d a n => Sys2Proof.Machine.execShraImm g d a n s
  | .min g d a b => Sys2Proof.Machine.execMin g d a b s
  | .max g d a b => Sys2Proof.Machine.execMax g d a b s
  | .minu g d a b => Sys2Proof.Machine.execMinu g d a b s
  | .maxu g d a b => Sys2Proof.Machine.execMaxu g d a b s
  | .sethi g d a imm => Sys2Proof.Machine.execSethi g d a imm s
  | .cmp g c q a b => Sys2Proof.Machine.execCmp g c q a b s
  | .cmpi g c q a imm => Sys2Proof.Machine.execCmpi g c q a imm s
  | .sel g neg d a b => Sys2Proof.Machine.execSel g neg d a b s
  | .plog g op q qa qb => Sys2Proof.Machine.execPlog g op q qa qb s
  | .bitc g op d a => Sys2Proof.Machine.execBitc g op d a s
  | .fadd g p d a b => Sys2Proof.Machine.execFadd g p d a b s
  | .fsub g p d a b => Sys2Proof.Machine.execFsub g p d a b s
  | .fmul g p d a b => Sys2Proof.Machine.execFmul g p d a b s
  | .fma g p d a b => Sys2Proof.Machine.execFma g p d a b s
  | .fdiv g p d a b => Sys2Proof.Machine.execFdiv g p d a b s
  | .fsqrt g p d a => Sys2Proof.Machine.execFsqrt g p d a s
  | .fminmax g mx p d a b => Sys2Proof.Machine.execFminmax g mx p d a b s
  | .fcmp g c p q a b => Sys2Proof.Machine.execFcmp g c p q a b s
  | .fcvt g kind d a => Sys2Proof.Machine.execFcvt g kind d a s
  | .gets g d num => Sys2Proof.Machine.execGets g d num s
  | .sets g a num => Sys2Proof.Machine.execSets g a num s
  | .sld g d a imm => Sys2Proof.Machine.execSld g d a imm s
  | .sst g d a imm => Sys2Proof.Machine.execSst g d a imm s
  | .vadd f => Sys2Proof.Machine.execVadd f s
  | .vsub f => Sys2Proof.Machine.execVsub f s
  | .vmul f => Sys2Proof.Machine.execVmul f s
  | .vfma f => Sys2Proof.Machine.execVfma f s
  | .vfms f => Sys2Proof.Machine.execVfms f s
  | .vmin f => Sys2Proof.Machine.execVmin f s
  | .vmax f => Sys2Proof.Machine.execVmax f s
  | .vabs f => Sys2Proof.Machine.execVabs f s
  | .vneg f => Sys2Proof.Machine.execVneg f s
  | .vabd f => Sys2Proof.Machine.execVabd f s
  | .vmulh f => Sys2Proof.Machine.execVmulh f s
  | .vclamp f => Sys2Proof.Machine.execVclamp f s
  | .vand f => Sys2Proof.Machine.execVand f s
  | .vor f => Sys2Proof.Machine.execVor f s
  | .vxor f => Sys2Proof.Machine.execVxor f s
  | .vnot f => Sys2Proof.Machine.execVnot f s
  | .vshl f => Sys2Proof.Machine.execVshl f s
  | .vshr f => Sys2Proof.Machine.execVshr f s
  | .vcmp f => Sys2Proof.Machine.execVcmp f s
  | .vclass f => Sys2Proof.Machine.execVclass f s
  | .vsel f => Sys2Proof.Machine.execVsel f s
  | .klog f => Sys2Proof.Machine.execKlog f s
  | .kpop f => Sys2Proof.Machine.execKpop f s
  | .vcvt f => Sys2Proof.Machine.execVcvt f s
  | .vsrnd f => Sys2Proof.Machine.execVsrnd f s
  | .vpack f => Sys2Proof.Machine.execVpack f s
  | .vunpk f => Sys2Proof.Machine.execVunpk f s
  | .vexp2 f => Sys2Proof.Machine.execVexp2 f s
  | .vlog2 f => Sys2Proof.Machine.execVlog2 f s
  | .vrcp f => Sys2Proof.Machine.execVrcp f s
  | .vrsq f => Sys2Proof.Machine.execVrsq f s
  | .vsqrt f => Sys2Proof.Machine.execVsqrt f s
  | .vscale f => Sys2Proof.Machine.execVscale f s
  | .vround f => Sys2Proof.Machine.execVround f s
  | .vcpsgn f => Sys2Proof.Machine.execVcpsgn f s
  | .vredsum f => Sys2Proof.Machine.execVredsum f s
  | .vredmax f => Sys2Proof.Machine.execVredmax f s
  | .vredmin f => Sys2Proof.Machine.execVredmin f s
  | .vmaxidx f => Sys2Proof.Machine.execVmaxidx f s
  | .vprefix f => Sys2Proof.Machine.execVprefix f s
  | .vperm f => Sys2Proof.Machine.execVperm f s
  | .vxgrp f => Sys2Proof.Machine.execVxgrp f s
  | .vbcast f => Sys2Proof.Machine.execVbcast f s
  | .vslide f => Sys2Proof.Machine.execVslide f s
  | .viota f => Sys2Proof.Machine.execViota f s
  | .vmov f => Sys2Proof.Machine.execVmov f s
  | .vext f => Sys2Proof.Machine.execVext f s
  | .vins f => Sys2Proof.Machine.execVins f s
  | .vmix f => Sys2Proof.Machine.execVmix f s
  | .vdot4 f => Sys2Proof.Machine.execVdot4 f s
  | .vmadi f => Sys2Proof.Machine.execVmadi f s
  | .vbitc f => Sys2Proof.Machine.execVbitc f s
  | .vfin f => Sys2Proof.Machine.execVfin f s
  | .vlut f => Sys2Proof.Machine.execVlut f s
  | .mma f => Sys2Proof.Machine.execMma f s
  | .mmab f => Sys2Proof.Machine.execMmab f s
  | .mzero f => Sys2Proof.Machine.execMzero f s
  | .mload f => Sys2Proof.Machine.execMload f s
  | .mdrain f => Sys2Proof.Machine.execMdrain f s
  | .madd f => Sys2Proof.Machine.execMadd f s
  | .mscl f => Sys2Proof.Machine.execMscl f s
  | .mtrn f => Sys2Proof.Machine.execMtrn f s
  | .mstat f => Sys2Proof.Machine.execMstat f s
  | .mscan f => Sys2Proof.Machine.execMscan f s
  | .mscanf f => Sys2Proof.Machine.execMscanf f s
  | .mscanr f => Sys2Proof.Machine.execMscanr f s
  | .cvInit f => Sys2Proof.Machine.execCvInit f s
  | .cvProbe f => Sys2Proof.Machine.execCvProbe f s
  | .cvCommit f => Sys2Proof.Machine.execCvCommit f s
  | .cvRead f => Sys2Proof.Machine.execCvRead f s
  | .sigFold f => Sys2Proof.Machine.execSigFold f s
  | .sigCheck f => Sys2Proof.Machine.execSigCheck f s
  | .sigGet f => Sys2Proof.Machine.execSigGet f s
  | .mred f => Sys2Proof.Machine.execMred f s
  | .mgate f => Sys2Proof.Machine.execMgate f s
  | .mcopy f => Sys2Proof.Machine.execMcopy f s
  | .cpy c f => Sys2Proof.Machine.execCpy c f s
  | .strm c f => Sys2Proof.Machine.execStrm c f s
  | .ring c f => Sys2Proof.Machine.execRing c f s
  | .wdef c f => Sys2Proof.Machine.execWdef c f s
  | .wadv c f => Sys2Proof.Machine.execWadv c f s
  | .wrel c f => Sys2Proof.Machine.execWrel c f s
  | .stow c f => Sys2Proof.Machine.execStow c f s
  | .patchOpen c f => Sys2Proof.Machine.execPatchOpen c f s
  | .patchSeal c f => Sys2Proof.Machine.execPatchSeal c f s
  | .patchApply c f => Sys2Proof.Machine.execPatchApply c f s
  | .patchInvert c f => Sys2Proof.Machine.execPatchInvert c f s
  | .patchCommute c f => Sys2Proof.Machine.execPatchCommute c f s
  | .patchTransplant c f => Sys2Proof.Machine.execPatchTransplant c f s
  | .patchSquash c f => Sys2Proof.Machine.execPatchSquash c f s
  | .patchDiscard c f => Sys2Proof.Machine.execPatchDiscard c f s
  | .rayFork c f => Sys2Proof.Machine.execRayFork c f s
  | .patchQuery c f => Sys2Proof.Machine.execPatchQuery c f s
  | .scat c f => Sys2Proof.Machine.execScat c f s
  | .gath c f => Sys2Proof.Machine.execGath c f s
  | .syncAdd c f => Sys2Proof.Machine.execSyncAdd c f s
  | .syncMax c f => Sys2Proof.Machine.execSyncMax c f s
  | .syncOr c f => Sys2Proof.Machine.execSyncOr c f s
  | .syncCas c f => Sys2Proof.Machine.execSyncCas c f s
  | .syncSwap c f => Sys2Proof.Machine.execSyncSwap c f s
  | .syncLda c f => Sys2Proof.Machine.execSyncLda c f s
  | .syncStl c f => Sys2Proof.Machine.execSyncStl c f s
  | .qpush c f => Sys2Proof.Machine.execQpush c f s
  | .qpop c f => Sys2Proof.Machine.execQpop c f s
  | .send c f => Sys2Proof.Machine.execSend c f s
  | .recv c f => Sys2Proof.Machine.execRecv c f s
  | .tjoin c f => Sys2Proof.Machine.execTjoin c f s
  | .lnch c f => Sys2Proof.Machine.execLnch c f s
  | .btree shape t0 t1 t2 t3 d0 d1 d2 d3 => Sys2Proof.Machine.execBtree shape t0 t1 t2 t3 d0 d1 d2 d3 s
  | .jump g off => Sys2Proof.Machine.execJump g off s
  | .call g l off => Sys2Proof.Machine.execCall g l off s
  | .ret g a => Sys2Proof.Machine.execRet g a s
  | .loop g lvl b sign cnt => Sys2Proof.Machine.execLoop g lvl b sign cnt s
  | .leave g lvl => Sys2Proof.Machine.execLeave g lvl s
  | .imx imm => Sys2Proof.Machine.execImx imm s
  | .nxt g => Sys2Proof.Machine.execNxt g s
  | .wait g kind opd => Sys2Proof.Machine.execWait g kind opd s
  | .fence g scope kind => Sys2Proof.Machine.execFence g scope kind s
  | .vjoin g => Sys2Proof.Machine.execVjoin g s
  | .bar g scope slot mode => Sys2Proof.Machine.execBar g scope slot mode s
  | .estAdd g a f => Sys2Proof.Machine.execEstAdd g a f s
  | .trap g code => Sys2Proof.Machine.execTrap g code s
  | .bkpt g code => Sys2Proof.Machine.execBkpt g code s
  | .halt g => Sys2Proof.Machine.execHalt g s
  | .sclSetImm entry value => Sys2Proof.Machine.execSclSetImm entry value s
  | .sclSetReg entry a => Sys2Proof.Machine.execSclSetReg entry a s
  | .sclLdv v => Sys2Proof.Machine.execSclLdv v s
  | .bfmt bank scl fmt => Sys2Proof.Machine.execBfmt bank scl fmt s
  | .shape h a b => Sys2Proof.Machine.execShape h a b s
  | .xset x a => Sys2Proof.Machine.execXset x a s
  | .xstepReg x lvl a => Sys2Proof.Machine.execXstepReg x lvl a s
  | .xstepImm x lvl imm => Sys2Proof.Machine.execXstepImm x lvl imm s
  | .cpat a => Sys2Proof.Machine.execCpat a s
  | .qbndImm value => Sys2Proof.Machine.execQbndImm value s
  | .qbndReg a => Sys2Proof.Machine.execQbndReg a s
  | .rmodeImm mode => Sys2Proof.Machine.execRmodeImm mode s
  | .rmodeReg a => Sys2Proof.Machine.execRmodeReg a s
  | .ssmCfgImm value => Sys2Proof.Machine.execSsmCfgImm value s
  | .ssmCfgReg a => Sys2Proof.Machine.execSsmCfgReg a s
  | .sigSet t a => Sys2Proof.Machine.execSigSet t a s
  | .tkclr mask => Sys2Proof.Machine.execTkclr mask s
  | .coreCycle core => Sys2Proof.Machine.execCoreCycle core s
  | .flitRetry => Sys2Proof.Machine.execFlitRetry s
  | .pullBackgroundFetch => Sys2Proof.Machine.execPullBackgroundFetch s
  | .thermalTrip => Sys2Proof.Machine.execThermalTrip s
  | .thermalRecovery => Sys2Proof.Machine.execThermalRecovery s
  | .watchdogReset => Sys2Proof.Machine.execWatchdogReset s
  | .map => Sys2Proof.Machine.execMap s
  | .unmap => Sys2Proof.Machine.execUnmap s
  | .createq => Sys2Proof.Machine.execCreateq s
  | .destroyq => Sys2Proof.Machine.execDestroyq s
  | .opench => Sys2Proof.Machine.execOpench s
  | .closech => Sys2Proof.Machine.execClosech s
  | .attest => Sys2Proof.Machine.execAttest s
  | .createp => Sys2Proof.Machine.execCreatep s
  | .destroyp => Sys2Proof.Machine.execDestroyp s
  | .rmray => Sys2Proof.Machine.execRmray s
  | .migrate => Sys2Proof.Machine.execMigrate s
  | .malformedMailboxRecord => Sys2Proof.Machine.execMalformedMailboxRecord s

end Sys2Proof.Machine
end

