-- ==== Sys2Proof/Machine/Schedule.lean ====
section
/-! DEFINITION. The default order in which the device's own agents move when the agenda names no one: a round that offers
every agent its next event, the cores' bundles first (assumption log 3, DESIGN CHOICE); and the state into which an instruction is
loaded. -/

set_option Elab.async false

namespace Sys2Proof.Machine

/-! ### A round of events -/

/-- The event that carries a D operation on, at its place in the list of operations. -/
def DOp.event (c i : Nat) (o : DOp) : List Instr :=
  if o.performed then []
  else if !o.started then
    match o.kind with
    | .recv .. => [.dOperationStart c i, .linkReceiveTimeout c i]
    | _ => [.dOperationStart c i]
  else
    match o.kind with
    | .copy _ _ | .gath .. => [.copyCompletion c i]
    | .strm _ _ _ => [.strmVectorEntry c i]
    | .ring .. => [.ringShiftStart c i]
    | .fetch .. | .release _ _ => [.windowRowFetch c i]
    | .scat .. => [.scatterUpdate c i]
    | .patch _ _ => [.patchEngineOperation c i]
    | .sync .. => [.atomicUnitOperation c i]
    | .qpush .. | .qpop .. => [.dOperationStart c i]
    | .lnch .. => [.intakeAcceptance c i]
    | .send .. => [.sendQueueEntry c i]
    | .recv .. => [.recvGrant c i, .linkReceiveTimeout c i]
    | .join => [.tokenJoinCompletion c i]

/-- The pages that the contexts of a core still await (R304). -/
def Core.fillEvents (k : Core) (c : Nat) : List Instr :=
  k.ctxs.flatMap (fun q => q.2.fills.map (fun g => .codePageFill c q.1 g))

/-- Where an overrun is due on a core, it comes before the choice that it forces (R16). -/
def Core.overrunEvents (k : Core) (c : Nat) : List Instr :=
  if k.overrunDue then [.quietOverrun c, .runOverrun c] else []

/-- The bundle due on each core: first the pages that it lacks, then an overrun, then the choice of a context if none runs or
the one that runs is overrun. -/
def State.bundleEvents (s : State) : List Instr :=
  s.cores.flatMap (fun k =>
    List.flatten
      [k.2.fillEvents k.1, k.2.overrunEvents k.1,
       if k.2.running.isSome ∧ !k.2.overrunDue then [] else [.runSchedule k.1], [.bundleIssue k.1]])

/-- The events of a context. -/
def State.ctxEvents (s : State) (c x : Nat) (y : Ctx) : List Instr :=
  if y.st = .free then [] else
    List.flatten
    [if y.marked then [.evictionSave c x] else [], if y.nxt.isEmpty then [] else [.nxtLanding c x],
     if ((s.core c).reserve (s.procOf y)).isEmpty then [.nameReserveRefill c (s.procOf y)] else []]

/-- The events of a core. -/
def State.coreEvents (s : State) (c : Nat) (k : Core) : List Instr :=
  List.flatten
    [k.ctxs.flatMap (fun q => s.ctxEvents c q.1 q.2),
     [.mxOpStart c true, .mxOpStart c false], k.dops.zipIdx.reverse.flatMap (fun q => q.1.event c q.2), [.coreCycle c],
     (List.range k.mxs.length).reverse.map (fun i => .mxOpCompletion c i)]

/-- The events of every core: from step 4 on, one that has never been used counts its cycles too (R332). -/
def State.allCoreEvents (s : State) : List Instr :=
  if s.step < 4 ∨ s.tripped then s.cores.flatMap (fun k => s.coreEvents k.1 k.2)
  else
    (List.range Config.cores).flatMap (fun c =>
      match Tab.find s.cores c with
      | some k => s.coreEvents c k
      | none => [.coreCycle c])

/-- The events of a launch. -/
def Launch.events (l : Nat) (v : Launch) : List Instr :=
  List.flatten
    [if v.rollback then [.rollback l] else [], v.saved.map (fun q => .evictionResume q.core q.num),
     if recKind v.bytes = 0 then [] else
      List.flatten
        [(List.range Config.dies).map (fun d => .stepBlockRefill l d), [.batchMerge l],
         if v.est.stopped then (List.range 20).map (fun u => .stopReceipt l u) else [], [.remainderMerge l]],
     [.haltWaitEvent l, .launchRetirement l]]

/-- The events of a launch unit. -/
def Die.events (d : Nat) (v : Die) : List Instr :=
  if v.cands.isEmpty && v.resident.isEmpty then [] else
    List.flatten [(List.range v.cands.length).map (fun i => .dependenceTest d i), [.launchDispatch d]]

/-- Whether a replay queue holds an access of a launch unit, a host or another device to a handle. -/
def State.partyHeld (s : State) (p i : Nat) : Bool :=
  s.replays.any (fun q => (s.heldFor q.1 p i).any (fun a => a.what.unitary))

/-- The events of the tables and the patch engine of a process. -/
def State.procEvents (s : State) (p : Nat) (v : Process) : List Instr :=
  List.flatten
    [v.handles.flatMap (fun h =>
      List.flatten
        [if h.2.st = .migrating ∨ s.partyHeld p h.1 then [.migrationCopyDone p h.1] else [],
         if h.2.st = .revoked ∧ h.2.held then [.revocationStorageFree p h.1] else [],
         if h.2.pull then [.pullBackgroundFetch, .pullCompletion p h.1] else []]),
     v.patches.flatMap (fun q =>
      if q.2.st = .sealed ∧ q.2.due then [.deferredAutoApply p q.1] else []),
     v.queues.flatMap (fun q =>
      if !q.2.resident && (s.queueWaited p q.1 || (!q.2.work && decide (s.qCount p q.2 ≠ 0))) then
        [.queueMissService p q.1]
      else [])]

/-- The requests that the service firmware looks for (R409). -/
def mailEvents : List Instr :=
  [.map, .unmap, .createq, .destroyq, .opench, .closech, .attest, .createp, .destroyp, .rmray, .migrate,
   .malformedMailboxRecord]

/-- A round: every agent of the device is offered its next event. What a party outside the device does (a host, another
device, the power supply, the firmware's choice at a fault) is in no round. -/
def State.round (s : State) : List Instr :=
  List.flatten
    [s.bundleEvents, s.allCoreEvents,
     s.clusters.flatMap (fun k => if k.2.est.samples.isEmpty then [] else [.partialEstimatorSample k.1]),
     s.launches.flatMap (fun l => l.2.events l.1), s.dies.flatMap (fun d => d.2.events d.1),
     s.procs.flatMap (fun p => s.procEvents p.1 p.2),
     if ((List.range 64).filterMap s.mail).isEmpty then [] else mailEvents]

/-! ### An instruction loaded (assumption log 4, DESIGN CHOICE) -/

/-- A plain launch record: context 0 of core 0, one unit of vectors, the code of handle 1 from address 0. -/
def loadRecord : List Byte :=
  [1, 0, 1, 0, 0, 1, 0, 0] ++ [0xFF, 0xFF, 0xFF, 0] ++ [0xFF, 0xFF, 0xFF, 0] ++ [1] ++ List.replicate 15 0 ++ [1] ++
    List.replicate 223 0

/-- The bundle of one slot: its header and its bits. -/
def loadBundle (sl : Slot) (w : Nat) : List Byte := leBytes (2 ^ slotBit sl) 2 ++ leBytes w (slotBits sl / 8)

/-- The code image that holds a bundle at address 0. -/
def loadImage (bs : List Byte) : Handle :=
  { Handle.region clCode 1024 with data := Memory.writeRun [] 0 bs, present := [0] }

/-- Launch 1 of process 1 runs context 0 of core 0, its image resident, the bundle next. -/
def State.load (s : State) (bs : List Byte) : State :=
  let x := startCtx 1 loadRecord 0
  let page : CodePage := { proc := 1, handle := 1, page := 0, data := Memory.writeRun [] 0 bs }
  let core : Core := { Core.reset with ctxs := [(0, x)], pages := [page], running := some 0 }
  let l : Launch :=
    { proc := 1, bytes := loadRecord, src := .intake, die := 0, st := .live, step := 0, est := DevEst.reset,
      batches := [], blocks := [], stops := [], relaunched := false, once := false, rollback := false, seq := 1, saved := [], rings := [] }
  { s with
    agenda := [], step := 7, tripped := false, stamp := s.stamp + 2
    cores := Tab.put s.cores 0 core
    procs := Tab.put s.procs 1 { Process.reset with alive := true, handles := [(1, loadImage bs)] }
    launches := Tab.put s.launches 1 l }

end Sys2Proof.Machine
end

