-- ==== Sys2Proof/Machine/Step.lean ====
section
/-! DEFINITION. One step of the device: the event at the head of the agenda; with an empty agenda, the first event of a
round. -/

namespace Sys2Proof.Machine

/-- One step. A device whose round is empty waits for its surroundings. -/
def step (s : State) : Host.Outcome State Fault Refusal :=
  match (if s.agenda = [] then s.round else s.agenda) with
  | [] => .next s
  | i :: rest => exec i { s with agenda := rest }

/-- The state whose next bundle holds the instruction of a table row in its slot, and which issues that bundle in its
next step (assumption log 4, DESIGN CHOICE). -/
def State.withFetchWord (s : State) (nbits w : Nat) : State :=
  match decodeTableWord nbits w with
  | none => s
  | some i => s.load (loadBundle ((slotOf i).getD .sc) w)

end Sys2Proof.Machine
end

