-- ==== Sys2Proof/Safety.lean ====
section
/-! DEFINITION. What counts as a safe step, and the terms that the statements use: results by rule, what an instruction
leaves alone, operations that join a pipe or a channel, and the invariant. -/

set_option Elab.async false

namespace Sys2Proof.Machine

/-- A step is safe when it answers a next state. -/
def safeStep (s : State) : Prop := ∃ t, step s = .next t

/-! ### Results by rule: the SC slot -/

/-- A result of the SC slot: guard, destination, bound (R81) and value. -/
structure ScalarRule where
  guard : BitVec 5
  dest : Nat
  bound : Nat
  value : Word

/-- R108–R110, R112, R113: the integer results, over integers and naturals. -/
def integerRule (s : State) (i : Instr) : Option ScalarRule :=
  let x := fun (r : BitVec 6) => s.cur.rd r.toNat
  match i with
  | .add g d a b => some ⟨g, d.toNat, 1, BitVec.ofInt 64 ((x a).toInt + (x b).toInt)⟩
  | .sub g d a b => some ⟨g, d.toNat, 1, BitVec.ofInt 64 ((x a).toInt - (x b).toInt)⟩
  | .addi g d a imm => some ⟨g, d.toNat, 1, BitVec.ofInt 64 ((x a).toInt + (immOf s imm).toInt)⟩
  | .mul g d a b => some ⟨g, d.toNat, 3, BitVec.ofInt 64 ((x a).toInt * (x b).toInt)⟩
  | .mulhi g d a b => some ⟨g, d.toNat, 3, BitVec.ofInt 64 ((x a).toInt * (x b).toInt / 2 ^ 64)⟩
  | .mulhu g d a b => some ⟨g, d.toNat, 3, BitVec.ofNat 64 ((x a).toNat * (x b).toNat / 2 ^ 64)⟩
  | .div g d a b => some ⟨g, d.toNat, 20, if x b = 0 then BitVec.ofInt 64 (-1) else BitVec.ofInt 64 ((x a).toInt.tdiv (x b).toInt)⟩
  | .divu g d a b => some ⟨g, d.toNat, 20, if x b = 0 then BitVec.allOnes 64 else BitVec.ofNat 64 ((x a).toNat / (x b).toNat)⟩
  | .rem g d a b => some ⟨g, d.toNat, 20, if x b = 0 then x a else BitVec.ofInt 64 ((x a).toInt.tmod (x b).toInt)⟩
  | .remu g d a b => some ⟨g, d.toNat, 20, if x b = 0 then x a else BitVec.ofNat 64 ((x a).toNat % (x b).toNat)⟩
  | .and g d a b => some ⟨g, d.toNat, 1, x a &&& x b⟩
  | .or g d a b => some ⟨g, d.toNat, 1, x a ||| x b⟩
  | .xor g d a b => some ⟨g, d.toNat, 1, x a ^^^ x b⟩
  | .andn g d a b => some ⟨g, d.toNat, 1, x a &&& ~~~ x b⟩
  | .shl g d a b => some ⟨g, d.toNat, 1, BitVec.ofNat 64 ((x a).toNat * 2 ^ ((x b).toNat % 64))⟩
  | .shlImm g d a n => some ⟨g, d.toNat, 1, BitVec.ofNat 64 ((x a).toNat * 2 ^ n.toNat)⟩
  | .shrl g d a b => some ⟨g, d.toNat, 1, BitVec.ofNat 64 ((x a).toNat / 2 ^ ((x b).toNat % 64))⟩
  | .shrlImm g d a n => some ⟨g, d.toNat, 1, BitVec.ofNat 64 ((x a).toNat / 2 ^ n.toNat)⟩
  | .shra g d a b => some ⟨g, d.toNat, 1, BitVec.ofInt 64 ((x a).toInt / 2 ^ ((x b).toNat % 64))⟩
  | .shraImm g d a n => some ⟨g, d.toNat, 1, BitVec.ofInt 64 ((x a).toInt / 2 ^ n.toNat)⟩
  | .min g d a b => some ⟨g, d.toNat, 1, BitVec.ofInt 64 (min (x a).toInt (x b).toInt)⟩
  | .max g d a b => some ⟨g, d.toNat, 1, BitVec.ofInt 64 (max (x a).toInt (x b).toInt)⟩
  | .minu g d a b => some ⟨g, d.toNat, 1, BitVec.ofNat 64 (min (x a).toNat (x b).toNat)⟩
  | .maxu g d a b => some ⟨g, d.toNat, 1, BitVec.ofNat 64 (max (x a).toNat (x b).toNat)⟩
  | .sethi g d a imm =>
    some ⟨g, d.toNat, 1, BitVec.ofNat 64 ((immOf s imm).toNat * 2 ^ 32 % 2 ^ 64 + (x a).toNat % 2 ^ 32)⟩
  | .sel g neg d a b =>
    some ⟨g, d.toNat, 1, if (if neg then decide ((x d).toInt < 0) else decide (x d ≠ 0)) then x a else x b⟩
  | .bitc g op d a => some ⟨g, d.toNat, 1, BitVec.ofNat 64 (bitCount op.toNat 64 (x a).toNat)⟩
  | _ => none

/-- R114, R116: the floating-point results. -/
def floatRule (s : State) (i : Instr) : Option ScalarRule :=
  let x := fun (p : Bool) (r : BitVec 6) => scRaw p (s.cur.rd r.toNat)
  let w := BitVec.ofNat 64
  match i with
  | .fadd g p d a b => some ⟨g, d.toNat, if p then 5 else 4, w (fAdd (scFmt p) .rne (x p a) (x p b))⟩
  | .fsub g p d a b => some ⟨g, d.toNat, if p then 5 else 4, w (fSub (scFmt p) .rne (x p a) (x p b))⟩
  | .fmul g p d a b => some ⟨g, d.toNat, if p then 5 else 4, w (fMul (scFmt p) .rne (x p a) (x p b))⟩
  | .fma g p d a b => some ⟨g, d.toNat, if p then 5 else 4, w (fFma (scFmt p) .rne (x p a) (x p b) (x p d))⟩
  | .fdiv g p d a b => some ⟨g, d.toNat, if p then 24 else 16, w (fDiv (scFmt p) .rne (x p a) (x p b))⟩
  | .fsqrt g p d a => some ⟨g, d.toNat, if p then 24 else 16, w (fSqrt (scFmt p) .rne (x p a))⟩
  | .fminmax g mx p d a b =>
    some ⟨g, d.toNat, if p then 5 else 4, w (if mx then fMax (scFmt p) (x p a) (x p b) else fMin (scFmt p) (x p a) (x p b))⟩
  | .fcvt g kind d a => some ⟨g, d.toNat, fcvtBound kind.toNat, fcvtVal kind.toNat (s.cur.rd a.toNat)⟩
  | _ => none

/-- R111, R113, R115: the predicates that SC operations write: guard, predicate and value. -/
def predicateRule (s : State) (i : Instr) : Option (BitVec 5 × Nat × Bool) :=
  let x := fun (r : BitVec 6) => s.cur.rd r.toNat
  match i with
  | .cmp g c q a b =>
    some (g, q.toNat,
      match c.toNat with
      | 0 => decide (x a = x b)
      | 1 => decide (x a ≠ x b)
      | 2 => decide ((x a).toInt < (x b).toInt)
      | 3 => decide ((x b).toInt ≤ (x a).toInt)
      | 4 => decide ((x a).toNat < (x b).toNat)
      | 5 => decide ((x b).toNat ≤ (x a).toNat)
      | 6 => decide (x a &&& x b ≠ 0)
      | _ => decide (x a &&& x b = 0))
  | .cmpi g c q a imm =>
    some (g, q.toNat,
      match c.toNat with
      | 0 => decide (x a = immOf s imm)
      | 1 => decide (x a ≠ immOf s imm)
      | 2 => decide ((x a).toInt < (immOf s imm).toInt)
      | _ => decide ((x a).toNat < (immOf s imm).toNat))
  | .plog g op q qa qb =>
    let a := s.cur.pred qa.toNat
    let b := s.cur.pred qb.toNat
    some (g, q.toNat,
      match op.toNat with
      | 0 => a && b
      | 1 => a || b
      | 2 => a != b
      | _ => a && !b)
  | .fcmp g c p q a b =>
    some (g, q.toNat, fCond (scFmt p) c.toNat (scRaw p (x a)) (scRaw p (x b)))
  | _ => none

/-! ### Floating-point values by rule (R36, R43, R46–R48) -/

/-- R34, R36: the exact value of the bits of a finite number of a layout. -/
def ratOf (f : Ffmt) (w : Nat) : ℚ :=
  let e := w / 2 ^ f.mb % 2 ^ f.eb
  let fr := w % 2 ^ f.mb
  let m : ℚ :=
    if e = 0 then fr * 2 ^ (1 - (f.bias : ℤ) - f.mb) else (2 ^ f.mb + fr : ℕ) * 2 ^ ((e : ℤ) - f.bias - f.mb)
  if w.testBit (f.eb + f.mb) then -m else m

/-- R36: bits of a layout, and those of a finite number and of an infinity. -/
def bitsIn (f : Ffmt) (w : Nat) : Prop := w < 2 ^ (1 + f.eb + f.mb)
def finiteBits (f : Ffmt) (w : Nat) : Prop := bitsIn f w ∧ w / 2 ^ f.mb % 2 ^ f.eb ≠ 2 ^ f.eb - 1
def infinite (f : Ffmt) (w : Nat) : Prop := bitsIn f w ∧ w % 2 ^ (f.eb + f.mb) = f.infBits

/-- A magnitude with a sign. -/
def signed (f : Ffmt) (neg : Bool) (w : Nat) : Nat := if neg then f.signBit + w else w

/-- R36, R43: the largest finite number of a layout, and the exact magnitude from which a value overflows under a mode: the
midpoint beyond that number under RNE, and anything above it under the others. -/
def overflows (f : Ffmt) (m : Rmode) (x : ℚ) : Prop :=
  let big := ratOf f (f.infBits - 1)
  match m with
  | .rne => big + 2 ^ ((f.bias : ℤ) - f.mb - 1) ≤ |x|
  | _ => big < |x|

/-- R43: the choice among the finite numbers for an exact value, w being the one chosen. -/
def chosenBits (f : Ffmt) (m : Rmode) (x : ℚ) (w : Nat) : Prop :=
  let v := ratOf f w
  match m with
  | .rne => ∀ y, finiteBits f y →
      (v < ratOf f y → 2 * x ≤ v + ratOf f y ∧ (2 * x = v + ratOf f y → w % 2 = 0)) ∧
      (ratOf f y < v → v + ratOf f y ≤ 2 * x ∧ (2 * x = v + ratOf f y → w % 2 = 0))
  | .rtz => |v| ≤ |x| ∧ ∀ y, finiteBits f y → |ratOf f y| ≤ |x| → |ratOf f y| ≤ |v|
  | .rdn => v ≤ x ∧ ∀ y, finiteBits f y → ratOf f y ≤ x → ratOf f y ≤ v
  | .rup => x ≤ v ∧ ∀ y, finiteBits f y → x ≤ ratOf f y → v ≤ ratOf f y

/-- R36, R43, R47: w is what a nonzero exact value becomes under a mode, with its sign. -/
def rounded (f : Ffmt) (m : Rmode) (x : ℚ) (w : Nat) : Prop :=
  let neg := decide (x < 0)
  let toInf := match m with
    | .rne => true
    | .rtz => false
    | .rdn => neg
    | .rup => !neg
  (overflows f m x → w = signed f neg (if toInf then f.infBits else f.infBits - 1)) ∧
    (¬ overflows f m x → finiteBits f w ∧ w.testBit (f.eb + f.mb) = neg ∧ chosenBits f m x w)

/-- R425: the bits of an exact sum that is zero, of two terms with the signs given, both terms being zero or neither; two +0
under RDN are left open here (assumption log 19, DEDUCED). -/
def zeroSum (f : Ffmt) (m : Rmode) (zeros n1 n2 : Bool) (w : Nat) : Prop :=
  (zeros = false ∨ n1 ≠ n2 → w = signed f (decide (m = .rdn)) 0) ∧
    (zeros = true → n1 = true → n2 = true → w = f.signBit) ∧
    (zeros = true → n1 = false → n2 = false → m ≠ .rdn → w = 0)

/-! ### Results by rule: the VX and VY slots -/

/-- A result of a vector slot: the slot's fields (with the mask that selects the lanes written), the sources it reads as
vectors, the bound, the width of the elements that land each as a whole, and the result. -/
structure VectorRule where
  f : VF
  srcs : List Nat
  bound : Nat
  el : Nat
  value : Vec

/-- The two sources and the old destination of a vector slot. -/
def vecA (s : State) (f : VF) : Vec := s.vread (s.cur.vsrc f.va.toNat)
def vecB (s : State) (f : VF) : Vec := secondSrc s (vtOfCode f.ty) f
def vecD (s : State) (f : VF) : Vec := s.vread (s.cur.vsrc f.vd.toNat)

/-- R139: the result of an element-wise operation on two sources, and on one. -/
def eachLane (s : State) (f : VF) (op : Nat → Nat → Nat → Nat) : Vec :=
  elementwise (vtOfCode f.ty) op (vecA s f) (vecB s f) (vecD s f)
def eachLane1 (s : State) (f : VF) (op : Nat → Nat → Nat → Nat) : Vec :=
  elementwise (vtOfCode f.ty) op (vecA s f) 0 (vecD s f)

/-- R141–R160: the vector operations that write a vector; VINS, which writes one element, is stated apart. -/
def vectorRule (s : State) (i : Instr) : Option VectorRule :=
  let ty := fun (f : VF) => vtOfCode f.ty
  let m := s.cur.rnd
  let bin := fun (f : VF) (n : Nat) (op : Nat → Nat → Nat → Nat) =>
    some (⟨f, vecSrcs f true true, n, (ty f).w, eachLane s f op⟩ : VectorRule)
  let un := fun (f : VF) (n : Nat) (op : Nat → Nat → Nat → Nat) =>
    some (⟨f, vecSrcs f true false, n, (ty f).w, eachLane1 s f op⟩ : VectorRule)
  let b32 := fun (f : VF) => secondSrc s .ui32 f
  match i with
  | .vadd f => bin f 4 (eAdd (ty f) (f.md == 1) m)
  | .vsub f => bin f 4 (eSub (ty f) (f.md == 1) m)
  | .vmul f => bin f 6 (eMul (ty f) (f.md == 1) m)
  | .vfma f => bin f 6 (eFma (ty f) m)
  | .vfms f => bin f 6 (eFms (ty f) m)
  | .vmin f => bin f 4 (eMin (ty f))
  | .vmax f => bin f 4 (eMax (ty f))
  | .vabs f => un f 4 (eAbs (ty f) (f.md == 1))
  | .vneg f => un f 4 (eNeg (ty f) (f.md == 1))
  | .vabd f => bin f 4 (eAbd (ty f) (f.md == 1) m)
  | .vmulh f => bin f 6 (eMulh (ty f))
  | .vclamp f => bin f 4 (eClamp (ty f))
  | .vand f => some ⟨f, vecSrcs f true true, 4, 32, vecA s f &&& b32 f⟩
  | .vor f => some ⟨f, vecSrcs f true true, 4, 32, vecA s f ||| b32 f⟩
  | .vxor f => some ⟨f, vecSrcs f true true, 4, 32, vecA s f ^^^ b32 f⟩
  | .vnot f => some ⟨f, vecSrcs f true false, 4, 32, ~~~ vecA s f⟩
  | .vshl f => bin f 4 (eShl (ty f))
  | .vshr f => bin f 4 (eShr (ty f))
  | .vsel f => some ⟨f, vecSrcs f true true, 4, (ty f).w, vecSelect (s.cur.mask f.md.toNat) (vecA s f) (vecB s f)⟩
  | .vcvt f => some ⟨f, vecSrcs f true false, 6, (ty f).w, vcvt (vtOfCode f.md) (ty f) m (vecA s f)⟩
  | .vsrnd f => some ⟨f, vecSrcs f true true, 6, 32, vsrnd (srTargetOf f.md.toNat) (vecA s f) (b32 f)⟩
  | .vpack f =>
    let kind := f.md.toNat % 4
    some ⟨f, vecSrcs f true true, 6, if ty f = .ui8 ∧ kind = 3 then 6 else (ty f).w,
      vpack (ty f) kind (decide (f.md.toNat ≥ 4)) m (vecA s f) (secondSrc s (packSrc (ty f) kind) f) (vecD s f)⟩
  | .vunpk f => some ⟨f, vecSrcs f true false, 6, 32, vunpk (ty f) f.md.toNat (f.vb.toNat % 4) (vecA s f)⟩
  | .vexp2 f => un f 12 (fun a _ _ => fUnary (ty f).ff Fv.exp2 a)
  | .vlog2 f => un f 12 (fun a _ _ => fUnary (ty f).ff Fv.logTwo a)
  | .vrcp f => un f 14 (fun a _ _ => fUnary (ty f).ff Fv.rcp a)
  | .vrsq f => un f 14 (fun a _ _ => fUnary (ty f).ff Fv.rsq a)
  | .vsqrt f => un f 14 (fun a _ _ => fUnary (ty f).ff Fv.sqrt a)
  | .vscale f =>
    some ⟨f, vecSrcs f true true, 6, (ty f).w,
      elementwise (ty f) (eScale (ty f) m) (vecA s f) (secondSrc s (if (ty f).w = 32 then .i32 else .i16) f) (vecD s f)⟩
  | .vround f => un f 6 (eRound (ty f) m)
  | .vcpsgn f => bin f 4 (eCpsgn (ty f) f.md.toNat)
  | .vredsum f =>
    some ⟨everyLane f, vecSrcs f true false, 16, 32, splat 32 (vredsum (ty f) (s.cur.mask f.mask.toNat) (vecA s f))⟩
  | .vredmax f =>
    some ⟨everyLane f, vecSrcs f true false, 16, 32, splat 32 (vredmm (ty f) true (s.cur.mask f.mask.toNat) (vecA s f))⟩
  | .vredmin f =>
    some ⟨everyLane f, vecSrcs f true false, 16, 32, splat 32 (vredmm (ty f) false (s.cur.mask f.mask.toNat) (vecA s f))⟩
  | .vmaxidx f =>
    some ⟨everyLane f, vecSrcs f true true, 16, 32, vmaxidx (ty f) (s.cur.mask f.mask.toNat) (vecA s f) (vecB s f)⟩
  | .vprefix f => some ⟨f, vecSrcs f true false, 18, (ty f).w, vprefix (ty f) (s.cur.mask f.mask.toNat) (vecA s f)⟩
  | .vperm f => some ⟨f, vecSrcs f true true, 8, 32, vperm (vecA s f) (b32 f)⟩
  | .vxgrp f => some ⟨f, vecSrcs f true false, 24, 32, vxgrp f.md.toNat (vecA s f) (indexOf s f)⟩
  | .vbcast f => some ⟨f, vecSrcs f true false, 8, 32, vbcast (vecA s f) (indexOf s f)⟩
  | .vslide f => some ⟨f, vecSrcs f true false, 8, 32, vslide f.md.toNat (vecA s f) (indexOf s f % 2 ^ 32)⟩
  | .viota f => some ⟨f, [], 4, 32, viota (s.cur.mask f.md.toNat)⟩
  | .vmov f => some ⟨f, vecSrcs f false true, 4, 32, b32 f⟩
  | .vmix f => some ⟨f, vecSrcs f true true, 6, 32, vmixAll (vecA s f) (b32 f)⟩
  | .vdot4 f => some ⟨f, vecSrcs f true true, 6, 32, vdot4 (ty f) (f.md == 1) m (vecA s f) (vecB s f) (vecD s f)⟩
  | .vmadi f => bin f 6 (eMadi (ty f) (f.md == 1))
  | .vbitc f => un f 4 (fun a _ _ => bitCount f.md.toNat (ty f).w a)
  | .vfin f => un f 4 (eFin (ty f) (f.md == 1))
  | .vlut f => some ⟨f, vecSrcs f true true, 8, 8, vlut (f.md == 1) (vecA s f) (secondSrc s .ui8 f)⟩
  | _ => none

/-- The vector codes that a slot names may be read, and no flue among them is empty (R70, R71). -/
def readable (s : State) (srcs : List Nat) : Prop :=
  ∀ c ∈ srcs, s.cur.vsrc c ≠ .bad ∧ s.cur.srcEmpty (s.cur.vsrc c) = false

/-! ### What an instruction leaves alone -/

/-- Every byte and every element of memory reads as before. -/
def sameBytes (s t : State) : Prop :=
  (∀ k a, Memory.read (t.cluster k).spl a = Memory.read (s.cluster k).spl a) ∧
    (∀ p i a, Memory.read (t.handle p i).data a = Memory.read (s.handle p i).data a) ∧
    (∀ p i e, Tab.get (t.handle p i).base e 0 = Tab.get (s.handle p i).base e 0) ∧
    (∀ p n, (t.proc p).patch n = (s.proc p).patch n)

/-- Everything outside the cores is as before. -/
def sameUnits (s t : State) : Prop :=
  t.clusters = s.clusters ∧ t.dies = s.dies ∧ t.procs = s.procs ∧ t.launches = s.launches ∧ t.resp = s.resp ∧
    t.notices = s.notices ∧ t.step = s.step ∧ t.node = s.node ∧ t.chain = s.chain ∧ t.accepted = s.accepted ∧
    t.failed = s.failed ∧ t.boot = s.boot ∧ t.tripped = s.tripped ∧ t.foc = s.foc ∧ t.agenda = s.agenda ∧
    t.draws = s.draws ∧ t.replays = s.replays

/-- The other cores, and the other contexts of the core in focus, are as before. -/
def sameOthers (s t : State) : Prop :=
  (∀ c, c ≠ s.foc.core → t.core c = s.core c) ∧
    (∀ x, x ≠ s.foc.ctx → t.ctx s.foc.core x = s.ctx s.foc.core x)

/-- Of the core in focus, only its contexts and its results not yet landed may differ. -/
def sameCoreButPending (s t : State) : Prop :=
  { t.core s.foc.core with ctxs := [], pend := [] } = { s.core s.foc.core with ctxs := [], pend := [] }

/-- Of the core in focus, only its contexts may differ. -/
def sameCoreButCtxs (s t : State) : Prop :=
  { t.core s.foc.core with ctxs := [] } = { s.core s.foc.core with ctxs := [] }

/-- R107: what an SC operation with destination d leaves alone. -/
def scalarFrame (s t : State) (d : Nat) : Prop :=
  sameUnits s t ∧ sameOthers s t ∧ sameBytes s t ∧ sameCoreButPending s t ∧
    { t.cur with s := [] } = { s.cur with s := [] } ∧ (∀ r, r ≠ d → t.cur.rd r = s.cur.rd r) ∧
    (∀ p, p ∈ (t.core s.foc.core).pend → p ∈ (s.core s.foc.core).pend ∨ (p.ctx = s.foc.ctx ∧ ∃ v, p.land = .sreg d v)) ∧
    (∀ p, p ∈ (s.core s.foc.core).pend → p ∈ (t.core s.foc.core).pend ∨ (p.ctx = s.foc.ctx ∧ ∃ v, p.land = .sreg d v)) ∧
    t.stamp = s.stamp ∧ (∀ e, e ∈ t.damaged → e ∈ s.damaged) ∧ (∀ e, e ∈ t.weak → e ∈ s.weak)

/-- What an instruction that changes only the current context leaves alone; what it changes there is said apart. -/
def contextFrame (s t : State) : Prop :=
  sameUnits s t ∧ sameOthers s t ∧ sameBytes s t ∧ sameCoreButCtxs s t ∧ t.stamp = s.stamp ∧ t.damaged = s.damaged ∧
    t.weak = s.weak

/-! ### Operations that join a pipe or a channel -/

/-- R26, R62, R64, R71, R234: a D operation may issue: its guard is true, the previous producer of its token has completed,
its channel has room, a flue that it reads holds a vector and, if it moves data, its next identifier exists. -/
def dRoom (s : State) (c : DC) (src : Option Nat) (moves : Bool) : Prop :=
  s.cur.guard c.g = true ∧ (c.tkp.toNat ≠ 0 → s.cur.tokPending c.tkp.toNat = false) ∧
    (s.core s.foc.core).chanLoad (isDb s) < Config.channelPlaces ∧
    (∀ v, src = some v → s.cur.srcEmpty (s.cur.vsrc v) = false) ∧
    (moves = true → (if isDb s then s.cur.nextB else s.cur.nextA) < 2 ^ 48)

/-- A D operation by its rules: its common fields; whether it moves data; its kind, with its operands as read at its issue; the
tokens it consumes; the vector code that it reads at its issue, if any; what its register fields must name, and the fault
when they do not; and what the values it reads must be for it to issue. -/
structure DRule where
  c : DC
  moves : Bool
  kind : DKind
  toks : List Nat
  src : Option Nat := none
  regs : Prop
  refusal : Nat
  ready : Prop

/-- R75, R120, R234: t is s after an operation has joined its channel: it stands last among the operations in flight, not
started, waiting for the producers that its tokens name; its own token names it; and it has taken the next identifier of its
channel if it moves data. -/
def joins (s t : State) (r : DRule) : Prop :=
  (∃ o : DOp, (t.core s.foc.core).dops = (s.core s.foc.core).dops ++ [o] ∧ o.id = s.stamp ∧ o.ctx = s.foc.ctx ∧
    o.chanB = isDb s ∧ o.kind = r.kind ∧ o.tkp = r.c.tkp.toNat ∧ o.waits = s.cur.pending r.toks ∧ o.started = false ∧
    o.xfer = (if r.moves then some (if isDb s then s.cur.nextB else s.cur.nextA) else none)) ∧
    (r.c.tkp.toNat ≠ 0 → Tab.find t.cur.tk r.c.tkp.toNat = some (.pending s.stamp)) ∧
    (∀ k, k ≠ r.c.tkp.toNat → Tab.find t.cur.tk k = Tab.find s.cur.tk k) ∧
    t.cur.nextA = s.cur.nextA + (if r.moves && !isDb s then 1 else 0) ∧
    t.cur.nextB = s.cur.nextB + (if r.moves && isDb s then 1 else 0) ∧ t.stamp = s.stamp + 1 ∧ t.foc = s.foc

/-- R253, R211: an operand that names a patch: a scalar name below 2^24, or a name register that holds a patch not discarded. -/
def patchNamed (s : State) (p : BitVec 7) : Prop :=
  if pScalar p then (s.cur.rd (p.toNat % 64)).toNat < 2 ^ 24
  else ∃ r, Tab.find s.cur.n (p.toNat % 8) = some r ∧ r.sum.st ≠ .discarded

/-- R229: the base address of a gather or a scatter: in a bank, 4-byte aligned. -/
def baseOk (v : Int) : Prop := 0 ≤ v ∧ v < 2 ^ 25 ∧ offIn v.toNat < Config.bankBytes ∧ v % 4 = 0

/-- R311: the block of a message: its shape, its rows on their side, and the register that names peer and channel. -/
def blockOk (s : State) (h : Nat) (b : ByteSide) (w : Word) : Prop :=
  let sh := s.cur.shape h
  shRows sh ≠ 0 ∧ w &&& ~~~ 0xF03FF#64 = 0 ∧ shRows sh * shRowb sh ≤ 262144 ∧ shRowb sh % 16 = 0 ∧ b.addr % 16 = 0 ∧
    ∀ r, r < shRows sh → b.over s.cur.vunits r (shRowb sh) = none

/-- The earlier accesses that a release waits for (R283). -/
def before (s : State) : List Nat := (s.core s.foc.core).earlier s.foc.ctx

/-- A SYNC operation by its rules (R279–R281). -/
def syncRule (s : State) (c : DC) (f : SyncF) (op : Nat) : DRule :=
  let x := s.cur
  let off := (x.rd f.o.toNat).toNat
  { c := c, moves := false
    kind := .sync op ((x.rd f.h.toNat).setWidth 32) off (2 ^ f.size.toNat) f.ord f.sgn f.scope.toNat (x.rd f.v.toNat)
      (x.rd f.n.toNat) f.d.toNat (if f.ord && decide (op ≠ 0x18) then before s else [])
    toks := dcToks c, regs := True, refusal := fcRegister
    ready := (x.rd f.h.toNat).toNat < 2 ^ 32 ∧ off < 2 ^ 48 ∧ off % 2 ^ f.size.toNat = 0 }

/-- R226–R235, R253–R269, R279–R281, R306, R308, R311: the D operations by their rules. -/
def dRule (s : State) (i : Instr) : Option DRule :=
  let x := s.cur
  let ref := fun (r : BitVec 6) => trefOf (x.rd r.toNat)
  let refOk := fun (r : BitVec 6) => trefBad (x.rd r.toNat) = false
  let patch := fun (c : DC) (status : BitVec 12) (op : PatchOp) (ready : Prop) =>
    some ({ c := c, moves := false, kind := .patch op status.toNat, toks := dcToks c,
            regs := status = 0xFF0 ∨ x.vdst status.toNat = true, refusal := fcRegister, ready := ready } : DRule)
  let side := fun (h : BitVec 4) (space : Nat) (v stride : Int) (peer : Nat) =>
    (planOf s h.toNat, ({ space := space, addr := v, stride := stride, peer := peer } : ByteSide))
  match i with
  | .cpy c f =>
    let sh := x.shape f.h.toNat
    let (plan, dst) := side f.h f.dsp.toNat (x.xval f.xd.toNat) (shDstr sh) f.peer.toNat
    some { c := c, moves := true, kind := .copy (copySrc s f).keep dst.keep, toks := dcToks c, regs := True, refusal := fcRegister,
           ready := copyField s f = false ∧ (f.ssp = 6 → (s.core s.foc.core).covBusy = false) ∧
             firstTrap ((plan (copySrc s f) dst).checks s) = none }
  | .strm c f =>
    let (plan, dst) := side f.h 5 0 0 0
    some { c := c, moves := true, kind := .strm (copySrc s f).keep f.dsp.toNat 0, toks := dcToks c, regs := True,
           refusal := fcRegister,
           ready := copyField s f = false ∧ firstTrap ((plan (copySrc s f) dst).checks s) = none }
  | .ring c f =>
    let l := localOf s.foc.core
    let sh := x.shape f.h.toNat
    let (plan, src) := side f.h 4 (x.xval f.xs.toNat) (shSstr sh) l
    let (_, dst) := side f.h 4 (x.xval f.xd.toNat) (shDstr sh) (ringNext f.mask l)
    some { c := c, moves := true,
           kind := .ring f.mask.toNat (s.ringCount s.cur (ringKey s.foc.core f.mask)) src.addr.toNat
             dst.addr.toNat false,
           toks := dcToks c, regs := f.mask.getLsbD l = true, refusal := fcField,
           ready := shRows sh ≠ 0 ∧ firstTrap ((plan (.bytes src) dst).checks s) = none }
  | .wdef c f =>
    let v := s.vread (x.vsrc f.v.toNat)
    let d := wSampled v x.rmode
    some { c := c, moves := true, kind := .fetch f.w.toNat 0 (wRows d) d, toks := dcToks c, src := some f.v.toNat,
           regs := x.vsrc f.v.toNat ≠ .bad, refusal := fcRegister,
           ready := Tab.find x.wins f.w.toNat = none ∧ wBad v = false ∧ wOver d 0 (wRows d) = none ∧
             firstBad (wBase d) (wDepth d * wPitch d) = none ∧ wMisaligned (bfmts s) d (wTen s d).fmt = none ∧
             isHome (localOf s.foc.core) (bankOf (wBase d)) = true }
  | .wadv c f =>
    let n := if f.s then (x.rd (f.n.toNat / 2 ^ 10)).toNat else f.n.toNat
    match Tab.find x.wins f.w.toNat with
    | some q =>
      some { c := c, moves := true, kind := .fetch f.w.toNat q.next n q.desc, toks := dcToks c, regs := True,
             refusal := fcRegister,
             ready := 1 ≤ n ∧ n ≤ wRows q.desc ∧ wOver q.desc q.next n = none ∧
               wMisaligned (bfmts s) q.desc (wTen s q.desc).fmt = none }
    | none => none
  | .wrel c f =>
    some { c := c, moves := false, kind := .release f.w.toNat ((s.core s.foc.core).fetches s.foc.ctx f.w.toNat), toks := dcToks c,
           regs := True, refusal := fcRegister, ready := (Tab.find x.wins f.w.toNat).isSome = true }
  | .stow c f =>
    let (row, col) := splitCoord (x.xval f.xd.toNat)
    some { c := c, moves := true, kind := .patch (.stow (x.pArg f.p) (stowSrc s f).keep row col) 0xFF0, toks := dcToks c,
           regs := True, refusal := fcRegister, ready := firstTrap (stowChecks s f) = none }
  | .patchOpen c f =>
    let names := (s.core s.foc.core).reserve (s.procOf x)
    patch c f.status (.openRec (names.headD 0) f.n.toNat (ref f.st) f.kind (deltaFmt f.dfmt).code f.keep)
      (names ≠ [] ∧ refOk f.st)
  | .patchSeal c f =>
    some { c := c, moves := false,
           kind := .patch (.seal (x.pArg f.p) f.scope.toNat
             (if f.scope = 4 then before s else (s.core s.foc.core).stows s.foc.ctx (x.pArg f.p).name)) 0xFF0,
           toks := dcToks c, regs := True, refusal := fcRegister, ready := patchNamed s f.p }
  | .patchApply c f => patch c f.status (.apply (x.pArg f.p)) (patchNamed s f.p)
  | .patchInvert c f => patch c f.status (.invert (x.pArg f.p)) (patchNamed s f.p ∧ pNotInvertible s f.p = none)
  | .patchCommute c f =>
    patch c f.status (.commute (x.pArg f.p) (x.pArg f.q) f.loose) (patchNamed s f.p ∧ patchNamed s f.q)
  | .patchTransplant c f =>
    let (dr, dc) := splitCoord (x.rd f.so.toNat).toInt
    patch c f.status (.transplant (x.pArg f.p) (ref f.st) f.loose dr dc)
      (refOk f.st ∧ dr % 64 = 0 ∧ dc % 64 = 0 ∧ patchNamed s f.p)
  | .patchSquash c f => patch c f.status (.squash (x.pArg f.p) (x.pArg f.q)) (patchNamed s f.p ∧ patchNamed s f.q)
  | .patchDiscard c f => patch c f.status (.discard (x.pArg f.p)) (patchNamed s f.p)
  | .rayFork c f =>
    patch c f.status (.fork (ref f.st) f.k.toNat (if f.s then (x.rd (f.h.toNat / 2 ^ 6)).toNat else f.h.toNat)) (refOk f.st)
  | .patchQuery c f =>
    patch c f.status (.query (x.pArg f.p) (x.pArg f.q)) (pHigh s f.p = none ∧ pHigh s f.q = none)
  | .scat c f =>
    let v := x.xval f.xd.toNat
    some { c := c, moves := true,
           kind := .scat (x.phys f.vi.toNat) (x.phys f.vv.toNat) (f.nv.toNat + 1) v.toNat f.v f.op.toNat f.ty.toNat,
           toks := dcToks c, regs := noVecs s f.vi (f.nv.toNat + 1) = false ∧ noVecs s f.vv (f.nv.toNat + 1) = false,
           refusal := fcRegister, ready := baseOk v ∧ bankFmt (bfmts s) (bankOf v.toNat) = (scatFmt f.ty, false) }
  | .gath c f =>
    let v := x.xval f.xs.toNat
    some { c := c, moves := true, kind := .gath (x.phys f.vi.toNat) (x.phys f.vd.toNat) (f.nv.toNat + 1) v.toNat f.v,
           toks := dcToks c, regs := noVecs s f.vi (f.nv.toNat + 1) = false ∧ noVecs s f.vd (f.nv.toNat + 1) = false,
           refusal := fcRegister, ready := baseOk v }
  | .syncAdd c f => some (syncRule s c f 0x13)
  | .syncMax c f => some (syncRule s c f 0x14)
  | .syncOr c f => some (syncRule s c f 0x15)
  | .syncCas c f => some (syncRule s c f 0x16)
  | .syncSwap c f => some (syncRule s c f 0x17)
  | .syncLda c f => some (syncRule s c f 0x18)
  | .syncStl c f => some (syncRule s c f 0x19)
  | .qpush c f =>
    let q := (x.rd f.q.toNat).toNat
    some { c := c, moves := false, kind := .qpush q f.v.toNat f.d.toNat (before s), toks := dcToks c,
           regs := x.vdst f.v.toNat = true, refusal := fcRegister, ready := q < 2 ^ 12 }
  | .qpop c f =>
    let q := (x.rd f.q.toNat).toNat
    some { c := c, moves := false, kind := .qpop q f.v.toNat f.d.toNat, toks := dcToks c, regs := x.vdst f.v.toNat = true,
           refusal := fcRegister, ready := q < 2 ^ 12 }
  | .send c f =>
    let w := x.rd f.p.toNat
    let (_, b) := side f.h (if f.v then 0 else 1) (x.xval f.x.toNat) (shSstr (x.shape f.h.toNat)) 0
    some { c := c, moves := false, kind := .send f.v b.addr.toNat (w.toNat % 2 ^ 10) (w.toNat / 2 ^ 16 % 16), toks := dcToks c,
           regs := True, refusal := fcRegister, ready := blockOk s f.h.toNat b w }
  | .recv c f =>
    let w := x.rd f.p.toNat
    let (_, b) := side f.h (if f.v then 0 else 1) (x.xval f.x.toNat) (shDstr (x.shape f.h.toNat)) 0
    some { c := c, moves := false,
           kind := .recv f.v b.addr.toNat (w.toNat % 2 ^ 10) (w.toNat / 2 ^ 16 % 16) f.d.toNat (x.rd f.t.toNat).toNat,
           toks := dcToks c, regs := True, refusal := fcRegister, ready := blockOk s f.h.toNat b w }
  | .tjoin c f =>
    some { c := c, moves := false, kind := .join,
           toks := dcToks c ++ [f.t3, f.t4, f.t5, f.t6, f.t7, f.t8, f.t9, f.t10, f.t11].map BitVec.toNat, regs := True,
           refusal := fcRegister, ready := True }
  | .lnch c f =>
    let v := x.vsrc f.v.toNat
    some { c := c, moves := false, kind := .lnch f.v.toNat (s.keptVec v) f.d.toNat (before s), toks := dcToks c,
           src := some f.v.toNat, regs := v ≠ .bad, refusal := fcRegister, ready := True }
  | _ => none

/-- What a D operation leaves alone at its issue: all but the core's operations in flight and its reserve of names, the context's
tokens, identifiers, windows, name registers and flues, and of its launch the ring counts and whether it may be replayed. -/
def dFrame (s t : State) : Prop :=
  sameOthers s t ∧ sameBytes s t ∧ t.dies = s.dies ∧ t.procs = s.procs ∧ t.resp = s.resp ∧ t.notices = s.notices ∧
    t.step = s.step ∧ t.node = s.node ∧ t.damaged = s.damaged ∧ t.weak = s.weak ∧ t.replays = s.replays ∧
    t.agenda = s.agenda ∧ t.chain = s.chain ∧ t.accepted = s.accepted ∧ t.failed = s.failed ∧ t.boot = s.boot ∧ t.tripped = s.tripped ∧ t.foc = s.foc ∧ t.draws = s.draws ∧
    t.clusters = s.clusters ∧
    (∀ l, (Tab.find t.launches l).map (fun v => { v with once := false, rings := [] }) =
      (Tab.find s.launches l).map (fun v => { v with once := false, rings := [] })) ∧
    { t.core s.foc.core with ctxs := [], dops := [], names := [] } =
      { s.core s.foc.core with ctxs := [], dops := [], names := [] } ∧
    { t.cur with tk := [], nextA := 0, nextB := 0, wins := [], n := [], flues := [] } =
      { s.cur with tk := [], nextA := 0, nextB := 0, wins := [], n := [], flues := [] }

/-- R26, R163, R164: an MX operation may issue: its guard is true, 16 operations are not in flight, and what it would
hold is free. -/
def mxRoom (s : State) (kind : MxKind) (f : MF) : Prop :=
  s.cur.guard f.g = true ∧ (s.core s.foc.core).mxs.length < Config.matrixPlaces ∧ mxBusy s (mxOpOf kind f s) = false

/-- R163: s after an MX operation has joined its pipe. -/
def mxJoined (s : State) (kind : MxKind) (f : MF) : State :=
  { s.modCore s.foc.core (fun k => { k with mxs := k.mxs ++ [mxOpOf kind f s] }) with stamp := s.stamp + 1 }

/-- R167, R169: every row of an operand lies inside a bank, aligned, and, where the operation asks for it, in a home bank of
the core. -/
def areaPlaced (s : State) (a : Area) (home : Bool) : Prop :=
  0 ≤ a.addr ∧ a.addr < 2 ^ 48 ∧ a.addr % 128 = 0 ∧ a.pitch % 128 = 0 ∧
    ∀ i, i < a.rows →
      0 ≤ a.at i ∧ a.at i < 2 ^ 25 ∧ offIn (a.at i).toNat < Config.bankBytes ∧
        offIn (a.at i).toNat + rowBytes (areaFmt s (a.at i)).1 a.cnt ≤ Config.bankBytes ∧
        (home = true → isHome (localOf s.foc.core) (bankOf (a.at i).toNat) = true)

/-- R168: the bank of every row of an operand has a format and a scale presence that the operation takes. -/
def rowsFmt (s : State) (a : Area) (ok : Sfmt → Bool → Bool) : Prop :=
  ∀ i, i < a.rows → ok (areaFmt s (a.at i)).1 (areaFmt s (a.at i)).2 = true

/-- R194, R196: a ground range in the cover store, and the source rows beside it. -/
def groundOk (s : State) (f : MF) : Prop :=
  s.cur.cov = true ∧ 0 ≤ s.cur.xval f.xb.toNat ∧ s.cur.xval f.xb.toNat + mfK f ≤ 16384 ∧ s.cur.xval f.xb.toNat % 32 = 0

/-- R74, R162, R168, R169, R174–R182, R186, R195, R196, R344: an MX operation with its kind and the conditions on its
operands under which it issues. -/
def mxReady (s : State) (i : Instr) : Option (MxKind × MF × Prop) :=
  let x := s.cur
  let own := fun (t : BitVec 4) => x.hasTile t.toNat = true
  let vecs := fun (v : BitVec 12) (n : Nat) => v.toNat < 0xC00 ∧ v.toNat + n ≤ 64 * x.vunits
  let scan := fun (kind : MxKind) (f : MF) =>
    let xs := areaOf s f.xa (mfM f) (mfN f)
    let bc := areaOf s f.xb (mfM f) (2 * (f.kb.toNat + 1))
    let fmt := fun (q : Sfmt) (c : Bool) => (q == .fp32 || q == .fp16 || q == .bf16) && !c
    let k := s.core s.foc.core
    some (kind, f, own f.acc ∧ x.hasTile (f.acc.toNat + 1) = true ∧ (f.low = 0xFF0 ∨ x.vdst f.low.toNat = true) ∧
      areaPlaced s xs true ∧ areaPlaced s bc true ∧ rowsFmt s xs fmt ∧ rowsFmt s bc fmt ∧ pairConflict xs bc = false ∧
      (f.t = false → (k.tile f.acc.toNat).int = false) ∧ (f.mode = 1 → (k.tile (f.acc.toNat + 1)).int = false))
  match i with
  | .mma f =>
    let a := areaOf s f.xa (mfM f) (mfK f)
    let b := if f.t then areaOf s f.xb (mfN f) (mfK f) else areaOf s f.xb (mfK f) (mfN f)
    some (.mma, f, own f.acc ∧ areaPlaced s a true ∧
      if f.bs then own f.xb ∧ f.xb ≠ f.acc ∧ rowsFmt s a (fun q c => (q == .fp16 || q == .bf16) && !c)
      else areaPlaced s b true ∧ rowsFmt s a (fun q _ => matrixFmt q) ∧ rowsFmt s b (fun q c => matrixFmt q && (!c || f.t)) ∧
        pairConflict a b = false ∧ (f.t = true → b.pitch / 128 % 2 ≠ 0))
  | .mmab f =>
    let a := areaOf s f.xa (mfM f) (mfK f)
    some (.mmab, f, own f.acc ∧ vecs f.low (mfK f) ∧ areaPlaced s a true ∧ rowsFmt s a (fun q _ => matrixFmt q))
  | .mzero f => some (.mzero, f, own f.acc)
  | .mload f =>
    let a := areaOf s f.xa (mfM f) (mfN f)
    some (.mload, f, own f.acc ∧
      if f.bs then vecs f.low (mfM f)
      else areaPlaced s a true ∧ rowsFmt s a (fun q _ => decide (q.code ≤ 10)) ∧ a.banks.length ≤ 1)
  | .mdrain f =>
    let a := areaOf s f.xa (mfM f) (mfN f)
    some (.mdrain, f, own f.acc ∧
      if f.bs then vecs f.low (mfM f)
      else areaPlaced s a false ∧ rowsFmt s a (fun q _ => decide (q.code ≤ 10)) ∧ a.banks.length ≤ 1)
  | .madd f => some (.madd, f, own f.acc ∧ own f.xa)
  | .mscl f => some (.mscl, f, own f.acc)
  | .mtrn f => some (.mtrn, f, own f.acc ∧ own f.xa ∧ f.xa ≠ f.acc)
  | .mstat f => some (.mstat, f, own f.acc)
  | .mscan f => scan .mscan f
  | .mscanf f => scan .mscanf f
  | .mscanr f => scan .mscanr f
  | .cvInit f =>
    let row : Area := { addr := x.xval f.xa.toNat, pitch := 0, rows := 1, cnt := mfK f }
    some (.cvInit, f, groundOk s f ∧ (f.low = 2 → areaPlaced s row true ∧ rowsFmt s row (fun q _ => matrixFmt q)))
  | .cvProbe f =>
    let rows := areaOf s f.xa (mfM f) (mfK f)
    let a : Area := { rows with pitch := if mfM f = 1 then 0 else rows.pitch }
    some (.cvProbe, f, groundOk s f ∧ own f.acc ∧ areaPlaced s a true ∧ rowsFmt s a (fun q _ => matrixFmt q) ∧
      a.banks.length ≤ 1 ∧ (f.mode = 1 → ((s.core s.foc.core).tile f.acc.toNat).int = false))
  | .cvCommit f =>
    let row : Area := { addr := x.xval f.xa.toNat, pitch := 0, rows := 1, cnt := mfK f }
    some (.cvCommit, f, groundOk s f ∧ areaPlaced s row true ∧ rowsFmt s row (fun q _ => matrixFmt q))
  | .cvRead f => some (.cvRead, f, groundOk s f ∧ own f.acc ∧ vecs f.low (mfK f / 128))
  | .sigFold f => some (.sigFold, f, own f.acc)
  | .sigCheck f => some (.sigCheck, f, own f.acc)
  | .sigGet f => some (.sigGet, f, own f.acc)
  | .mred f => some (.mred, f, own f.acc ∧ own f.xa)
  | .mgate f => some (.mgate, f, own f.acc ∧ own f.xa)
  | .mcopy f => some (.mcopy, f, own f.acc ∧ own f.xa)
  | _ => none

/-! ### The results of MX operations -/

/-- R34, R425: the exact value of a number that is neither NaN nor infinite. -/
def fvFinite (v : Fv) : Prop := ∃ s m e, v = .fin s m e
def fvRat (v : Fv) : ℚ :=
  match v with
  | .fin s m e => (if s then -1 else 1) * m * 2 ^ e
  | _ => 0

/-- R56, R165: SAT(INT32) of an integer, with whether it saturates. -/
def satInt (z : Int) : Nat × Bool :=
  ((BitVec.ofInt 32 (max (-2 ^ 31) (min (2 ^ 31 - 1) z))).toNat, decide (z < -2 ^ 31) || decide (2 ^ 31 ≤ z))

/-- What an operation leaves in a tile: the region that it writes, the tile's kind, and each element's bits, with whether it
saturated. -/
structure TileRule where
  tile : Nat
  rows : Nat
  cols : Nat
  int : Bool
  value : Nat → Nat → Nat × Bool

/-- R165: a core's tile after an operation: the region is written; every other element, and every status bit but SAT, which a
saturated element sets, is as before. -/
def TileRule.holds (r : TileRule) (k k' : Core) : Prop :=
  let old := k.tile r.tile
  let new := k'.tile r.tile
  (∀ i j, i < 128 → j < 128 → new.at i j = if i < r.rows ∧ j < r.cols then (r.value i j).1 % 2 ^ 32 else old.at i j) ∧
    new.int = r.int ∧
    (new.stat.getLsbD 2 = true ↔ old.stat.getLsbD 2 = true ∨ ∃ i j, i < r.rows ∧ j < r.cols ∧ (r.value i j).2 = true) ∧
    new.stat &&& ~~~ 4#5 = old.stat &&& ~~~ 4#5

/-- R187: the state of the recurrent form after t steps, and a row of outputs. -/
def scanH (q : ScanIn) : Nat → Nat → Nat → Nat
  | 0, n, p => q.h0 n p
  | t + 1, n, p =>
    subSum [some (Fv.mul (v32 (rne32 (Fv.exp2 (v32 (q.lam.getD t 0))))) (v32 (scanH q t n p))), mulTerm (q.b t n) (q.x t p)]
def scanY (q : ScanIn) (t p : Nat) : Nat :=
  bsum ((List.range q.n).map (fun n => mulTerm (q.c t n) (some (v32 (scanH q (t + 1) n p)))))

/-- R188: the chunked form: g[t], w[t][s], an output and the final state. -/
def chunkG (q : ScanIn) (t : Nat) : Nat := scanDecay q 0 (t + 1)
def chunkW (q : ScanIn) (t s : Nat) : Nat := scanDecay q (s + 1) (t + 1)
def chunkY (q : ScanIn) (t p : Nat) : Nat :=
  let cb := fun (s : Nat) => bsum ((List.range q.n).map (fun n => mulTerm (q.c t n) (q.b s n)))
  let gts := fun (s : Nat) => rne32 (Fv.mul (v32 (cb s)) (v32 (chunkW q t s)))
  let ch := bsum ((List.range q.n).map (fun n => mulTerm (q.c t n) (some (v32 (q.h0 n p)))))
  let inter := rne32 (Fv.mul (v32 (chunkG q t)) (v32 ch))
  let intra := bsum ((List.range (t + 1)).map (fun s => mulTerm (some (v32 (gts s))) (q.x s p)))
  rne32 (Fv.add .rne (v32 inter) (v32 intra))
def chunkH (q : ScanIn) (n p : Nat) : Nat :=
  let wb := fun (s : Nat) => (q.b s n).map (fun b => v32 (rne32 (Fv.mul (v32 (chunkW q (q.l - 1) s)) b)))
  let carry := rne32 (Fv.mul (v32 (chunkG q (q.l - 1))) (v32 (q.h0 n p)))
  rne32 (Fv.add .rne (v32 carry) (v32 (bsum ((List.range q.l).map (fun s => mulTerm (wb s) (q.x s p))))))

/-- R167: element e of row i of an operand in the scratchpad, of cnt elements a row; `b` selects xB. -/
def operandEl (s : State) (c : Nat) (o : MxOp) (b : Bool) (cnt i e : Nat) : El :=
  let cl := s.cluster (c / 8)
  (cl.row o.smp.bfmt (o.rowAddr b i) cnt).el cl o.smp.sc e

/-- R184–R186: the operands of a scan. -/
def scanOperands (s : State) (c : Nat) (o : MxOp) : ScanIn :=
  let k := s.core c
  let m := o.f.m.toNat + 1
  let n := o.f.kb.toNat + 1
  let val := fun (b : Bool) (cnt i e : Nat) =>
    let x := operandEl s c o b cnt i e
    if x.fill then none else some x.val
  let lam := fun (t : Nat) => if o.f.low = 0xFF0 then 0 else vlane (k.vec (64 * o.vbase + o.f.low.toNat)) t
  { l := m, n := n, p := o.f.n.toNat + 1,
    lam := (List.range m).map (fun t => clampLam (o.ssm.getLsbD 8) (lam t)),
    x := val false (o.f.n.toNat + 1), b := val true (2 * n), c := fun t i => val true (2 * n) t (n + i),
    h0 := fun i p => if o.f.t then 0 else (k.tile o.f.acc.toNat).at i p }

/-- R168, R171, R174–R178, R180, R181, R184–R190, R198: what the MX operations that write tiles, MDRAIN apart, leave in them.
An INT32 tile's values are integers; a floating-point product, scan and reduction is summed in the order of its rule. -/
def mxTiles (s : State) (c : Nat) (o : MxOp) : Option (List TileRule) :=
  let k := s.core c
  let f := o.f
  let m := f.m.toNat + 1
  let n := f.n.toNat + 1
  let kk := 32 * (f.kb.toNat + 1)
  let d := f.acc.toNat
  let dst := k.tile d
  let src := k.tile f.xa.toNat
  let num := fun (w : Nat) => (BitVec.ofNat 32 w).toInt
  let fmt := (Sfmt.ofCode f.xb.toNat).getD .fp32
  let fmtOf := fun (b : Bool) (i : Nat) => bankFmt o.smp.bfmt (bankOf (o.rowAddr b i))
  let ints := fun (b : Bool) (rows : Nat) =>
    (List.range rows).all (fun i => ((fmtOf b i).1 == .int8 || (fmtOf b i).1 == .ui8) && !(fmtOf b i).2)
  let el := operandEl s c o
  let vec := fun (i e : Nat) => El.plain fmt (vecElem fmt (k.vec (64 * o.vbase + f.low.toNat + i)) e)
  let region := fun (rows cols : Nat) (int : Bool) (v : Nat → Nat → Nat × Bool) => some [(⟨d, rows, cols, int, v⟩ : TileRule)]
  let product := fun (b : Nat → Nat → El) (rate : Nat) (ib : Bool) =>
    let int := ib && ints false m
    region m n int (fun i j =>
      dotElem f o.cpat (subBlock (o.minRate false m rate)) int (el false kk i) (fun e => b e j) (dst.at i j))
  let plain := fun (v : Nat → Nat → Nat) (i j : Nat) => (v i j, false)
  let scan :=
    let q := scanOperands s c o
    let chunked := scanIsChunked o.kind m o.ssm
    let y := fun (t p : Nat) => if chunked then chunkY q t p else scanY q t p
    let h := fun (i p : Nat) => if chunked then chunkH q i p else scanH q m i p
    some [⟨d, f.kb.toNat + 1, n, false, plain (fun i p => canon32 (h i p))⟩,
      ⟨d + 1, m, n, false, plain (fun t p =>
        canon32 (if f.mode = 1 then fAdd fp32 .rne ((k.tile (d + 1)).at t p) (y t p) else y t p))⟩]
  match o.kind with
  | .mma =>
    if f.bs then
      product (fun e j => El.plain .bf16 (if f.t then tileBf16 (k.tile f.xb.toNat) j e else tileBf16 (k.tile f.xb.toNat) e j))
        4 false
    else if f.t then product (fun e j => el true kk j e) (o.minRate true n 16) (ints true n)
    else product (fun e j => el true n e j) (o.minRate true kk 16) (ints true kk)
  | .mmab => product vec (rate4 fmt) (fmt == .int8 || fmt == .ui8)
  | .mzero =>
    region m n (decide (2 ≤ f.low.toNat % 4)) (plain (fun _ _ =>
      match f.low.toNat % 4 with
      | 0 => 0
      | 1 => 0xFF800000
      | 2 => 0
      | _ => 0x80000000))
  | .mload =>
    if f.bs then region m n fmt.isInt (plain (fun i j => loadElem (vec i j)))
    else region m n ((fmtOf false 0).1.isInt && !(fmtOf false 0).2) (plain (fun i j => loadElem (el false n i j)))
  | .madd =>
    region m n dst.int (fun i j =>
      let x := dst.at i j
      let y := src.at i j
      if dst.int then satInt (if f.mode = 2 then num x - num y else num x + num y)
      else (if f.mode = 2 then fSub fp32 .rne x y else fAdd fp32 .rne x y, false))
  | .mscl =>
    let w := decodeFf bf16 (Tab.get o.smp.sc f.xa.toNat 0).toNat
    region m n dst.int (fun i j =>
      if dst.int then satFv (Fv.mul (.ofInt (num (dst.at i j))) w)
      else (fMul fp32 .rne (dst.at i j) (encodeFf fp32 .rne w), false))
  | .mtrn => region n m src.int (plain (fun j i => src.at i j))
  | .mgate =>
    region m n dst.int (fun i j =>
      let y := src.at i (if f.low = 1 then 0 else j)
      if dst.int then satInt (num (dst.at i j) * num y) else (fMul fp32 .rne (dst.at i j) y, false))
  | .mcopy => region m n src.int (plain src.at)
  | .mred =>
    let acc := f.low.getLsbD 2
    let op := f.low.toNat % 4
    region m 1 src.int (fun i _ =>
      let xs := (List.range n).map (fun j => num (src.at i j))
      let old := num (dst.at i 0)
      if src.int then
        if op = 0 then
          let a := satInt xs.sum
          let b := satInt (old + num a.1)
          if acc then (b.1, a.2 || b.2) else a
        else
          let z := if op = 1 then xs.foldl max (if acc then old else -2 ^ 31)
            else xs.foldl min (if acc then old else 2 ^ 31 - 1)
          ((BitVec.ofInt 32 z).toNat, false)
      else redRow src op acc n i (dst.at i 0))
  | .cvProbe =>
    region 1 m false (plain (fun _ j =>
      let gain := bsum ((List.range kk).map (fun e =>
        let x := el false kk j e
        if x.fill then none else some (covTerm x.cov (k.covAt (o.xb + e)))))
      if f.mode = 1 then fAdd fp32 .rne (dst.at 0 j) gain else gain))
  | .mscan | .mscanf | .mscanr => scan
  | _ => none

/-- R163, R164: an operation of a core that may complete: its occupancy and its depth have passed, and on the array pipe no
operation issued before it is left. -/
def mxFinished (s : State) (c i : Nat) (o : MxOp) : Prop :=
  (s.core c).mxs[i]? = some o ∧ o.started = true ∧ o.occ = 0 ∧ o.deep = 0 ∧
    (o.kind.onArray = true → ∀ j p, j < i → (s.core c).mxs[j]? = some p → p.kind.onArray = false)

/-- R163: the operation that a pipe of a core is to start: the first that has not started, its cycle of issue over, when no
operation holds the pipe. -/
def mxToStart (s : State) (c i : Nat) (array : Bool) (o : MxOp) : Prop :=
  (∀ p ∈ (s.core c).mxs, p.kind.onArray = array → p.started = true → p.occ = 0) ∧ (s.core c).mxs[i]? = some o ∧
    o.kind.onArray = array ∧ o.started = false ∧ o.occ = 0 ∧
    ∀ j p, j < i → (s.core c).mxs[j]? = some p → p.kind.onArray = array → p.started = true

/-- R163, R423: an operation that has started: what it has read of the cover store apart, only its occupancy and depth are
new, the array pipe's occupancy lengthened by the die's throttle level. -/
def mxBegun (s : State) (c : Nat) (array : Bool) (o o' : MxOp) : Prop :=
  { o' with got := [] } =
    { o with
      started := true, deep := o.cost.2, got := []
      occ := if array then (o.cost.1 * (8 + (s.die (c / 32)).tl) + 7) / 8 else o.cost.1 }

/-- What an MX operation at a place leaves alone as it completes: all but its own place, the tiles and the results not yet
landed of its core, among which what GETS is to see of a tile. -/
def mxFrame (s t : State) (c i : Nat) : Prop :=
  (t.core c).mxs = (s.core c).mxs.eraseIdx i ∧
    { t.core c with mxs := [], tiles := [], pend := [] } = { s.core c with mxs := [], tiles := [], pend := [] } ∧
    (∀ e, e ≠ c → t.core e = s.core e) ∧ t.clusters = s.clusters ∧ t.dies = s.dies ∧ t.procs = s.procs ∧
    t.launches = s.launches ∧ t.notices = s.notices

/-! ### Bundles -/

/-- R62, R204: a core's running context may issue its next bundle now. -/
def bundleDue (s : State) (c x : Nat) : Prop :=
  (s.core c).running = some x ∧ (s.core c).busy = 0 ∧ (s.core c).ending = false ∧ (s.ctx c x).st = .ready ∧
    s.rolling (s.ctx c x) = false ∧ (s.ctx c x).runOver (s.core c) = false ∧ (s.ctx c x).quietOver = false

/-- R78, R126: the bundle at a context's pc, with the address after it: the one that the loop buffer holds, or else the one
that the code store holds. -/
def fetched (s : State) (c x pc next : Nat) (b : RawBundle) : Prop :=
  match (s.core c).buffered x (s.ctx c x) with
  | some q => q = (next, b) ∧ pc = (s.ctx c x).pc.toNat
  | none => s.fetch c x = .got pc next b

/-- The state with a slot of a bundle in focus. -/
def atSlot (s : State) (c x pc next slot : Nat) : State :=
  { s with foc := { core := c, ctx := x, slot := slot, pc := pc, next := next, imm := none } }

/-- R125: the ends of the loop bodies that a bundle closes, unless its instruction branches. -/
def bodiesEnd (pre : State) (i : Instr) (next : Nat) (t : State) : State :=
  if slotOf i = some .ct ∧ redirects pre (some i) = true then t else t.modCur (fun y => y.endBodies next 6)

/-! ### Instructions of a slot, and their guards -/

/-- Whether a vector or a D instruction stands in a slot: VX and VY hold the same instructions, and so do DA and DB. -/
def standsIn (i : Instr) (sl : Slot) : Bool :=
  match slotOf i, sl with
  | some .vx, .vy => true
  | some .da, .db => true
  | some x, y => x == y
  | none, _ => false

/-! ### Events -/

/-- R16: of two ready contexts of a core, the one that the scheduler takes first: a marked one; then, of two that are not
marked, the one of higher priority; then the longer since its last run; then the lower number. -/
def goesFirst (s : State) (a b : Nat × Ctx) : Prop :=
  let pri := fun (y : Ctx) =>
    match s.launchOf y with
    | some l => recPri l.bytes
    | none => 0
  (a.2.marked = true ∧ b.2.marked = false) ∨
    (a.2.marked = b.2.marked ∧
      ((a.2.marked = false ∧ pri b.2 < pri a.2) ∨
        ((a.2.marked = true ∨ pri a.2 = pri b.2) ∧
          (a.2.lastRun < b.2.lastRun ∨ (a.2.lastRun = b.2.lastRun ∧ a.1 < b.1)))))

/-- No error stands in any word, beyond correction or not (R421). -/
def intact (s : State) : Prop := s.damaged = [] ∧ s.weak = []

/-- An engine operation at a place of a core's list that may make its accesses, of a context with no fault untaken; no
error stands in any word, and no replay queue holds an access. -/
def engineAt (s : State) (c i : Nat) (o : DOp) : Prop :=
  (s.core c).dops[i]? = some o ∧ o.ready = true ∧ (s.ctx c o.ctx).untaken = [] ∧ intact s ∧ s.replays = []

/-- R75, R120, R210: t is a state of s in which the operation at place i has completed without a fault: it has left the
operations in flight, of which those of its context no longer wait for it; its token, if it still names it, reads
complete; no fault is untaken. -/
def ends (s t : State) (c i : Nat) (o : DOp) : Prop :=
  (t.core c).dops = ((s.core c).dops.eraseIdx i).map (fun q => if q.ctx = o.ctx then q.release o.id none else q) ∧
    (t.ctx c o.ctx).tk =
      (if o.tkp ≠ 0 ∧ Tab.find (s.ctx c o.ctx).tk o.tkp = some (.pending o.id) then Tab.erase (s.ctx c o.ctx).tk o.tkp
       else (s.ctx c o.ctx).tk) ∧
    (t.ctx c o.ctx).untaken = []

/-- R75, R120, R405: t is a state of s in which the operation at place i has made its accesses without a fault: it has
completed, or, where one of them is remote, the last ones or those before them, it stays in flight and awaits their
acknowledgement, its token pending. -/
def completes (s t : State) (c i : Nat) (o : DOp) (far : Bool) : Prop :=
  if o.remote || far then
    (∃ q, (t.core c).dops = (s.core c).dops.set i q ∧
        { q with kind := o.kind, line := o.line } = { o with performed := true, remote := true }) ∧
      (t.ctx c o.ctx).tk = (s.ctx c o.ctx).tk ∧ (t.ctx c o.ctx).untaken = []
  else ends s t c i o

/-- R120, R210: t is a state of s in which the operation at place i has completed with a fault of its own, which is untaken
and poisons its token. -/
def failsWith (s t : State) (c i : Nat) (o : DOp) (r : FaultRec) : Prop :=
  (t.core c).dops.length + 1 = (s.core c).dops.length ∧
    (t.ctx c o.ctx).untaken = (s.ctx c o.ctx).untaken ++ [o.fault r] ∧
    (o.tkp ≠ 0 → Tab.find (s.ctx c o.ctx).tk o.tkp = some (.pending o.id) →
      Tab.find (t.ctx c o.ctx).tk o.tkp = some (.poisoned o.id)) ∧ (s.core c).dops[i]? = some o

/-- R281: what an atomic operation leaves in a cell of n bytes that holds c, from the values v and w of its operands, and
the number that it returns. -/
def cellStep (op : Nat) (sgn : Bool) (n c v w : Nat) : Nat × Int :=
  let low := fun (x : Nat) => x % 2 ^ (8 * n)
  let num := fun (x : Nat) => if sgn then (BitVec.ofNat (8 * n) x).toInt else (x : Int)
  (match op with
   | 0x13 => low (c + v)
   | 0x14 => if num c < num (low v) then low v else c
   | 0x15 => c ||| low v
   | 0x16 => if c = low v then low w else c
   | 0x18 => c
   | _ => low v, num c)

/-- R281: a region's bytes after an atomic operation on n bytes from an offset. -/
def cellAfter (old new : Memory) (op : Nat) (sgn : Bool) (off n : Nat) (v w : Word) : Prop :=
  Memory.readNat new off n = (cellStep op sgn n (Memory.readNat old off n) v.toNat w.toNat).1 ∧
    ∀ a, a < off ∨ off + n ≤ a → Memory.read new a = Memory.read old a

/-- R281, R406: what is returned to a host or another device: nothing by a store, else the old value in 8 bytes. -/
def cellReply (old : Memory) (op : Nat) (sgn : Bool) (off n : Nat) (v w : Word) : List Byte :=
  if op = 0x19 then []
  else leBytes (BitVec.ofInt 64 (cellStep op sgn n (Memory.readNat old off n) v.toNat w.toNat).2).toNat 8

/-- An operation of the patch engine whose turn has come (R256). -/
def patchAt (s : State) (c i : Nat) (o : DOp) (op : PatchOp) (status : Nat) : Prop :=
  engineAt s c i o ∧ o.kind = .patch op status ∧ o.bound = 0 ∧ patchBlocked (s.core c) i o = false ∧
    ∀ p scope after, op = .seal p scope after → ∀ j ∈ after, (s.core c).unseen scope j = false

/-- R409: the record of a code that the firmware serves next: the next record of a host, in a ring of which no lower host's
next record has that code; the ports are up and the device has not failed. -/
def mailNext (s : State) (code : Nat) (r : Req) : Prop :=
  s.portsUp 0 = true ∧ s.failed = false ∧ r.host < 64 ∧ s.mail r.host = some r ∧ r.code = code ∧
    ∀ h, h < r.host → ∀ q, s.mail h = some q → q.code ≠ code

/-- R409: t is a state of s in which a record has been answered: its STATUS and RESULT are written, and HEAD has risen. -/
def mailAnswered (s t : State) (r : Req) (status result : Nat) : Prop :=
  Memory.readNat (t.handle 0 1).data (s.mailAt r.host + 4) 4 = status ∧
    Memory.readNat (t.handle 0 1).data (s.mailAt r.host + 0x38) 8 = result ∧
    t.mailHead r.host = (s.mailHead r.host + 1) % 2 ^ 64

/-! ### The invariant -/

/-- The memories in the canonical form: the scratchpad of every cluster, and every region of every process. -/
def memoriesOk (s : State) : Prop :=
  (∀ e ∈ s.clusters, Memory.wf e.2.spl = true) ∧
    (∀ p ∈ s.procs, ∀ h ∈ p.2.handles, Memory.wf h.2.data = true)

end Sys2Proof.Machine
end

