-- ==== Sys2Proof/Certificates/Slice0/Obligations.lean ====
section
/-! DEFINITION. The statements for the provers: encodings, steps, results and frames of every family, faults, units and
the invariant. -/

set_option Elab.async false

open Sys2Proof Sys2Proof.Machine

/-! ### Encodings -/

/-- R58, R67–R76, R85: decoding the encoding of a well-formed instruction gives it back, in the slot it stands in; a
vector or a D operation decodes alike in its second slot. No bit of an encoding is dropped. -/
def Obligations.DecodeOfEncode : Prop :=
  ∀ (i : Instr) (sl : Slot), standsIn i sl = true → wellFormed i = true → decodeSlot sl (encodeBits i) = .ok i

/-- R85, R93: what a slot decodes to is well formed, stands in that slot, and encodes to the slot's very bits: a
reserved bit that is set is refused. -/
def Obligations.EncodeOfDecode : Prop :=
  ∀ (sl : Slot) (w : Nat) (i : Instr), w < 2 ^ slotBits sl → decodeSlot sl w = .ok i →
    wellFormed i = true ∧ standsIn i sl = true ∧ encodeBits i = w

/-- R67, R69, R74, R75 and the encodings that the spec writes out (R45, R132, R154, R172, R191, R205, R214, R220–R223,
R226, R236, R285, R287, R308, R309, R311, R324, R325, R335, R343, R344): these words decode to the instructions they
stand for. R93: the opcodes that no operation has are refused as illegal opcodes, whatever the bits below them. -/
def Obligations.DecodedWords : Prop :=
  (let mf : MF := ⟨0, 0, 0, 0, 0, 0, 0, 0, 0, false, false, 0⟩
   decodeSlot .sc 0x0001410C = .ok (.add 0#5 5#6 1#6 3#6) ∧
     decodeSlot .vx 0x2610001401801C = .ok (.vmaxidx ⟨false, 1, 0, 0, 5, 6, 7, 0⟩) ∧
     decodeSlot .mx 0x400600003FFF0000 = .ok (.sigFold { mf with acc := 3, m := 127, n := 127 }) ∧
     decodeSlot .mx 0x480A000000000014 = .ok (.sigGet { mf with acc := 5, low := 20 }) ∧
     decodeSlot .da 0x0004200C9AA12000 = .ok (.cpy ⟨0, 2, 1, 0, 0⟩ ⟨3, 1, 3, 5, 4, 9, 0⟩) ∧
     decodeSlot .da 0x2000000018000000 = .ok (.patchSeal ⟨0, 0, 0, 0, 0⟩ ⟨0, 3⟩) ∧
     decodeSlot .da 0x4C020001062002BE = .ok (.syncAdd ⟨0, 1, 0, 0, 0⟩ ⟨2, 3, 4, 0, 5, 3, 3, true, false⟩) ∧
     decodeSlot .da 0x700A000241C00000 = .ok (.send ⟨0, 5, 0, 0, 0⟩ ⟨false, 2, 4, 7⟩) ∧
     decodeSlot .da 0x7C06000058300000 = .ok (.lnch ⟨0, 3, 0, 0, 0⟩ ⟨44, 6⟩) ∧
     decodeSlot .ct 0x3800000000000000 = .ok (.nxt 0#5) ∧ decodeSlot .ct 0x481A000000000000 = .ok (.fence 0#5 3#3 1#2) ∧
     decodeSlot .ct 0x5000000000000000 = .ok (.vjoin 0#5) ∧ decodeSlot .ct 0x5809800000000000 = .ok (.bar 0#5 1#3 3#4 0#2) ∧
     decodeSlot .ct 0x600C000000000000 = .ok (.estAdd 0#5 12#6 false) ∧ decodeSlot .ct 0x680001C000000000 = .ok (.trap 0#5 7#16) ∧
     decodeSlot .cf 0x03803E80 = .ok (.sclSetImm 3#4 0x3E80#16) ∧ decodeSlot .cf 0x03120000 = .ok (.sclSetReg 3#4 9#6) ∧
     decodeSlot .cf 0x10280000 = .ok (.sclLdv 40#12) ∧ decodeSlot .cf 0x25AA0000 = .ok (.bfmt 22#6 true 5#4) ∧
     decodeSlot .cf 0x3328B000 = .ok (.shape 3#4 10#6 11#6) ∧ decodeSlot .cf 0x53300080 = .ok (.xstepImm 3#4 1#3 128#20) ∧
     decodeSlot .cf 0x61000000 = .ok (.cpat 4#6) ∧ decodeSlot .cf 0x78000FA0 = .ok (.qbndImm 4000#24) ∧
     decodeSlot .cf 0x82000000 = .ok (.rmodeImm 1#3) ∧ decodeSlot .cf 0x81240000 = .ok (.rmodeReg 9#6) ∧
     decodeSlot .cf 0x98000003 = .ok (.ssmCfgImm 3#9) ∧ decodeSlot .cf 0xA9800000 = .ok (.sigSet true 12#6) ∧
     decodeSlot .cf 0xB000A000 = .ok (.tkclr 5#15)) ∧
  ((∀ w : BitVec 32, 0x28 ≤ (w.extractLsb' 25 7).toNat → decodeSlot .sc w.toNat = .error .illegalOpcode) ∧
     (∀ w : BitVec 56, 0x36 ≤ (w.extractLsb' 48 8).toNat → decodeSlot .vx w.toNat = .error .illegalOpcode) ∧
     (∀ w : BitVec 64, 0x16 ≤ (w.extractLsb' 58 6).toNat → decodeSlot .mx w.toNat = .error .illegalOpcode) ∧
     (∀ w : BitVec 64, 0x20 ≤ (w.extractLsb' 58 6).toNat → decodeSlot .da w.toNat = .error .illegalOpcode) ∧
     (∀ w : BitVec 64, 0x10 ≤ (w.extractLsb' 59 5).toNat → decodeSlot .ct w.toNat = .error .illegalOpcode) ∧
     (∀ w : BitVec 32, 0xC ≤ (w.extractLsb' 28 4).toNat → decodeSlot .cf w.toNat = .error .illegalOpcode))

/-! ### Steps -/

/-- The model's order of moves (assumption log 3): a step carries out the event at the head of the agenda; with an
empty agenda, the first event of a round, whose other events become the agenda; with an empty round, nothing. R23,
R209, R407: no step of the machine stops: every state has a next state. -/
def Obligations.StepRunsAgenda : Prop :=
  ((∀ (s : State) (i : Instr) (rest : List Instr), s.agenda = i :: rest → step s = exec i { s with agenda := rest }) ∧
     (∀ (s : State) (i : Instr) (rest : List Instr), s.agenda = [] → s.round = i :: rest →
       step s = exec i { s with agenda := rest }) ∧
     (∀ s : State, s.agenda = [] → s.round = [] → step s = .next s)) ∧
  (∀ s : State, safeStep s)

/-- R62, R78, R83, R84, R125, R126: a core whose running context is due issues the bundle at its pc, from the loop
buffer or from the code store. When the bundle's only slot decodes to an instruction, the step is what exec makes of
that instruction on the state in which the slot is in focus: its update, made after the pc has moved past the bundle,
then the ends of loop bodies (unless the slot branches), the loop buffer's capture and what the header asks; or its
fault, or its stall, with the bundle not issued. IMX is refused alone (R68). -/
def Obligations.StepIssuesLoneSlot : Prop :=
  ∀ (s : State) (c x pc next w : Nat) (h : BitVec 16) (sl : Slot) (i : Instr) (rest : List Instr),
    s.agenda = .bundleIssue c :: rest → bundleDue { s with agenda := rest } c x →
    let s1 := ({ s with agenda := rest } : State).landSteps c x
    let u := atSlot s1 c x pc next (slotBit sl)
    let raw : RawBundle := { hdr := h, slots := [(sl, w)], pad := 0 }
    fetched s1 c x pc next raw → intact s1 → u.cur.untaken = [] →
    u.cur.stepMark = false → decodeSlot sl w = .ok i → (∀ imm, i ≠ .imx imm) →
    match runSlot i u with
    | .ok g =>
      exec i u = .next (g u) ∧
        step s = .next (((bodiesEnd u i next
          (atSlot (g (u.modCur (fun y => { y with pc := BitVec.ofNat 48 next }))) c x pc next 0)).capture u.cur raw).afterIssue h
            u.cur.qb)
    | .early r | .trap r | .late r =>
      exec i u = .next (u.takePrecise r) ∧ step s = .next ((atSlot s1 c x pc next 0).takePrecise r)
    | .stall => exec i u = .next u ∧ step s = .next (atSlot s1 c x pc next 0)
    | .hold g => exec i u = .next (g u) ∧ step s = .next (g (atSlot s1 c x pc next 0))

/-- R84: the meaning of a slot's instruction alone: its result is committed; a WAIT or a HALT with a true guard takes
an untaken fault first (R210). -/
def Obligations.ExecCommitsSlot : Prop :=
  ∀ (i : Instr) (s : State), (slotOf i).isSome = true →
    (∀ g k o a, i = .wait g k o → s.cur.guard g = true → waitFault s.cur k.toNat o.toNat = some a →
      exec i s = .next (s.takeAsync s.foc.core s.foc.ctx a true s.foc.pc)) ∧
    (∀ g a, i = .halt g → s.cur.guard g = true → firstUntaken s.cur.untaken = some a →
      exec i s = .next (s.takeAsync s.foc.core s.foc.ctx a false s.foc.pc)) ∧
    (s.cur.untaken = [] → exec i s = commit (runSlot i s) s)

/-- R83, for one pair of slots: in a bundle of an ADD into s[d] in the SC slot and an XSET of an address register from s[d]
in the CF slot, the XSET takes the old value of s[d], and the ADD's sum is there for the next bundle. -/
def Obligations.AddBesideXset : Prop :=
  ∀ (s : State) (c x pc next w1 w2 : Nat) (h : BitVec 16) (g : BitVec 5) (d a b : BitVec 6) (n : BitVec 4),
    bundleDue s c x → (s.ctx c x).nxt = [] → intact s →
    fetched s c x pc next { hdr := h, slots := [(.sc, w1), (.cf, w2)], pad := 0 } →
    (s.ctx c x).untaken = [] → (s.ctx c x).stepMark = false → (s.ctx c x).guard g = true →
    decodeSlot .sc w1 = .ok (.add g d a b) → decodeSlot .cf w2 = .ok (.xset n d) → d ≠ 0 →
    ∃ t, exec (.bundleIssue c) s = .next t ∧
      (t.ctx c x).rd d.toNat = (s.ctx c x).rd a.toNat + (s.ctx c x).rd b.toNat ∧
      ((t.ctx c x).xreg n.toNat).base = (s.ctx c x).rd d.toNat

/-! ### The SC slot -/

/-- R107–R110, R112, R113: with a true guard an integer operation answers the state in which its result, computed over
the integers and the naturals, goes to s[d] within its bound (R81). R114, R116: with a true guard a floating-point
operation or a conversion answers the state in which its result goes to s[d] within its bound (R81). -/
def Obligations.ScalarResults : Prop :=
  (∀ (s : State) (i : Instr) (r : ScalarRule), integerRule s i = some r → s.cur.guard r.guard = true →
     exec i s = .next (s.landS r.dest r.value r.bound)) ∧
  (∀ (s : State) (i : Instr) (r : ScalarRule), floatRule s i = some r → s.cur.guard r.guard = true →
     exec i s = .next (s.landS r.dest r.value r.bound))

/-- R109: the words of DIV, DIVU, REM and REMU (SC-R, opcodes 0x06 to 0x09, modifier 0b00), their quotients and
remainders over the integers, and their boundary cases; none of them faults. -/
def Obligations.Division : Prop :=
  ∀ (g : BitVec 5) (d a b : BitVec 6),
    (decodeSlot .sc (scR 0x06#7 g d a b 0#2).toNat = .ok (.div g d a b) ∧
      decodeSlot .sc (scR 0x07#7 g d a b 0#2).toNat = .ok (.divu g d a b) ∧
      decodeSlot .sc (scR 0x08#7 g d a b 0#2).toNat = .ok (.rem g d a b) ∧
      decodeSlot .sc (scR 0x09#7 g d a b 0#2).toNat = .ok (.remu g d a b)) ∧
    (∀ op md, op = 0x06#7 ∨ op = 0x07#7 ∨ op = 0x08#7 ∨ op = 0x09#7 → md ≠ 0#2 →
      decodeSlot .sc (scR op g d a b md).toNat = .error .illegalField) ∧
    ∀ s : State, s.cur.guard g = true →
      let x := s.cur.rd a.toNat
      let y := s.cur.rd b.toNat
      ∃ q qu r ru : Word,
        exec (.div g d a b) s = .next (s.landS d.toNat q 20) ∧ exec (.divu g d a b) s = .next (s.landS d.toNat qu 20) ∧
        exec (.rem g d a b) s = .next (s.landS d.toNat r 20) ∧ exec (.remu g d a b) s = .next (s.landS d.toNat ru 20) ∧
        (y = 0 → q = BitVec.ofInt 64 (-1) ∧ qu = 0xFFFFFFFFFFFFFFFF ∧ r = x ∧ ru = x) ∧
        (x.toInt = -2 ^ 63 → y.toInt = -1 → q.toInt = -2 ^ 63 ∧ r = 0) ∧
        (y ≠ 0 → ¬ (x.toInt = -2 ^ 63 ∧ y.toInt = -1) →
          x.toInt = q.toInt * y.toInt + r.toInt ∧ |r.toInt| < |y.toInt| ∧ (r.toInt ≠ 0 → (r.toInt < 0 ↔ x.toInt < 0))) ∧
        (y ≠ 0 → x.toNat = qu.toNat * y.toNat + ru.toNat ∧ ru.toNat < y.toNat)

/-- R112: the words of SEL and SEL.neg (SC-R, 0x18, modifiers 0b00 and 0b01), the modifiers that are refused, the
choice by the old value of s[d], and the case d = 0, in which nothing changes. -/
def Obligations.Select : Prop :=
  ∀ (g : BitVec 5) (d a b : BitVec 6),
    (decodeSlot .sc (scR 0x18#7 g d a b 0#2).toNat = .ok (.sel g false d a b) ∧
      decodeSlot .sc (scR 0x18#7 g d a b 1#2).toNat = .ok (.sel g true d a b) ∧
      decodeSlot .sc (scR 0x18#7 g d a b 2#2).toNat = .error .illegalField ∧
      decodeSlot .sc (scR 0x18#7 g d a b 3#2).toNat = .error .illegalField) ∧
    ∀ s : State, s.cur.guard g = true →
      let old := s.cur.rd d.toNat
      (∃ t, exec (.sel g false d a b) s = .next t ∧
        (d ≠ 0 → t.cur.rd d.toNat = if old ≠ 0 then s.cur.rd a.toNat else s.cur.rd b.toNat) ∧ (d = 0 → old = 0 ∧ t = s)) ∧
      (∃ t, exec (.sel g true d a b) s = .next t ∧
        (d ≠ 0 → t.cur.rd d.toNat = if old.toInt < 0 then s.cur.rd a.toNat else s.cur.rd b.toNat) ∧ (d = 0 → old = 0 ∧ t = s))

/-- R66, R103, R111, R113, R115: CMP, CMPI, PLOG and FCMP write q1 to q13 for the next bundle and nothing else; q0,
q14 and q15 are refused as destinations, whatever the guard. -/
def Obligations.PredicateResults : Prop :=
  ∀ (s : State) (i : Instr) (g : BitVec 5) (q : Nat) (v : Bool), predicateRule s i = some (g, q, v) →
    (1 ≤ q → q ≤ 13 → s.cur.guard g = true →
      exec i s = .next (s.modCur (fun x => x.setPred q v)) ∧ (s.cur.setPred q v).pred q = v ∧
      ∀ j, j < 16 → j ≠ q → (s.cur.setPred q v).pred j = s.cur.pred j) ∧
    (q = 0 ∨ 14 ≤ q → exec i s = .next (s.takePrecise (faultRec fcRegister (some s.foc.slot))))

/-- R80–R82, R101: where a result of an SC operation goes. A result of bound 1 is read by the next bundle; a later one
waits, with its bound, and leaves every register as it is; what is meant for s0 is discarded. R80, R82, R332:
RESULT_LANDING writes a pending scalar result before its bound; a core's cycle, once nothing is due before it, brings
the bounds one nearer, and a lone result whose bound ends with the cycle lands in it. R355: so it does the bound that a
release of the context awaits, which a store by SST notes, and its landing before that bound does not shorten. -/
def Obligations.ResultsLand : Prop :=
  ((∀ (s : State) (v : Word) (n : Nat), s.landS 0 v n = s) ∧
     (∀ (s : State) (d : Nat) (v : Word), d ≠ 0 → (s.landS d v 1).cur.rd d = v ∧
       ∀ r, r ≠ d → (s.landS d v 1).cur.rd r = s.cur.rd r) ∧
     ∀ (s : State) (d : Nat) (v : Word) (n : Nat), d ≠ 0 → 2 ≤ n →
       (s.landS d v n).cur = s.cur ∧
       ((s.landS d v n).core s.foc.core).pend = (s.core s.foc.core).pend ++ [⟨s.foc.ctx, .sreg d v, n⟩]) ∧
  (∀ (s : State) (c x d : Nat) (v : Word), d ≠ 0 →
     (∀ i p parts, (s.core c).pend[i]? = some p → p.ctx = x → p.land = .sreg d v →
       ∃ t, exec (.resultLanding c i parts) s = .next t ∧ (t.ctx c x).rd d = v ∧
         (∀ y r, (y, r) ≠ (x, d) → (t.ctx c y).rd r = (s.ctx c y).rd r) ∧ (t.core c).pend.length < (s.core c).pend.length) ∧
     ((s.core c).pend = [⟨x, .sreg d v, 1⟩] → 4 ≤ s.step → s.tripped = false → s.cycleHeld c = false →
       ∃ t, exec (.coreCycle c) s = .next t ∧ (t.ctx c x).rd d = v ∧ (t.core c).pend = [] ∧
         (t.core c).cycle = (s.core c).cycle + 1) ∧
     (∀ n, (s.core c).pend = [⟨x, .sreg d v, n + 2⟩] → 4 ≤ s.step → s.tripped = false → s.cycleHeld c = false →
       ∃ t, exec (.coreCycle c) s = .next t ∧ (∀ y r, (t.ctx c y).rd r = (s.ctx c y).rd r) ∧
         (t.core c).pend = [⟨x, .sreg d v, n + 1⟩] ∧ (t.core c).cycle = (s.core c).cycle + 1 ∧
         (t.ctx c x).stores = (s.ctx c x).stores - 1) ∧
     (∀ i p parts a w, (s.core c).pend[i]? = some p → p.ctx = x → p.land = .mem a w →
       ∃ t, exec (.resultLanding c i parts) s = .next t ∧ (t.core c).pend.length < (s.core c).pend.length ∧
         (t.ctx c x).stores = (s.ctx c x).stores) ∧
     ∀ a w n, 2 ≤ n → ((s.land c x (.mem a w) n).ctx c x).stores = max (s.ctx c x).stores n)

/-- R4, R104–R106, R234: GETS of every register of the table, and of the registers that other state makes up: its value goes
to s[d] in 2 cycles; SIG and TSTAT read as the signature and the tile status that GETS may see by then, and XDONE of a channel
as the least identifier of an operation in flight there, or the next one. A number outside the table, or the TSTAT of a tile
not assigned, is refused whatever the guard. -/
def Obligations.GetsReads : Prop :=
  (∀ (s : State) (g : BitVec 5) (d : BitVec 6) (num : BitVec 8), sysNumOk (sysNum s num) = true →
    (isTstat (sysNum s num) = true → s.cur.hasTile (sysNum s num - 0x10) = true) → s.cur.guard g = true →
    exec (.gets g d num) s = .next (s.landS d.toNat (sysRead s (sysNum s num)) 2)) ∧
  (∀ (s : State) (g : BitVec 5) (d : BitVec 6) (num : BitVec 8), sysNumOk (sysNum s num) = false →
    exec (.gets g d num) s = .next (s.takePrecise (faultRec fcField (some s.foc.slot)))) ∧
  (∀ (s : State) (g : BitVec 5) (d : BitVec 6) (num : BitVec 8), isTstat (sysNum s num) = true →
    s.cur.hasTile (sysNum s num - 0x10) = false →
    exec (.gets g d num) s = .next (s.takePrecise (faultRec fcRegister (some s.foc.slot)))) ∧
  ∀ s : State,
    (∀ i, i < 64 → (sysRead s 0x07).getLsbD i = (decide (i < 16) && s.cur.pred i)) ∧
    (∀ i, i < 64 → (sysRead s 0x08).getLsbD i = (decide (i < 6) && (s.cur.loop i).active)) ∧
    (s.foc.ctx < 8 → s.foc.core < 128 → s.node < 1024 →
      (sysRead s 0x0A).toNat = s.foc.ctx + 8 * s.foc.core + 2 ^ 10 * (s.foc.core / 8) + 2 ^ 14 * (s.foc.core / 32) +
        2 ^ 16 * s.node) ∧
    (∀ n, n < 6 → sysRead s (0x20 + n) = (s.cur.loop n).lc.setWidth 64 ∧ sysRead s (0x28 + n) = (s.cur.loop n).li.setWidth 64) ∧
    (∀ n, n < 8 → sysRead s (0x30 + n) = Tab.get s.cur.fr n 0) ∧
    (∀ n, n < 16 → sysRead s (0x40 + n) = BitVec.ofInt 64 (s.cur.xval n)) ∧
    sysRead s 0x00 = s.cur.rmode.setWidth 64 ∧ sysRead s 0x01 = s.cur.qb.setWidth 64 ∧
    sysRead s 0x02 = s.cur.rb.setWidth 64 ∧ sysRead s 0x03 = s.cur.ssm.setWidth 64 ∧ sysRead s 0x04 = s.cur.sigref ∧
    sysRead s 0x06 = s.cur.cpat.setWidth 64 ∧ sysRead s 0x09 = (s.core s.foc.core).cycle ∧
    sysRead s 0x0D = s.cur.vfs.setWidth 64 ∧ sysRead s 0x05 = s.cur.sigVis ∧
    (∀ n, n < 16 → sysRead s (0x10 + n) = (Tab.get (s.core s.foc.core).tvis n 0).setWidth 64) ∧
    ∀ b : Bool,
      let next := if b then s.cur.nextB else s.cur.nextA
      let v := (sysRead s (if b then 0x0C else 0x0B)).toNat
      let own := fun (o : DOp) => o ∈ (s.core s.foc.core).dops ∧ o.ctx = s.foc.ctx ∧ o.chanB = b
      next ≤ 2 ^ 48 → v ≤ next ∧ (∀ o id, own o → o.xfer = some id → v ≤ id) ∧ (v = next ∨ ∃ o, own o ∧ o.xfer = some v)

/-- R4, R104–R106, R123, R130: what SETS does to each register: the registers written in 2 cycles, PRED for the next
bundle, a loop count only in its body's first bundle, no effect on a read-only register or on QB raised, and a value
too wide or refused. That the first bundle of an iteration is known by its address is the model's reading of R130
(assumption log 36, DEDUCED). -/
def Obligations.SetsWrites : Prop :=
  ∀ (s : State) (g : BitVec 5) (a : BitVec 6) (num : BitVec 8), sysNumOk (sysNum s num) = true →
    (isTstat (sysNum s num) = true → s.cur.hasTile (sysNum s num - 0x10) = true) → s.cur.guard g = true →
    let n := sysNum s num
    let v := s.cur.rd a.toNat
    let lands := fun (l : Land) => exec (.sets g a num) s = .next (s.land s.foc.core s.foc.ctx l 2)
    let refused := exec (.sets g a num) s = .next (s.takePrecise (faultRec fcField (some s.foc.slot)))
    (n = 0x00 → v.toNat ≤ 3 → lands (.sys 0x00 v)) ∧ (n = 0x00 → 3 < v.toNat → refused) ∧
    (n = 0x01 → v.toNat ≤ s.cur.qb.toNat → lands (.sys 0x01 v)) ∧
    (n = 0x01 → s.cur.qb.toNat < v.toNat → v.toNat < 2 ^ 24 → exec (.sets g a num) s = .next s) ∧
    (n = 0x03 → ssmBad v = false → lands (.sys 0x03 v)) ∧ (n = 0x03 → ssmBad v = true → refused) ∧
    (n = 0x04 → lands (.sys 0x04 v)) ∧
    (n = 0x06 → v.toNat < 2 ^ 48 → cpatBad v = false → lands (.sys 0x06 v)) ∧ (n = 0x06 → cpatBad v = true → refused) ∧
    (n = 0x07 → v.toNat < 2 ^ 16 → ∃ t, exec (.sets g a num) s = .next t ∧
      (∀ q, 1 ≤ q → q ≤ 13 → t.cur.pred q = v.getLsbD q) ∧ t.cur.pred 0 = true) ∧
    (n = 0x0D → v.toNat < 2 ^ 3 → lands (.vfsClear (v.setWidth 3))) ∧
    (isLc n = true → ((s.cur.loop (n - 0x20)).active = true ∧ s.foc.pc = (s.cur.loop (n - 0x20)).first) →
      ∃ t, exec (.sets g a num) s = .next t ∧
        (t.cur.loop (n - 0x20)).lc.toNat = (if v.toInt < 0 then 0 else min v.toNat (2 ^ 32 - 1))) ∧
    (isLc n = true → ¬ ((s.cur.loop (n - 0x20)).active = true ∧ s.foc.pc = (s.cur.loop (n - 0x20)).first) → refused) ∧
    (isLc n = false → 2 ^ sysWidth n ≤ v.toNat → refused) ∧
    (isLc n = false → v.toNat < 2 ^ sysWidth n → n ∉ [0x00, 0x01, 0x03, 0x04, 0x06, 0x07, 0x0D] →
      exec (.sets g a num) s = .next s)

/-- R117, R217, R421: SLD and SST at an exact address in a bank, 8-byte aligned, with no word damaged: the 8 bytes go
to s[d] in 12 cycles, and an error that SECDED corrects in them counts under CE_SRAM; s[d] goes to the 8 bytes in 4.
R117, R209: SLD and SST with a true guard at any other address fault: address overflow below zero, at or above 2^25
and in a hole; misalignment at an address in a bank that 8 does not divide. -/
def Obligations.ScalarMemory : Prop :=
  (∀ (s : State) (g : BitVec 5) (d a : BitVec 6) (imm : BitVec 8) (ea : Nat), memoriesOk s → s.cur.guard g = true →
     (s.cur.rd a.toNat).toInt + (immOf s imm).toInt = ea → ea < 2 ^ 25 → ea % 2 ^ 19 < 393216 → ea % 8 = 0 →
     let spl := (s.cluster (s.foc.core / 8)).spl
     let lands := s.landS d.toNat (BitVec.ofNat 64 (Memory.readNat spl ea 8)) 12
     (intact s → exec (.sld g d a imm) s = .next lands) ∧
     (s.damaged = [] → exec (.sld g d a imm) s =
       .next (lands.correct (s.foc.core / 32) 0 (fun w => decide (w = .spl (s.foc.core / 8) (ea / 8))))) ∧
     exec (.sst g d a imm) s = .next (s.land s.foc.core s.foc.ctx (.mem ea (s.cur.rd d.toNat)) 4) ∧
     (∀ t, t = s.write s.foc.core s.foc.ctx (.mem ea (s.cur.rd d.toNat)) allParts →
       let spl' := (t.cluster (s.foc.core / 8)).spl
       (∀ k, k < 8 → Memory.read spl' (ea + k) = (s.cur.rd d.toNat).extractLsb' (8 * k) 8) ∧
       ∀ b, b < ea ∨ ea + 8 ≤ b → Memory.read spl' b = Memory.read spl b)) ∧
  (∀ (s : State) (g : BitVec 5) (d a : BitVec 6) (imm : BitVec 8), s.cur.guard g = true →
     let ea := (s.cur.rd a.toNat).toInt + (immOf s imm).toInt
     let faults := fun (code : Nat) =>
       let t := s.takePrecise { faultRec code (some s.foc.slot) with offset := low48 ea }
       exec (.sld g d a imm) s = .next t ∧ exec (.sst g d a imm) s = .next t
     (ea < 0 ∨ 2 ^ 25 ≤ ea ∨ 393216 ≤ ea % 2 ^ 19 → faults fcOverflow) ∧
     (0 ≤ ea → ea < 2 ^ 25 → ea % 2 ^ 19 < 393216 → ea % 8 ≠ 0 → faults fcMisaligned))

/-- R107: what an SC operation with destination s[d] leaves alone, whatever its guard: every other register and
context, every byte of memory, every unit, and the results of other destinations not yet landed. R64, R107: an SC
operation whose guard is false changes nothing; one that writes a predicate still refuses q0, q14 and q15, and GETS
and SETS their numbers (stated beside their effects). -/
def Obligations.ScalarFrame : Prop :=
  (∀ (s t : State) (i : Instr) (r : ScalarRule), integerRule s i = some r ∨ floatRule s i = some r →
     exec i s = .next t → scalarFrame s t r.dest) ∧
  (∀ (s : State),
     (∀ (i : Instr) (r : ScalarRule), integerRule s i = some r ∨ floatRule s i = some r → s.cur.guard r.guard = false →
       exec i s = .next s) ∧
     (∀ (i : Instr) (g : BitVec 5) (q : Nat) (v : Bool), predicateRule s i = some (g, q, v) → 1 ≤ q → q ≤ 13 →
       s.cur.guard g = false → exec i s = .next s) ∧
     ∀ (g : BitVec 5) (d a : BitVec 6) (imm : BitVec 8), s.cur.guard g = false →
       exec (.sld g d a imm) s = .next s ∧ exec (.sst g d a imm) s = .next s ∧
       (sysNumOk (sysNum s imm) = true → (isTstat (sysNum s imm) = true → s.cur.hasTile (sysNum s imm - 0x10) = true) →
         exec (.gets g d imm) s = .next s ∧ exec (.sets g a imm) s = .next s))

/-! ### The VX and VY slots -/

/-- R70–R72, R137, R141–R160: a vector operation whose sources may be read and whose destination lies in the partition answers
the state in which its result waits with its bound, under its mask, and the flues it read are popped; VFIN's status bits wait
beside it. VINS writes element x alone, in 6 cycles, and nothing from 128k on. That a scalar second source of VAND, VOR, VXOR
and VMOV fills each lane with the register's low 32 bits (assumption log 90), that VMAXIDX with an immediate takes the element
that it places under the slot's own type as the tie key (25), that VCLAMP keeps the NaN of D before A's and A's before B's (82),
and that VPACK writes the upper two bits of an LNS6 byte zero (24) are the model's readings (DEDUCED). -/
def Obligations.VectorResults : Prop :=
  (∀ (s : State) (i : Instr) (r : VectorRule), vectorRule s i = some r → readable s r.srcs → s.cur.vdst r.f.vd.toNat = true →
    ((∀ f, i ≠ .vfin f) → exec i s = .next (vecWrite r.f s r.value r.bound r.el (popAll s.cur r.srcs s))) ∧
    ∀ f, i = .vfin f →
      exec i s = .next ((vecWrite r.f s r.value r.bound r.el (popAll s.cur r.srcs s)).land s.foc.core s.foc.ctx
        (.vfs (vfinBits (vtOfCode f.ty) (s.cur.mask f.mask.toNat) (vecA s f))) 8)) ∧
  ∀ (s : State) (f : VF), s.cur.vdst f.vd.toNat = true →
    let t := vtOfCode f.ty
    let x := indexOf s f
    (128 * t.k ≤ x → exec (.vins f) s = .next s) ∧
    (x < 128 * t.k → exec (.vins f) s = .next (s.land s.foc.core s.foc.ctx
      (.vreg (s.cur.phys f.vd.toNat) (elemParts t.w x) (splat t.w ((s.cur.rd f.va.toNat).toNat % 2 ^ t.w)) t.w) 6))

/-- R69, R139: element e of an element-wise result is the operation on elements e of its operands, in w bits. R37,
R141, R142: integer elements: sums, differences and products wrap to w bits, or saturate under S to the type's range;
a shift by w or more leaves zeros, or copies of the sign for a signed right shift. R147, R156, R158: the lanes that
the moving operations give: within each group of 16 lanes for VPERM, VBCAST and VSLIDE; the number of ones below a
lane for VIOTA; element x for VEXT, 0 from 128k on; and the one element whose parts VINS lands. -/
def Obligations.VectorElements : Prop :=
  (∀ (t : VT) (op : Nat → Nat → Nat → Nat) (a b d : Vec) (e : Nat), e < 4096 / t.w →
     velem (elementwise t op a b d) t.w e = op (velem a t.w e) (velem b t.w e) (velem d t.w e) % 2 ^ t.w) ∧
  (∀ (t : VT) (m : Rmode) (a b d : Nat), t.isF = false → a < 2 ^ t.w → b < 2 ^ t.w →
     let x := t.int a
     let y := t.int b
     let lo : Int := if t.isI then -2 ^ (t.w - 1) else 0
     let hi : Int := if t.isI then 2 ^ (t.w - 1) - 1 else 2 ^ t.w - 1
     t.int (eAdd t true m a b d) = max lo (min hi (x + y)) ∧ t.int (eSub t true m a b d) = max lo (min hi (x - y)) ∧
     t.int (eMul t true m a b d) = max lo (min hi (x * y)) ∧
     (eAdd t false m a b d : Int) = (x + y) % 2 ^ t.w ∧ (eSub t false m a b d : Int) = (x - y) % 2 ^ t.w ∧
     (eMul t false m a b d : Int) = (x * y) % 2 ^ t.w ∧
     t.int (eMin t a b d) = min x y ∧ t.int (eMax t a b d) = max x y ∧
     eShl t a b d = a * 2 ^ b % 2 ^ t.w ∧ t.int (eShr t a b d) = x / 2 ^ b) ∧
  (∀ (a idx : Vec) (m : LaneMask) (n l : Nat) (w : Word) (t : VT), l < 128 →
     vlane (vperm a idx) l = vlane a (l / 16 * 16 + vlane idx l % 16) ∧
     vlane (vbcast a n) l = vlane a (l / 16 * 16 + n % 16) ∧
     vlane (vslide 0 a n) l = (if n ≤ l % 16 then vlane a (l - n) else 0) ∧
     vlane (vslide 1 a n) l = (if l % 16 + n < 16 then vlane a (l + n) else 0) ∧
     vlane (vslide 2 a n) l = vlane a (l / 16 * 16 + (l % 16 + 16 - n % 16) % 16) ∧
     vlane (viota m) l = (List.range l).countP (fun i => m.getLsbD i) ∧
     (128 * t.k ≤ n → vext t a n = 0) ∧
     (n < 128 * t.k →
       let one := partSelect t.w (elemParts t.w n) (splat t.w (w.toNat % 2 ^ t.w)) a
       velem one t.w n = w.toNat % 2 ^ t.w ∧ (vext t a n).toNat % 2 ^ t.w = velem a t.w n ∧
       ∀ e, e < 128 * t.k → e ≠ n → velem one t.w e = velem a t.w e))

/-- R137: a vector result that lands writes the lanes that its mask selects, and no other lane and no other vector:
lane l of the destination holds the result's lane if bit l of the mask is 1, and otherwise its old value, or 0 under
zeroing. R140, R143, R144, R146, R158: the operations that write a mask, for the next bundle, or a scalar, within its
bound: VCMP and VCLASS write their lanes' bits where the mask selects, the others keeping their value or, under
zeroing, becoming 0. -/
def Obligations.MasksAndLanes : Prop :=
  (∀ (s : State) (f : VF) (v : Vec) (n el : Nat), 2 ≤ n →
     let u := vecWrite f s v n el s
     let c := s.foc.core
     let p := s.cur.phys f.vd.toNat
     (u.core c).vrf = (s.core c).vrf ∧ (u.core c).pend.length = (s.core c).pend.length + 1 ∧
     ∃ t, exec (.resultLanding c (s.core c).pend.length allParts) u = .next t ∧
       (∀ l, l < 128 → vlane ((t.core c).vec p) l =
         if (s.cur.mask f.mask.toNat).getLsbD l then vlane v l else if f.z then 0 else vlane ((s.core c).vec p) l) ∧
       ∀ q, q ≠ p → (t.core c).vec q = (s.core c).vec q) ∧
  (∀ (s : State) (f : VF),
     let k := f.vd.toNat % 8
     let sel := s.cur.mask f.mask.toNat
     let zero := f.z && f.mask != 0
     let sets := fun (i : Instr) (srcs : List Nat) (bits : Nat → Bool) =>
       ∃ t, exec i s = .next t ∧ t = (popAll s.cur srcs s).modCur (fun x => x.setMask k (t.cur.mask k)) ∧
         ∀ l, l < 128 → (t.cur.mask k).getLsbD l =
           if sel.getLsbD l then bits l else if zero then false else (s.cur.mask k).getLsbD l
     (k ≠ 0 → readable s (vecSrcs f true true) → sets (.vcmp f) (vecSrcs f true true)
       (fun l => eCmp (vtOfCode f.ty) f.md.toNat (vlane (vecA s f) l) (vlane (vecB s f) l))) ∧
     (k ≠ 0 → readable s (vecSrcs f true false) → sets (.vclass f) (vecSrcs f true false)
       (fun l => f.vb.toNat.testBit (fClass fp32 (vlane (vecA s f) l)))) ∧
     (f.vd.toNat ≠ 0 → exec (.klog f) s = .next (s.modCur (fun x =>
       x.setMask f.vd.toNat (klogOp f.md.toNat (s.cur.mask f.va.toNat) (s.cur.mask f.vb.toNat))))) ∧
     exec (.kpop f) s = .next (s.landS f.vd.toNat (kpopOp f.md.toNat (s.cur.mask f.va.toNat)) 4) ∧
     (readable s [f.va.toNat] → exec (.vext f) s =
       .next ((popAll s.cur [f.va.toNat] s).landS f.vd.toNat (vext (vtOfCode f.ty) (vecA s f) (indexOf s f)) 6)))

/-- R137, R139: what a vector operation that writes a vector leaves alone: of its context everything but the flues it pops and
the bound that a release awaits (R355), of its core everything but the results not yet landed, to which it adds its own; every
other context, core and unit, and every byte of memory. R62, R70, R71, R74, R84, R140: a vector code that a slot may not name
is refused as an illegal register; with legal codes, an empty flue stalls the slot; k0 is refused as a destination. -/
def Obligations.VectorFrame : Prop :=
  (∀ (s t : State) (i : Instr) (r : VectorRule), vectorRule s i = some r → readable s r.srcs →
     s.cur.vdst r.f.vd.toNat = true → exec i s = .next t →
     sameUnits s t ∧ sameOthers s t ∧ sameBytes s t ∧ sameCoreButPending s t ∧
       { t.cur with flues := [], stores := 0 } = { s.cur with flues := [], stores := 0 } ∧
       (2 ≤ r.bound → t.cur.stores = max s.cur.stores r.bound) ∧
       (∀ q, (∀ c ∈ r.srcs, s.cur.vsrc c ≠ .flue q) → t.cur.flue q = s.cur.flue q) ∧
       (∀ q, (∃ c ∈ r.srcs, s.cur.vsrc c = .flue q) → t.cur.flue q = (s.cur.flue q).drop 1) ∧
       (∃ more, (t.core s.foc.core).pend = (s.core s.foc.core).pend ++ more ∧ more.length ≤ 2) ∧
       t.stamp = s.stamp ∧ t.damaged = s.damaged ∧ t.weak = s.weak) ∧
  (∀ (s : State) (i : Instr),
     let refused := exec i s = .next (s.takePrecise (faultRec fcRegister (some s.foc.slot)))
     (∀ r, vectorRule s i = some r → s.cur.vdst r.f.vd.toNat = false ∨ (∃ c ∈ r.srcs, s.cur.vsrc c = .bad) → refused) ∧
     (∀ r, vectorRule s i = some r → s.cur.vdst r.f.vd.toNat = true → (∀ c ∈ r.srcs, s.cur.vsrc c ≠ .bad) →
       (∃ c ∈ r.srcs, s.cur.srcEmpty (s.cur.vsrc c) = true) → exec i s = .next s) ∧
     (∀ f : VF, i = .vins f → s.cur.vdst f.vd.toNat = false → refused) ∧
     (∀ f : VF, i = .vcmp f ∨ i = .vclass f → f.vd.toNat % 8 = 0 → refused) ∧
     (∀ f : VF, i = .klog f → f.vd.toNat = 0 → refused))

/-! ### The MX slot -/

/-- R26, R64, R74, R162–R169, R174–R182, R186, R195, R196, R344: an MX operation with a true guard whose operands its rules
allow, with room on its core and its resources free, joins the operations in flight with what it read at its issue, and
changes nothing else. R26, R62, R64, R74, R164: an MX operation whose operands its rules allow does nothing when its guard is
false, and stalls while 16 operations are in flight on its core or what it would hold is busy; a tile not assigned is refused
whatever the guard. R163, R164: of every kind, on either pipe, MX_OP_START starts the operation that its pipe is to start, and
MX_OP_COMPLETION completes one whose time has passed, which frees its place and leaves the other cores as they are; neither
does anything where no such operation is. -/
def Obligations.MatrixIssues : Prop :=
  (∀ (s : State) (i : Instr) (kind : MxKind) (f : MF) (ready : Prop), mxReady s i = some (kind, f, ready) → ready →
     mxRoom s kind f → exec i s = .next (mxJoined s kind f)) ∧
  (∀ (s : State) (i : Instr) (kind : MxKind) (f : MF) (ready : Prop), mxReady s i = some (kind, f, ready) →
     (ready → s.cur.guard f.g = false → exec i s = .next s) ∧
     (ready → s.cur.guard f.g = true → 16 ≤ (s.core s.foc.core).mxs.length ∨ mxBusy s (mxOpOf kind f s) = true →
       exec i s = .next s) ∧
     (s.cur.hasTile f.acc.toNat = false → kind ≠ .cvInit → kind ≠ .cvCommit →
       exec i s = .next (s.takePrecise (faultRec fcRegister (some s.foc.slot))))) ∧
  (∀ (s : State) (c i : Nat),
     (∀ array o, mxToStart s c i array o → ∃ t o', exec (.mxOpStart c array) s = .next t ∧
       (t.core c).mxs = (s.core c).mxs.set i o' ∧ mxBegun s c array o o' ∧ t.procs = s.procs ∧ t.launches = s.launches ∧
       ∀ e, e ≠ c → t.core e = s.core e) ∧
     (∀ array, (∀ j o, ¬ mxToStart s c j array o) → exec (.mxOpStart c array) s = .next s) ∧
     (∀ o, mxFinished s c i o → ∃ t, exec (.mxOpCompletion c i) s = .next t ∧
       (t.core c).mxs = (s.core c).mxs.eraseIdx i ∧ t.procs = s.procs ∧ t.launches = s.launches ∧
       ∀ e, e ≠ c → t.core e = s.core e) ∧
     ((∀ o, ¬ mxFinished s c i o) → exec (.mxOpCompletion c i) s = .next s))

/-- R163, R197, R199–R201, R423: an operation that starts (MX_OP_START) changes nothing else, but that of the cover store a
CV.READ then reads its entries, a CV.INIT writes −∞, 0 or the values of its row, and a CV.COMMIT the values above its entries
(the accesses at the start: assumption log 71, DEDUCED). R163–R165, R168, R174–R181, R184–R190, R198: MX_OP_COMPLETION of an
operation that writes tiles, on either pipe: every element of its regions holds the result that its rule gives (mxTiles), the
tile takes its kind, SAT is set by a saturated element, and every other element, tile and status bit stays. R179, R182, R197,
R199, R200, R345–R347: MDRAIN stores its region converted and sets NAN, INF and CVT; MSTAT clears status bits; CV.READ writes
the vectors it has read; a CV.INIT or a CV.COMMIT is over; SIG.FOLD folds the tile into SIG; SIG.GET and SIG.CHECK write their
register. R50, R51, R56, R171, R187: the values of those rules: the sums of a product or of bsum in their order, each
sub-block of finite terms exact and rounded once (two LNS6 factors apart), MAXPLUS, and SAT of a real. The reads at the
completion (assumption log 71), the NaN that a sum keeps (20), CVT's corners (21), a group scaled by +0 (22), the sign of a
negated NaN (23), a quieted load (83), LNS6 lanes (84) and MRED's old element (85) are the model's readings (DEDUCED). -/
def Obligations.MatrixRuns : Prop :=
  (∀ (s : State) (c i : Nat) (array : Bool) (o : MxOp), mxToStart s c i array o →
     let k := s.core c
     let e0 := 32 * (o.f.kb.toNat + 1)
     let code := o.f.low.toNat % 4
     let cand := fun (e : Nat) => (operandEl s c o false e0 0 (e - o.xb)).cov
     let stores := fun (v : Nat → Nat) => ∃ t o', exec (.mxOpStart c array) s = .next t ∧ mxBegun s c array o o' ∧
       (∀ e, (t.core c).covAt e = if o.xb ≤ e ∧ e < o.xb + e0 then v e else k.covAt e) ∧
       { t.core c with mxs := [], cov := [] } = { k with mxs := [], cov := [] } ∧ t.clusters = s.clusters ∧ t.dies = s.dies ∧
       (t.core c).mxs = k.mxs.set i o'
     (o.kind ≠ .cvInit → o.kind ≠ .cvCommit → o.kind ≠ .cvRead → ∃ o', mxBegun s c array o o' ∧ o'.got = o.got ∧
       exec (.mxOpStart c array) s = .next (s.modCore c (fun k => { k with mxs := k.mxs.set i o' }))) ∧
     (o.kind = .cvRead → intact s → ∃ o', mxBegun s c array o o' ∧
       exec (.mxOpStart c array) s = .next (s.modCore c (fun k => { k with mxs := k.mxs.set i o' })) ∧
       o'.got.length = e0 / 128 ∧
       ∀ r l, r < o'.got.length → l < 128 → vlane (o'.got.getD r 0) l = k.covAt (o.xb + 128 * r + l)) ∧
     (o.kind = .cvInit → intact s → o.xb % 32 = 0 →
       stores (fun e => if code = 0 then 0xFF800000 else if code = 1 then 0 else cand e)) ∧
     (o.kind = .cvCommit → intact s → o.xb % 32 = 0 →
       stores (fun e => if Fv.cmp (v32 (cand e)) (v32 (k.covAt e)) = .gt then cand e else k.covAt e))) ∧
  (∀ (s : State) (c i : Nat) (o : MxOp) (rules : List TileRule), mxFinished s c i o → intact s → mxTiles s c o = some rules →
     ∃ t, exec (.mxOpCompletion c i) s = .next t ∧ mxFrame s t c i ∧ (∀ r ∈ rules, r.holds (s.core c) (t.core c)) ∧
       ∀ e, (∀ r ∈ rules, r.tile ≠ e) → (t.core c).tile e = (s.core c).tile e) ∧
  (∀ (s : State) (c i : Nat) (o : MxOp), mxFinished s c i o → intact s →
     let k := s.core c
     let acc := o.f.acc.toNat
     let d := k.tile acc
     let y := s.ctx c o.ctx
     let m := o.f.m.toNat + 1
     let n := o.f.n.toNat + 1
     let done := fun (P : State → Prop) => ∃ t, exec (.mxOpCompletion c i) s = .next t ∧
       (t.core c).mxs = k.mxs.eraseIdx i ∧ (t.core c).cov = k.cov ∧ t.procs = s.procs ∧ (∀ e, e ≠ c → t.core e = s.core e) ∧
       (∀ e, e ≠ o.ctx → t.ctx c e = s.ctx c e) ∧ P t
     let writesReg := fun (v : Word) (t : State) => (∀ r, (t.ctx c o.ctx).rd r =
       if r = o.f.low.toNat % 64 ∧ r ≠ 0 then v else y.rd r) ∧ (t.core c).tiles = k.tiles ∧ (t.core c).vrf = k.vrf
     (o.kind = .mstat → ∃ t, exec (.mxOpCompletion c i) s = .next t ∧ mxFrame s t c i ∧
       (t.core c).tile acc = { d with stat := d.stat &&& ~~~ (o.f.low.setWidth 5) } ∧
       ∀ e, e ≠ acc → (t.core c).tile e = k.tile e) ∧
     (o.kind = .cvInit ∨ o.kind = .cvCommit → ∃ t, exec (.mxOpCompletion c i) s = .next t ∧ mxFrame s t c i ∧
       (t.core c).tiles = k.tiles) ∧
     (o.kind = .cvRead → done (fun t =>
       let v0 := 64 * o.vbase + o.f.low.toNat
       (∀ r, r < o.got.length → (t.core c).vec (v0 + r) = o.got.getD r 0) ∧
         (∀ v, v < v0 ∨ v0 + o.got.length ≤ v → (t.core c).vec v = k.vec v) ∧ (t.core c).tiles = k.tiles ∧ t.ctx c o.ctx = y)) ∧
     (o.kind = .sigGet → done (writesReg y.sig)) ∧
     (o.kind = .sigCheck → done (fun t => writesReg (if y.sig = o.sigref then 0 else 1) t ∧
       t.notices = s.notices ++ (if y.sig = o.sigref then [] else [.sigMismatch c o.ctx]))) ∧
     (o.kind = .sigFold → done (fun t =>
       let bytes := (List.range m).flatMap (fun a => (List.range n).flatMap (fun j =>
         (List.range 4).map (fun b => d.at a j / 256 ^ b % 256)))
       let w := bytes.foldl crcByte y.sig
       t.ctx c o.ctx = { y with sig := w } ∧ (⟨o.ctx, .sigv w, 31⟩ : Pend) ∈ (t.core c).pend ∧ (t.core c).tiles = k.tiles ∧
         (t.core c).vrf = k.vrf)) ∧
     (o.kind = .mdrain → memoriesOk s →
       let fs := if o.f.bs then ((Sfmt.ofCode o.f.xb.toNat).getD .fp32, false) else bankFmt o.smp.bfmt (bankOf o.xa)
       let fmt := fs.1
       let mode := Rmode.ofCode o.smp.rmode.toNat
       let val := fun (a j : Nat) => drainVal fs.2 o.smp.sc (d.val a j)
       let code := fun (a j : Nat) => encodeElem fmt mode (val a j) % 2 ^ fmt.bits
       let some_ := fun (P : Nat → Nat → Prop) => ∃ a j, a < m ∧ j < n ∧ P a j
       let zeroed := !o.f.bs && o.f.low.getLsbD 0
       let tiles := fun (t : State) =>
         let u := (t.core c).tile acc
         (∀ a j, a < 128 → j < 128 → u.at a j = if zeroed = true ∧ a < m ∧ j < n then 0 else d.at a j) ∧ u.int = d.int ∧
           (u.stat.getLsbD 0 = true ↔ d.stat.getLsbD 0 = true ∨ (d.int = false ∧ some_ (fun a j => (d.val a j).isNan = true))) ∧
           (u.stat.getLsbD 1 = true ↔ d.stat.getLsbD 1 = true ∨ (d.int = false ∧ some_ (fun a j => (d.val a j).isInf = true))) ∧
           (u.stat.getLsbD 3 = true ↔ d.stat.getLsbD 3 = true ∨ some_ (fun a j => cvtLost fmt mode (val a j) = true)) ∧
           u.stat &&& 0x14#5 = d.stat &&& 0x14#5 ∧ (∀ e, e ≠ acc → (t.core c).tile e = k.tile e) ∧ t.ctx c o.ctx = y
       let v0 := 64 * o.vbase + o.f.low.toNat
       let at_ := o.rowAddr false
       let nb := rowBytes fmt n
       (o.f.bs = true → fmt.code ≤ 10 → done (fun t => tiles t ∧ t.clusters = s.clusters ∧
         (∀ a j, a < m → j < n → vecElem fmt ((t.core c).vec (v0 + a)) j = code a j) ∧
         (∀ a b, a < m → (∀ j, j < n → b < elemPos fmt j ∨ elemPos fmt j + fmt.bits ≤ b) →
           ((t.core c).vec (v0 + a)).getLsbD b = (k.vec (v0 + a)).getLsbD b) ∧
         ∀ v, v < v0 ∨ v0 + m ≤ v → (t.core c).vec v = k.vec v)) ∧
       (o.f.bs = false → (∀ a, a < m → bankFmt o.smp.bfmt (bankOf (at_ a)) = fs) →
         (∀ a b, a < b → b < m → at_ a + nb ≤ at_ b ∨ at_ b + nb ≤ at_ a) → done (fun t => tiles t ∧ (t.core c).vrf = k.vrf ∧
           let spl := (t.cluster (c / 8)).spl
           (∀ a j, a < m → j < n → Memory.readNat spl (at_ a) nb / 2 ^ (fmt.bits * j) % 2 ^ fmt.bits = code a j) ∧
           (∀ b, (∀ a, a < m → b < at_ a ∨ at_ a + nb ≤ b) → Memory.read spl b = Memory.read (s.cluster (c / 8)).spl b) ∧
           (fs.2 = true → ∀ a g, a < m → g < (n + 31) / 32 →
             Tab.get (t.cluster (c / 8)).side (sideEntry fmt (at_ a) + g) 0 = 0) ∧
           ∀ e, e ≠ c / 8 → t.cluster e = s.cluster e)))) ∧
  -- the values of products, sums and roundings that the rules above name
  (∀ (f : MF) (cpat : BitVec 48) (bs : Nat) (a b : Nat → El) (old : Nat), bs = 4 ∨ bs = 8 ∨ bs = 32 →
     let num := fun (w : Nat) => (BitVec.ofNat 32 w).toInt
     let kb := f.kb.toNat + 1
     let cell := fun (j : Nat) => if f.cell = 7 then cpat.toNat / 2 ^ (3 * (j % 16)) % 8 else f.cell.toNat
     let fill := fun (e : Nat) => (a e).fill || (b e).fill
     let r := dotElem f cpat bs true a b old
     let u := dotElem f cpat bs false a b old
     (f.cell ≠ 2 → ∃ acc : Nat → Int,
       let p := fun (j : Nat) => ((List.range 32).map (fun (e : Nat) =>
         let x := (a (32 * j + e)).int
         let y := (b (32 * j + e)).int
         if fill (32 * j + e) then 0
         else match cell j with
           | 0 => x * y
           | 1 => |x - y|
           | _ => max 0 (x - y))).sum
       let z := fun (j : Nat) => if f.mode = 2 then acc j - p j else acc j + p j
       acc 0 = (if f.mode = 0 then 0 else num old) ∧ (∀ j, acc (j + 1) = num (satInt (z j)).1) ∧
         r.1 = (BitVec.ofInt 32 (acc kb)).toNat ∧ (r.2 = true ↔ ∃ j, j < kb ∧ (satInt (z j)).2 = true)) ∧
     (f.cell ≠ 2 → ∃ acc : Nat → Nat,
       let t := fun (j : Nat) =>
         let w := blockTerm (cell (bs * j / 32)) ((List.range bs).map (fun e => (a (bs * j + e), b (bs * j + e))))
         if f.mode = 2 then w ^^^ 2 ^ 31 else w
       (if f.mode = 0 then acc 1 = t 0 else acc 0 = old) ∧
         (∀ j, 1 ≤ j ∨ f.mode ≠ 0 → acc (j + 1) = fAdd fp32 .rne (acc j) (t j)) ∧ u = (acc (32 * kb / bs), false)) ∧
     (f.cell = 2 → ∃ acc : Nat → Int, acc 0 = (if f.mode = 0 then -2 ^ 31 else num old) ∧
       (∀ e, acc (e + 1) = if fill e then acc e else max (acc e) ((a e).int + (b e).int)) ∧
       r = ((BitVec.ofInt 32 (acc (32 * kb))).toNat, false)) ∧
     (f.cell = 2 → ∃ acc : Nat → Nat, acc 0 = (if f.mode = 0 then 0xFF800000 else old) ∧
       (∀ e, acc (e + 1) = if fill e || isNanRaw fp32 (acc e) then acc e
         else
           let t := rne32 (Fv.add .rne (a e).val (b e).val)
           if isNanRaw fp32 t then 0x7FC00000 else fMax fp32 (acc e) t) ∧
       u = (acc (32 * kb), false))) ∧
  (∀ (cell : Nat) (xs : List (El × El)) (sa sb : Option (BitVec 16)), xs ≠ [] → (∀ p ∈ xs, p.1.sc = sa ∧ p.2.sc = sb) →
     (∀ w, sa = some w ∨ sb = some w → w ≠ 0 ∧ scaleBad w = false) → (∀ p ∈ xs, fvFinite p.1.dec ∧ fvFinite p.2.dec) →
     (cell = 0 → ∀ p ∈ xs, ¬ (p.1.fmt = .lns6 ∧ p.2.fmt = .lns6)) →
     let factor := fun (w : Option (BitVec 16)) => (w.map (fun v => ratOf bf16 v.toNat)).getD 1
     let z := ((xs.filter (fun p => !p.1.fill && !p.2.fill)).map (fun p =>
       let x := fvRat p.1.dec
       let y := fvRat p.2.dec
       match cell with
       | 0 => x * y
       | 1 => |x - y|
       | _ => max 0 (x - y))).sum * factor sa * factor sb
     (z ≠ 0 → rounded fp32 .rne z (blockTerm cell xs)) ∧ (z = 0 → blockTerm cell xs % 2 ^ 31 = 0)) ∧
  (∀ ts : List (Option Fv),
     (∃ acc : Nat → Nat, acc 0 = subSum (ts.take 32) ∧
       (∀ j, acc (j + 1) = fAdd fp32 .rne (acc j) (subSum ((ts.drop (32 * (j + 1))).take 32))) ∧
       bsum ts = acc ((ts.length + 31) / 32 - 1)) ∧
     ((∀ v, some v ∈ ts → fvFinite v) →
       let z := ((ts.filterMap id).map fvRat).sum
       (z ≠ 0 → rounded fp32 .rne z (subSum ts)) ∧ (z = 0 → subSum ts % 2 ^ 31 = 0))) ∧
  (∀ v : Fv, (v.isNan = true → satFv v = (0, false)) ∧
     (∀ neg, v = .inf neg → satFv v = satInt (if neg then -2 ^ 32 else 2 ^ 32)) ∧
     (fvFinite v → ∃ z : Int, 2 * |(z : ℚ) - fvRat v| ≤ 1 ∧ (2 * |(z : ℚ) - fvRat v| = 1 → z % 2 = 0) ∧ satFv v = satInt z))

/-! ### The D slots -/

/-- R26, R62, R64, R75, R120, R224–R235, R253–R269, R279–R283, R306, R308, R311, R405, R426: a D operation with a true guard
whose registers and values its rules allow, with room in its channel, its token free and a vector in the flue it
reads, joins its channel. R405: a SEAL at DOMAIN scope waits for every earlier access of its context, and not for its STOWs
alone (assumption log 46, DEDUCED). That a RING counts per launch, core and mask (log 26), and that a CPY from the cover store
needs no context that owns it (log 30) are the model's readings too. -/
def Obligations.DIssues : Prop :=
  ∀ (s : State) (i : Instr) (r : DRule), dRule s i = some r → r.regs → r.ready → dRoom s r.c r.src r.moves →
    ∃ t, exec i s = .next t ∧ joins s t r

/-- R26, R62, R64, R84: a D operation that does not issue: registers that it may not name refuse it whatever its
guard; the previous producer of its token makes it wait whatever its guard; with a false guard it has no effect but
that its token reads complete; a full channel, and an empty flue that it reads (R71), make it wait. R75, R211, R234,
R279, R306: with a true guard, room and a free token, the first value that the rules of a D operation refuse is its
fault: for SYNC the handle, the offset, the alignment; a queue number of 2^12 or more; a window that is not defined; a
name register that holds no patch; the 2^48th identifier. -/
def Obligations.DWaits : Prop :=
  (∀ (s : State) (i : Instr) (r : DRule), dRule s i = some r →
     let t := r.c.tkp.toNat
     (¬ r.regs → exec i s = .next (s.takePrecise (faultRec r.refusal (some s.foc.slot)))) ∧
     (r.regs → t ≠ 0 → s.cur.tokPending t = true → exec i s = .next s) ∧
     (r.regs → (t ≠ 0 → s.cur.tokPending t = false) → s.cur.guard r.c.g = false →
       exec i s = .next (if t = 0 then s else s.modCur (fun y => { y with tk := Tab.erase y.tk t }))) ∧
     (r.regs → (t ≠ 0 → s.cur.tokPending t = false) → s.cur.guard r.c.g = true →
       32 ≤ (s.core s.foc.core).chanLoad (isDb s) ∨ (∃ v, r.src = some v ∧ s.cur.srcEmpty (s.cur.vsrc v) = true) →
       exec i s = .next s)) ∧
  (∀ (s : State) (c : DC),
     s.cur.guard c.g = true → (c.tkp.toNat ≠ 0 → s.cur.tokPending c.tkp.toNat = false) →
     (s.core s.foc.core).chanLoad (isDb s) < 32 →
     let faults := fun (i : Instr) (r : FaultRec) => exec i s = .next (s.takePrecise r)
     let rec0 := faultRec fcField (some s.foc.slot)
     (∀ (f : SyncF) (i : Instr),
       i ∈ [.syncAdd c f, .syncMax c f, .syncOr c f, .syncCas c f, .syncSwap c f, .syncLda c f, .syncStl c f] →
       let h := (s.cur.rd f.h.toNat).toNat
       let off := (s.cur.rd f.o.toNat).toNat
       (2 ^ 32 ≤ h → faults i rec0) ∧
       (h < 2 ^ 32 → 2 ^ 48 ≤ off → faults i { rec0 with code := fcOverflow, offset := off % 2 ^ 48 }) ∧
       (h < 2 ^ 32 → off < 2 ^ 48 → off % 2 ^ f.size.toNat ≠ 0 → faults i { rec0 with code := fcMisaligned, offset := off })) ∧
     (∀ (f : QueueF) (i : Instr), i = .qpush c f ∨ i = .qpop c f → s.cur.vdst f.v.toNat = true →
       2 ^ 12 ≤ (s.cur.rd f.q.toNat).toNat → faults i rec0) ∧
     (∀ f : WrelF, Tab.find s.cur.wins f.w.toNat = none → faults (.wrel c f) rec0) ∧
     (∀ f : WadvF, Tab.find s.cur.wins f.w.toNat = none → faults (.wadv c f) rec0) ∧
     (∀ f : SealF, pScalar f.p = false → Tab.find s.cur.n (f.p.toNat % 8) = none →
       faults (.patchSeal c f) { rec0 with code := fcUnknown }) ∧
     (∀ (i : Instr) (r : DRule), dRule s i = some r → r.c = c → r.regs → r.ready → r.moves = true →
       (∀ v, r.src = some v → s.cur.srcEmpty (s.cur.vsrc v) = false) →
       2 ^ 48 ≤ (if isDb s then s.cur.nextB else s.cur.nextA) → faults i rec0))

/-- R71, R75, R107: what a D operation leaves alone at its issue; only a WDEF, a WADV and a WREL touch a window, their
own, only an OPEN and a SEAL a name register, and only a flue that the operation reads is popped, once. R230–R233:
windows: WDEF defines its window with the descriptor that its fetch samples and the rows that it will bring; WADV moves its oldest and its next row on by
its count; WREL forgets it; each at its issue. -/
def Obligations.DFrame : Prop :=
  (∀ (s t : State) (i : Instr) (r : DRule), dRule s i = some r → r.regs → r.ready → dRoom s r.c r.src r.moves →
     exec i s = .next t →
     dFrame s t ∧
       (∀ w, (∀ c f, i = .wdef c f → f.w.toNat ≠ w) →
         (∀ c f, i = .wadv c f → f.w.toNat ≠ w) → (∀ c f, i = .wrel c f → f.w.toNat ≠ w) →
         Tab.find t.cur.wins w = Tab.find s.cur.wins w) ∧
       (∀ n, (∀ c f, i = .patchOpen c f → f.n.toNat ≠ n) → (∀ c f, i = .patchSeal c f → f.p.toNat % 8 ≠ n) →
         Tab.find t.cur.n n = Tab.find s.cur.n n) ∧
       ∀ q, ((∃ v, r.src = some v ∧ s.cur.vsrc v = .flue q) → t.cur.flue q = (s.cur.flue q).drop 1) ∧
         ((∀ v, r.src = some v → s.cur.vsrc v ≠ .flue q) → t.cur.flue q = s.cur.flue q)) ∧
  (∀ (s t : State) (c : DC) (r : DRule), r.c = c → r.regs → r.ready → dRoom s c r.src r.moves →
     (∀ f : WdefF, dRule s (.wdef c f) = some r → exec (.wdef c f) s = .next t →
       ∃ q, Tab.find t.cur.wins f.w.toNat = some q ∧ r.kind = .fetch f.w.toNat 0 (wRows q.desc) q.desc ∧
         q.next = wRows q.desc ∧ q.oldest = 0 ∧ q.landed = 0 ∧
         q.lastId = (if isDb s then s.cur.nextB else s.cur.nextA)) ∧
     (∀ (f : WadvF) (p : Win), Tab.find s.cur.wins f.w.toNat = some p → dRule s (.wadv c f) = some r →
       exec (.wadv c f) s = .next t →
       let n := if f.s then (s.cur.rd (f.n.toNat / 2 ^ 10)).toNat else f.n.toNat
       Tab.find t.cur.wins f.w.toNat = some
         ⟨p.desc, p.next + n, p.oldest + n, (if isDb s then s.cur.nextB else s.cur.nextA), p.landed⟩) ∧
     (∀ f : WrelF, dRule s (.wrel c f) = some r → exec (.wrel c f) s = .next t →
       t.cur.wins = Tab.erase s.cur.wins f.w.toNat ∧ t.cur.nextA = s.cur.nextA ∧ t.cur.nextB = s.cur.nextB))

/-! ### The CT slot -/

/-- R79, R118, R119, R427: branches. A BTREE goes to the target that its shape chooses, from the 16-byte line of its
bundle, or falls through; JUMP and CALL to an offset of halfwords from their bundle; RET to an even address in a
register; CALL leaves the address of the next bundle in its link register. A target outside 0 to 2^48 − 1 faults with
the target, of a BTREE too (assumption log 36, DEDUCED: R119 says so of JUMP, CALL and RET); an odd RET is refused. -/
def Obligations.Branches : Prop :=
  ∀ s : State,
    let x := s.cur
    let goes := fun (i : Instr) (pre : State) (target : Int) =>
      (0 ≤ target → target < 2 ^ 48 → exec i s = .next (pre.modCur (fun y => y.branch target.toNat))) ∧
      (target < 0 ∨ 2 ^ 48 ≤ target →
        exec i s = .next (s.takePrecise { faultRec fcOverflow (some s.foc.slot) with offset := low48 target }))
    (∀ (sh : BitVec 3) (t0 t1 t2 t3 : BitVec 5) (d0 d1 d2 d3 : BitVec 9), sh.toNat < 6 →
      let b := fun (t : BitVec 5) => x.guard t
      let pick : Option (BitVec 9) :=
        if sh.toNat < 4 then
          if b t0 then some d0
          else if 1 ≤ sh.toNat ∧ b t1 then some d1
          else if 2 ≤ sh.toNat ∧ b t2 then some d2
          else if 3 ≤ sh.toNat ∧ b t3 then some d3 else none
        else if b t0 then (if b t1 then some d0 else some d1)
        else if b t2 then some d2
        else if sh.toNat = 5 ∧ b t3 then some d3 else none
      let i : Instr := .btree sh t0 t1 t2 t3 d0 d1 d2 d3
      (pick = none → exec i s = .next s) ∧
      ∀ d, pick = some d → goes i s (((s.foc.pc / 16 * 16 : Nat) : Int) + 16 * d.toInt)) ∧
    (∀ (g : BitVec 5) (l a : BitVec 6) (off : BitVec 40), x.guard g = true →
      goes (.jump g off) s (s.foc.pc + 2 * off.toInt) ∧
      goes (.call g l off) (s.landS l.toNat (BitVec.ofNat 64 s.foc.next) 1) (s.foc.pc + 2 * off.toInt) ∧
      ((x.rd a.toNat).getLsbD 0 = false → goes (.ret g a) s (x.rd a.toNat).toNat) ∧
      ((x.rd a.toNat).getLsbD 0 = true → exec (.ret g a) s = .next (s.takePrecise (faultRec fcField (some s.foc.slot))))) ∧
    (∀ (g : BitVec 5) (l a : BitVec 6) (off : BitVec 40), x.guard g = false →
      exec (.jump g off) s = .next s ∧ exec (.call g l off) s = .next s ∧ exec (.ret g a) s = .next s)

/-- R123, R124: LOOP with a true guard, no active level at or above its own and a body inside every active body: a
count of zero sets lc and goes on after the body; another makes the level active at its first iteration and goes to
the first body bundle. An active level at or above it, or a body that ends after the innermost active body, refuses
it. R125: at the last bundle of the body of an active level, of which no active level inside it ends there too: another
iteration, with li one more, while li + 1 < lc; otherwise the level ends and its li is 0; a bundle that is the last of no
active body ends none. R128: at a taken branch the pc is the target; an active
level whose body does not hold the target, and every active level inside it, become inactive with li 0; every other
level, and everything else, is as before. -/
def Obligations.Loops : Prop :=
  (∀ (s : State) (g : BitVec 5) (lvl : BitVec 3) (b : BitVec 8) (reg : Bool) (cnt : BitVec 24),
     lvl.toNat < 6 → s.cur.guard g = true →
     let body := bodyBounds (s.imageByte s.foc.core s.foc.ctx) s.foc.next (b.toNat + 1)
     let v := s.cur.rd (cnt.toNat / 2 ^ 18)
     let count : Nat := if reg then (if v.toInt < 0 then 0 else min v.toNat (2 ^ 32 - 1)) else cnt.toNat
     let nested := ∀ m, m < 6 → (s.cur.loop m).active = true →
       m < lvl.toNat ∧ ((∀ n, n < 6 → (s.cur.loop n).active = true → n ≤ m) → body.2 ≤ (s.cur.loop m).stop)
     (nested → ∃ t, exec (.loop g lvl b reg cnt) s = .next t ∧
       (∀ l, l ≠ lvl.toNat → t.cur.loop l = s.cur.loop l) ∧
       (count = 0 → (t.cur.loop lvl.toNat).lc = 0 ∧ (t.cur.loop lvl.toNat).active = false ∧
         t.cur.pc = BitVec.ofNat 48 body.2) ∧
       (count ≠ 0 → t.cur.loop lvl.toNat = ⟨BitVec.ofNat 32 count, 0, true, body.1, body.2⟩ ∧
         t.cur.pc = BitVec.ofNat 48 body.1) ∧
       { t.cur with loops := [], pc := 0 } = { s.cur with loops := [], pc := 0 } ∧ contextFrame s t) ∧
     (¬ nested → exec (.loop g lvl b reg cnt) s = .next (s.takePrecise (faultRec fcField (some s.foc.slot))))) ∧
  (∀ (x : Ctx) (next l : Nat), l < 6 → (x.loop l).active = true → (x.loop l).stop = next →
     (∀ m, l < m → m < 6 → (x.loop m).active = true → (x.loop m).stop ≠ next) →
     (∀ m, l < m → (x.endBodies next 6).loop m = x.loop m) ∧
     ((x.loop l).li.toNat + 1 < (x.loop l).lc.toNat →
       ((x.endBodies next 6).loop l).li = (x.loop l).li + 1 ∧ ((x.endBodies next 6).loop l).active = true ∧
       (x.endBodies next 6).pc = BitVec.ofNat 48 (x.loop l).first ∧
       ∀ m, m ≠ l → (x.endBodies next 6).loop m = x.loop m) ∧
     ((x.loop l).lc.toNat ≤ (x.loop l).li.toNat + 1 →
       ((x.endBodies next 6).loop l).active = false ∧ ((x.endBodies next 6).loop l).li = 0)) ∧
  (∀ (x : Ctx) (next : Nat), (∀ l, l < 6 → (x.loop l).active = true → (x.loop l).stop ≠ next) → x.endBodies next 6 = x) ∧
  (∀ (x : Ctx) (target : Nat),
     (x.branch target).pc = BitVec.ofNat 48 target ∧
     (∀ l, l < 6 → (x.branch target).loop l =
       if (x.loop l).active ∧ ∃ m, m ≤ l ∧ (x.loop m).active ∧ ¬ ((x.loop m).first ≤ target ∧ target < (x.loop m).stop)
       then { x.loop l with active := false, li := 0 } else x.loop l) ∧
     { x.branch target with loops := [], pc := 0 } = { x with loops := [], pc := 0 })

/-- R127: the word of LEAVE with its guard, level and reserved bits; with a true guard it makes its level and every
active level above it inactive with li 0 and continues after the body of the level; an inactive level is refused,
precisely. -/
def Obligations.Leave : Prop :=
  ∀ (g : BitVec 5) (lvl : BitVec 3), lvl.toNat < 6 →
    decodeSlot .ct (0x05#5 ++ g ++ lvl ++ 0#51 : BitVec 64).toNat = .ok (.leave g lvl) ∧
    (∀ r : BitVec 51, r ≠ 0 → decodeSlot .ct (0x05#5 ++ g ++ lvl ++ r : BitVec 64).toNat = .error .illegalField) ∧
    ∀ s : State, s.cur.guard g = true →
      ((s.cur.loop lvl.toNat).active = true → ∃ t, exec (.leave g lvl) s = .next t ∧
        (∀ m, lvl.toNat ≤ m → m < 6 → (t.cur.loop m).active = false ∧ ((s.cur.loop m).active = true → (t.cur.loop m).li = 0)) ∧
        (∀ m, m < lvl.toNat → t.cur.loop m = s.cur.loop m) ∧ t.cur.pc = BitVec.ofNat 48 (s.cur.loop lvl.toNat).stop ∧
        { t.cur with loops := [], pc := 0 } = { s.cur with loops := [], pc := 0 } ∧ contextFrame s t) ∧
      ((s.cur.loop lvl.toNat).active = false →
        exec (.leave g lvl) s = .next (s.takePrecise (faultRec fcField (some s.foc.slot))))

/-- R129: q14 and q15 while a level is active, without a trimming write too, and as a bundle's guard reads them at its
issue. -/
def Obligations.LoopPredicates : Prop :=
  ∀ (s : State) (l : Nat), l < 6 → (s.cur.loop l).active = true →
    (∀ m, l < m → m < 6 → (s.cur.loop m).active = false) →
    let p := s.cur.loop l
    (s.cur.pred 14 = true ↔ p.li = 0) ∧ (s.cur.pred 15 = true ↔ p.lc.toNat ≤ p.li.toNat + 1) ∧
    (p.li.toNat < p.lc.toNat → (s.cur.pred 15 = true ↔ p.li.toNat + 1 = p.lc.toNat)) ∧
    ∀ (d a b : BitVec 6),
      exec (.add 14#5 d a b) s = (if p.li = 0 then .next (s.landS d.toNat (s.cur.rd a.toNat + s.cur.rd b.toNat) 1) else .next s) ∧
      exec (.add 15#5 d a b) s =
        (if p.lc.toNat ≤ p.li.toNat + 1 then .next (s.landS d.toNat (s.cur.rd a.toNat + s.cur.rd b.toNat) 1) else .next s)

/-- R120, R234, R289: WAIT with a true guard and no untaken fault to take: it ends, and changes nothing, once its
token's producer has completed, its identifier is below XDONE, its flue holds a vector, its tile is free, or no
operation of the context is in flight; until then it waits. A tile not assigned is refused. R120, R210, R236: a WAIT
with a true guard takes, in place of issuing and at the WAIT, the fault that poisoned its token, or with `wait all`
the untaken fault of the D operation issued first; an error that carries no token, and the fault of an operation that
TKCLR made its token forget and that poisons no other, wait for a quiet bundle or a HALT. That `wait all` takes the
fault of an operation that produced no token is the model's reading (assumption log 57, DEDUCED). -/
def Obligations.Waits : Prop :=
  (∀ (s : State) (g : BitVec 5) (kind : BitVec 3) (opd : BitVec 6), s.cur.guard g = true →
     waitFault s.cur kind.toNat opd.toNat = none → kind.toNat ≤ 5 →
     let k := s.core s.foc.core
     let o := opd.toNat
     let met : Prop :=
       (kind = 0 → ∀ id, Tab.find s.cur.tk (o / 4) ≠ some (.pending id)) ∧
       (kind = 1 → (s.cur.rd o).toNat % 2 ^ 48 < k.xdone s.foc.ctx false) ∧
       (kind = 2 → (s.cur.rd o).toNat % 2 ^ 48 < k.xdone s.foc.ctx true) ∧
       (kind = 3 → s.cur.flue (o / 8) ≠ []) ∧ (kind = 4 → ∀ p ∈ k.mxs, o / 4 ∉ p.tiles) ∧
       (kind = 5 → (∀ p ∈ k.dops, p.ctx ≠ s.foc.ctx) ∧ ∀ p ∈ k.mxs, p.ctx ≠ s.foc.ctx)
     ((kind = 4 → s.cur.hasTile (o / 4) = true) → exec (.wait g kind opd) s = .next s) ∧
     (kind = 4 → s.cur.hasTile (o / 4) = false →
       exec (.wait g kind opd) s = .next (s.takePrecise (faultRec fcRegister (some s.foc.slot)))) ∧
     ((kind = 4 → s.cur.hasTile (o / 4) = true) →
       (met → runSlot (.wait g kind opd) s = .ok id) ∧ (¬ met → runSlot (.wait g kind opd) s = .stall))) ∧
  (∀ (s : State) (g : BitVec 5) (opd : BitVec 6) (a : AFault), s.cur.guard g = true →
     let own := fun (u : AFault) => !u.bare
     let kept := fun (u : AFault) => !s.cur.loose.contains u.id || s.cur.tk.any (fun p => decide (p.2 = .poisoned u.id))
     (∀ n, Tab.find s.cur.tk (opd.toNat / 4) = some (.poisoned n) → s.cur.untaken.find? (fun u => decide (u.id = n)) = some a →
       exec (.wait g 0#3 opd) s = .next (s.takeAsync s.foc.core s.foc.ctx a true s.foc.pc)) ∧
     (firstUntaken (s.cur.untaken.filter (fun u => own u && kept u)) = some a →
       exec (.wait g 5#3 opd) s = .next (s.takeAsync s.foc.core s.foc.ctx a true s.foc.pc)) ∧
     ((∀ u ∈ s.cur.untaken, u.bare = true ∨
         (u.id ∈ s.cur.loose ∧ ∀ k, (k, .poisoned u.id) ∉ s.cur.tk)) → waitFault s.cur 5 opd.toNat = none) ∧
     (a ∈ s.cur.untaken → (∀ b ∈ s.cur.untaken, a.id ≤ b.id) → ∃ b, firstUntaken s.cur.untaken = some b ∧ b.id = a.id))

/-- R68, R220, R283, R285, R355, R405: IMX and VJOIN do nothing of their own (for VJOIN, assumption log 39, DESIGN
CHOICE). A FENCE with a true guard ends, and changes nothing, once the accesses it orders have completed (a release:
every access of the context, those to another device to their acknowledgement at DOMAIN scope alone, and the bounds of
its stores and vector writes; an acquire: its SYNC reads); until then it waits. R286, R287: a BAR of the launch that
owns its slot, with a true guard and every earlier access of the context complete. An arrival is counted and keeps the
phase it met; the last one starts the slot's count and phase anew; a wait on a phase that has passed ends. A second
arrival without a wait, a wait without an arrival, and another launch's slot are refused. A full BAR (mode 0) leaves
its mark at its arrival, and its wait part is a later attempt of the bundle (assumption log 36, DEDUCED). -/
def Obligations.FencesAndBarriers : Prop :=
  (∀ (s : State) (g : BitVec 5) (scope : BitVec 3) (kind : BitVec 2) (imm : BitVec 48),
     exec (.imx imm) s = .next s ∧ exec (.vjoin g) s = .next s ∧ exec (.fence g scope kind) s = .next s ∧
     (s.cur.guard g = true →
       let k := s.core s.foc.core
       let released := (∀ o ∈ k.dops, o.ctx = s.foc.ctx → o.kind ≠ .join → ∀ p ∈ k.dops, p.id = o.id → scope ≠ 4 ∧ p.performed = true) ∧
         s.cur.stores = 0
       let acquired := ∀ o ∈ k.dops, o.ctx = s.foc.ctx → o.syncRead = false
       ((kind ≠ 2 → released) ∧ (kind ≠ 1 → acquired) → runSlot (.fence g scope kind) s = .ok id) ∧
       (¬ ((kind ≠ 2 → released) ∧ (kind ≠ 1 → acquired)) → runSlot (.fence g scope kind) s = .stall))) ∧
  (∀ (s : State) (g : BitVec 5) (scope : BitVec 3) (slot : BitVec 4) (mode : BitVec 2), s.cur.guard g = true →
     (scope = 2 → slot.toNat < 8) → mode.toNat < 3 →
     let die := scope == 2
     let b := s.barSlot s.foc.core die slot.toNat
     let owned := s.cur.launch ≠ 0 ∧ b.owner = s.cur.launch
     let refused := exec (.bar g scope slot mode) s = .next (s.takePrecise (faultRec fcField (some s.foc.slot)))
     (¬ owned → refused) ∧
     (owned → mode = 1 → (s.cur.barPend die slot.toNat).isSome = true → refused) ∧
     (owned → mode = 2 → s.cur.barPend die slot.toNat = none → refused) ∧
     (owned → mode ≠ 2 → s.cur.barPend die slot.toNat = none → (s.core s.foc.core).quietMem s.foc.ctx 3 = true →
       ∃ t, exec (.bar g scope slot mode) s = .next t ∧ t.cur.bars = s.cur.bars ++ [⟨die, slot.toNat, b.phase⟩] ∧
         t.barSlot s.foc.core die slot.toNat =
           (if b.arrived + 1 = b.count then ⟨b.owner, b.count, 0, !b.phase⟩ else ⟨b.owner, b.count, b.arrived + 1, b.phase⟩)) ∧
     (∀ p, owned → mode ≠ 1 → s.cur.barPend die slot.toNat = some p → b.phase ≠ p.phase →
       exec (.bar g scope slot mode) s = .next (s.modCur (fun y => y.dropBar die slot.toNat)) ∧
         (s.cur.dropBar die slot.toNat).barPend die slot.toNat = none) ∧
     (∀ p, owned → mode ≠ 1 → s.cur.barPend die slot.toNat = some p → b.phase = p.phase →
       exec (.bar g scope slot mode) s = .next s))

/-- R121, R122, R214: TRAP and BKPT with a true guard raise their fault with their code, and with a false guard do
nothing. HALT with a true guard and no fault untaken halts the context: it keeps its resources, its loop levels end
and a pending NXT landing is discarded. -/
def Obligations.TrapsAndHalt : Prop :=
  ∀ (s : State) (g : BitVec 5) (code : BitVec 16),
    (s.cur.guard g = true →
      exec (.trap g code) s = .next (s.takePrecise { faultRec fcTrap (some s.foc.slot) with arg := code.toNat }) ∧
      exec (.bkpt g code) s = .next (s.takePrecise { faultRec fcBreak (some s.foc.slot) with arg := code.toNat }) ∧
      (s.cur.untaken = [] → ∃ t, exec (.halt g) s = .next t ∧ t.cur.st = .halted ∧ t.cur.nxt = [] ∧
        (∀ l, l < 6 → (t.cur.loop l).active = false) ∧ contextFrame s t ∧
        { t.cur with st := .halted, nxt := [], loops := [], pc := 0 } =
          { s.cur with st := .halted, nxt := [], loops := [], pc := 0 })) ∧
    (s.cur.guard g = false →
      exec (.trap g code) s = .next s ∧ exec (.bkpt g code) s = .next s ∧ exec (.halt g) s = .next s)

/-- R307, R309: NXT with a true guard and fewer than two landings pending, at a die that takes the steps of a raster launch
from its counter (the dispatching die, or the only die of the launch) with steps left: the answer holds the row, the column,
the item and LAST, lands 32 cycles later, and the next landing goes to the other bank; the launch's counter moves on. At
another die the step comes from its block; an empty block gives RETRY, and NULL once no step is left. With two pending it
waits; with a false guard it does nothing.
R335: EST.ADD with a true guard in an ESTIMATE launch hands the cluster's estimator its sample, an FP32 one converted,
and changes nothing else; in another launch it is refused; with a false guard it does nothing. -/
def Obligations.LaunchServices : Prop :=
  (∀ (s : State) (g : BitVec 5),
     (s.cur.guard g = false → exec (.nxt g) s = .next s) ∧
     (2 ≤ s.cur.nxt.length → exec (.nxt g) s = .next s) ∧
     (s.cur.guard g = true → s.cur.nxt.length < 2 → ∀ l, s.launchOf s.cur = some l → recKind l.bytes = 1 →
       let d := dieOf s.foc.core
       let n := recSteps l.bytes
       let lands := fun (row col item flags : Word) (l' : Launch) =>
         ∃ t, exec (.nxt g) s = .next t ∧ Tab.find t.launches s.cur.launch = some l' ∧
           t.cur.nextBankB = !s.cur.nextBankB ∧ t.cur.nxt = s.cur.nxt ++ [⟨s.cur.nextBankB, 32, row, col, item, flags⟩] ∧
           { t.cur with nxt := [], nextBankB := false } = { s.cur with nxt := [], nextBankB := false }
       let gives := fun (i : Nat) (l' : Launch) =>
         let rc := rasterStep (recGen l.bytes 0) (recGen l.bytes 1) (recGen l.bytes 2) i
         lands (BitVec.ofNat 64 rc.1) (BitVec.ofNat 64 rc.2) (BitVec.ofNat 64 i) (if i + 1 = n then 4 else 0) l'
       (l.die = d ∨ (recDies l.bytes).length = 1 → l.est.stopped = false → l.step < n →
         gives l.step { l with step := l.step + 1 }) ∧
       (l.die = d ∨ (recDies l.bytes).length = 1 → n ≤ l.step → lands 0 0 0 1 l) ∧
       (l.die ≠ d → (recDies l.bytes).length ≠ 1 → d ∉ l.stops → ∀ a b, Tab.find l.blocks d = some (a, b) →
         (a < b → gives a { l with blocks := Tab.put l.blocks d (a + 1, b) }) ∧
         (b ≤ a → a ≠ n → lands 0 0 0 2 l) ∧ (b ≤ a → a = n → lands 0 0 0 1 l)))) ∧
  (∀ (s : State) (g : BitVec 5) (a : BitVec 6) (f : Bool),
     (s.cur.guard g = false → exec (.estAdd g a f) s = .next s) ∧
     (s.cur.guard g = true → ∀ l, s.launchOf s.cur = some l →
       (recKind l.bytes = 3 → exec (.estAdd g a f) s = .next (s.modCluster (s.foc.core / 8) (fun k =>
         { k with est := { k.est with samples := k.est.samples ++
           [if f then BitVec.ofNat 64 (fConv fp32 fp64 .rne ((s.cur.rd a.toNat).toNat % 2 ^ 32)) else s.cur.rd a.toNat] } }))) ∧
       (recKind l.bytes ≠ 3 → exec (.estAdd g a f) s = .next (s.takePrecise (faultRec fcField (some s.foc.slot))))))

/-! ### The CF slot -/

/-- R45, R82, R131, R132, R172, R191, R205, R221–R223, R324, R325, R343: what each CF operation writes, seen by the
next bundle: the mode, a scale entry, all 16 of them from a vector, a bank's format (by every core of the cluster at
once: assumption log 38, DESIGN CHOICE), a shape, a base or a stride of an address register, the cell pattern, the
quiet bound, which is never raised, the scan configuration, the reference signature; a SETS of the bundle before lands
over none of them. SIG.SET is seen at once by the SIG operations and within 32 cycles by GETS (assumption log 37,
DEDUCED). R236: TKCLR makes each token of its mask forget what it named, and keeps every other token, every operation
in flight and every untaken fault; the producers that it forgets, in flight or with a fault of their own, are marked,
and no others. R45, R70, R84, R172, R191, R205, R222, R223, R324: the values and registers that CF operations refuse.
R131, R132: the value of an address register: its base plus, for each active level, the level's index times its
stride, over the integers; XSET and XSTEP change the base and one stride. -/
def Obligations.Configuration : Prop :=
  (∀ (s : State) (a b : BitVec 6),
     let v := s.cur.rd a.toNat
     let w := s.cur.rd b.toNat
     let sets := fun (i : Instr) (f : Ctx → Ctx) => exec i s = .next (s.modCur f)
     let lands := fun (i : Instr) (num : Nat) (z : Word) (f : Ctx → Ctx) =>
       let t := s.landCf num z
       exec i s = .next t ∧ t.cur = f s.cur ∧ sameUnits s t ∧ sameOthers s t ∧ sameCoreButPending s t ∧
         ∀ p ∈ (t.core s.foc.core).pend, p ∈ (s.core s.foc.core).pend ∧
           (p.ctx = s.foc.ctx → p.left ≤ 1 → ∀ u, p.land ≠ .sys num u)
     (∀ m, lands (.rmodeImm m) 0x00 (m.setWidth 64) (fun x => { x with rmode := m })) ∧
     (v.toNat ≤ 3 → lands (.rmodeReg a) 0x00 v (fun x => { x with rmode := v.setWidth 3 })) ∧
     (∀ e c, sets (.sclSetImm e c) (fun x => { x with sc := Tab.put x.sc e.toNat c })) ∧
     (∀ e, v.toNat < 2 ^ 16 → sets (.sclSetReg e a) (fun x => { x with sc := Tab.put x.sc e.toNat (v.setWidth 16) })) ∧
     (∀ vec, s.cur.vdst vec.toNat = true → ∃ t, exec (.sclLdv vec) s = .next t ∧
       (∀ i, i < 16 → (Tab.get t.cur.sc i 0).toNat = velem ((s.core s.foc.core).vec (s.cur.phys vec.toNat)) 16 i) ∧
       contextFrame s t ∧ { t.cur with sc := [] } = { s.cur with sc := [] }) ∧
     (∀ bank scl fmt, exec (.bfmt bank scl fmt) s = .next (s.modCluster (s.foc.core / 8) (fun k =>
       { k with bfmt := Tab.put k.bfmt bank.toNat (BitVec.ofNat 16 (fmt.toNat + if scl then 16 else 0)) }))) ∧
     (∀ h, shapeBad (w ++ v) = false → shSstr (w ++ v) % 16 = 0 → shDstr (w ++ v) % 16 = 0 →
       sets (.shape h a b) (fun x => { x with h := Tab.put x.h h.toNat (w ++ v) })) ∧
     (∀ x, sets (.xset x a) (fun y => y.setX x.toNat { y.xreg x.toNat with base := v })) ∧
     (∀ x l, sets (.xstepReg x l a) (fun y => y.setStride x.toNat l.toNat v)) ∧
     (∀ x l (imm : BitVec 20), sets (.xstepImm x l imm) (fun y => y.setStride x.toNat l.toNat (BitVec.ofInt 64 imm.toInt))) ∧
     (v.toNat < 2 ^ 48 → cpatBad v = false → lands (.cpat a) 0x06 v (fun x => { x with cpat := v.setWidth 48 })) ∧
     (∀ q : BitVec 24, sets (.qbndImm q) (fun x => if q.toNat < x.qb.toNat then { x with qb := q } else x)) ∧
     (v.toNat < 2 ^ 24 → sets (.qbndReg a) (fun x => if v.toNat < x.qb.toNat then { x with qb := v.setWidth 24 } else x)) ∧
     (∀ c : BitVec 9, c.toNat % 256 ≤ 128 → lands (.ssmCfgImm c) 0x03 (c.setWidth 64) (fun x => { x with ssm := c.setWidth 32 })) ∧
     (v.toNat < 2 ^ 9 → v.toNat % 256 ≤ 128 → lands (.ssmCfgReg a) 0x03 v (fun x => { x with ssm := v.setWidth 32 })) ∧
     lands (.sigSet true a) 0x04 v (fun x => { x with sigref := v }) ∧
     ((s.core s.foc.core).sigBusy s.foc.ctx = false →
       exec (.sigSet false a) s = .next ((s.modCur (fun x => { x with sig := v })).land s.foc.core s.foc.ctx (.sigv v) 32)) ∧
     ((s.core s.foc.core).sigBusy s.foc.ctx = true → exec (.sigSet false a) s = .next s)) ∧
  (∀ (s : State) (mask : BitVec 15), ∃ t, exec (.tkclr mask) s = .next t ∧
     (∀ k v, 1 ≤ k → k ≤ 15 → mask.getLsbD (k - 1) = true → Tab.find s.cur.tk k = some v → (k, v) ∉ t.cur.tk) ∧
     (∀ k, (k = 0 ∨ 15 < k ∨ mask.getLsbD (k - 1) = false) → Tab.find t.cur.tk k = Tab.find s.cur.tk k) ∧
     (∀ k id, 1 ≤ k → k ≤ 15 → mask.getLsbD (k - 1) = true → Tab.find s.cur.tk k = some (.pending id) →
       (s.core s.foc.core).inFlight id = true → id ∈ t.cur.loose) ∧
     (∀ a ∈ s.cur.untaken, 1 ≤ a.token → a.token ≤ 15 → mask.getLsbD (a.token - 1) = true →
       Tab.find s.cur.tk a.token = some (.poisoned a.id) → a.id ∈ t.cur.loose) ∧
     (∀ id ∈ t.cur.loose, id ∈ s.cur.loose ∨ ∃ k, 1 ≤ k ∧ mask.getLsbD (k - 1) = true ∧
       ((k, .pending id) ∈ s.cur.tk ∨ (k, .poisoned id) ∈ s.cur.tk)) ∧
     contextFrame s t ∧ { t.cur with tk := [], loose := [] } = { s.cur with tk := [], loose := [] }) ∧
  (∀ (s : State) (a b : BitVec 6),
     let v := s.cur.rd a.toNat
     let w := s.cur.rd b.toNat
     let refused := fun (i : Instr) (code : Nat) => exec i s = .next (s.takePrecise (faultRec code (some s.foc.slot)))
     (3 < v.toNat → refused (.rmodeReg a) fcField) ∧ (∀ e, 2 ^ 16 ≤ v.toNat → refused (.sclSetReg e a) fcField) ∧
     (∀ vec, s.cur.vdst vec.toNat = false → refused (.sclLdv vec) fcRegister) ∧
     (∀ h, shapeBad (w ++ v) = true → refused (.shape h a b) fcField) ∧
     (∀ h, shapeBad (w ++ v) = false → (shSstr (w ++ v) % 16 ≠ 0 ∨ shDstr (w ++ v) % 16 ≠ 0) → refused (.shape h a b) fcShape) ∧
     (2 ^ 48 ≤ v.toNat ∨ cpatBad v = true → refused (.cpat a) fcField) ∧
     (2 ^ 24 ≤ v.toNat → refused (.qbndReg a) fcField) ∧
     (2 ^ 9 ≤ v.toNat ∨ 128 < v.toNat % 256 → refused (.ssmCfgReg a) fcField)) ∧
  (∀ (x : Ctx) (n l : Nat) (v : Word), l < 6 →
     let stride := fun (y : Ctx) (k : Nat) => (Tab.get (y.xreg n).strides k 0).toInt
     let li := fun (k : Nat) => if (x.loop k).active then ((x.loop k).li.toNat : Int) else 0
     x.xval n = (x.xreg n).base.toInt + li 0 * stride x 0 + li 1 * stride x 1 + li 2 * stride x 2 + li 3 * stride x 3 +
       li 4 * stride x 4 + li 5 * stride x 5 ∧
     (x.setX n { x.xreg n with base := v }).xval n = x.xval n - (x.xreg n).base.toInt + v.toInt ∧
     (x.setStride n l v).xval n = x.xval n + li l * (v.toInt - stride x l) ∧
     ∀ m, m ≠ n → (x.setStride n l v).xval m = x.xval m ∧ (x.setX n { x.xreg n with base := v }).xval m = x.xval m)

/-! ### Floating-point values -/

/-- R36, R43, R47, R48, R425: what the additions, products, quotients, square roots and fused operations of the SC and
vector slots give in FP32, FP64, FP16 and BF16 under every rounding mode, over all operands: the first NaN operand
quieted; the canonical NaN of an invalid operation; else the exact value rounded, with IEEE 754-2019's infinities,
overflow and zero signs; and the smaller or the larger of two, −0 below +0. Two terms +0 summed under RDN are left out
(assumption log 19). R46: a finite value rounded stochastically into FP16, BF16 or FP8 becomes the magnitude below it or, with
noise below the fraction, the one above. -/
def Obligations.FloatValues : Prop :=
  (∀ (f : Ffmt) (m : Rmode) (a b d : Nat), f ∈ [fp32, fp64, fp16, bf16] → bitsIn f a → bitsIn f b → bitsIn f d →
    let x := ratOf f a
    let y := ratOf f b
    let z := ratOf f d
    let neg := fun (w : Nat) => w.testBit (f.eb + f.mb)
    let sgn := xor (neg a) (neg b)
    let two := [fAdd f m a b, fSub f m a b, fMul f m a b, fDiv f m a b, fFma f m a b d, fFms f m a b d, fMin f a b, fMax f a b]
    (isNanRaw f a = true → (∀ r ∈ two, r = a ||| 2 ^ (f.mb - 1)) ∧ fSqrt f m a = a ||| 2 ^ (f.mb - 1)) ∧
    (isNanRaw f a = false → isNanRaw f b = true → ∀ r ∈ two, r = b ||| 2 ^ (f.mb - 1)) ∧
    (isNanRaw f a = false → isNanRaw f b = false → isNanRaw f d = true →
      fFma f m a b d = d ||| 2 ^ (f.mb - 1) ∧ fFms f m a b d = d ||| 2 ^ (f.mb - 1)) ∧
    (isNanRaw f a = false → isNanRaw f b = false → fSub f m a b = fAdd f m a (b ^^^ f.signBit) ∧
      (isNanRaw f d = false → fFms f m a b d = fFma f m a b (d ^^^ f.signBit))) ∧
    (finiteBits f a → finiteBits f b →
      (x + y ≠ 0 → rounded f m (x + y) (fAdd f m a b)) ∧
      (x + y = 0 → zeroSum f m (decide (x = 0)) (neg a) (neg b) (fAdd f m a b)) ∧
      (x * y ≠ 0 → rounded f m (x * y) (fMul f m a b)) ∧ (x * y = 0 → fMul f m a b = signed f sgn 0) ∧
      (x ≠ 0 → y ≠ 0 → rounded f m (x / y) (fDiv f m a b)) ∧ (x = 0 → y ≠ 0 → fDiv f m a b = signed f sgn 0) ∧
      (x ≠ 0 → y = 0 → fDiv f m a b = signed f sgn f.infBits) ∧ (x = 0 → y = 0 → fDiv f m a b = f.canonNan) ∧
      (finiteBits f d →
        (x * y + z ≠ 0 → rounded f m (x * y + z) (fFma f m a b d)) ∧
        (x * y + z = 0 → zeroSum f m (decide (z = 0)) sgn (neg d) (fFma f m a b d))) ∧
      (let r := fMin f a b
       let u := fMax f a b
       (r = a ∨ r = b) ∧ ratOf f r = min x y ∧ (u = a ∨ u = b) ∧ ratOf f u = max x y ∧
         (x = 0 → y = 0 → neg r = (neg a || neg b) ∧ neg u = (neg a && neg b)))) ∧
    (finiteBits f a →
      (x = 0 → fSqrt f m a = a) ∧ (x < 0 → fSqrt f m a = f.canonNan) ∧
      (0 < x → m = .rne → finiteBits f (fSqrt f m a) ∧
        let r := ratOf f (fSqrt f m a)
        0 ≤ r ∧ ∀ w, finiteBits f w → 0 ≤ ratOf f w → (r < ratOf f w → 4 * x ≤ (r + ratOf f w) ^ 2) ∧
          (ratOf f w < r → (r + ratOf f w) ^ 2 ≤ 4 * x)) ∧
      (0 < x → m ≠ .rne → finiteBits f (fSqrt f m a) ∧
        let r := ratOf f (fSqrt f m a)
        0 ≤ r ∧ (m = .rup → x ≤ r ^ 2) ∧ (m ≠ .rup → r ^ 2 ≤ x) ∧ ∀ w, finiteBits f w → 0 ≤ ratOf f w →
          (m = .rup → ratOf f w < r → (ratOf f w) ^ 2 < x) ∧ (m ≠ .rup → r < ratOf f w → x < (ratOf f w) ^ 2))) ∧
    (infinite f a → isNanRaw f b = false →
      fAdd f m a b = (if b = a ^^^ f.signBit then f.canonNan else a) ∧
      fMul f m a b = (if b % f.signBit = 0 then f.canonNan else signed f sgn f.infBits) ∧
      (infinite f b → fDiv f m a b = f.canonNan) ∧ (finiteBits f b → fDiv f m a b = signed f sgn f.infBits) ∧
      fSqrt f m a = (if neg a then f.canonNan else a)) ∧
    (finiteBits f a → infinite f b →
      fAdd f m a b = b ∧ fMul f m a b = (if a % f.signBit = 0 then f.canonNan else signed f sgn f.infBits) ∧
      fDiv f m a b = signed f sgn 0) ∧
    (isNanRaw f a = false → isNanRaw f b = false →
      (infinite f a ∨ infinite f b → isNanRaw f d = false →
        fFma f m a b d =
          (if a % f.signBit = 0 ∨ b % f.signBit = 0 ∨ (d % f.signBit = f.infBits ∧ neg d ≠ sgn) then f.canonNan
           else signed f sgn f.infBits)) ∧
      (finiteBits f a → finiteBits f b → infinite f d → fFma f m a b d = d) ∧
      (infinite f a → fMin f a b = (if neg a then a else b) ∧ fMax f a b = (if neg a then b else a)) ∧
      (infinite f b → fMin f a b = (if neg b then b else a) ∧ fMax f a b = (if neg b then a else b)))) ∧
  ∀ (t : SrTarget) (f : Ffmt) (a noise : Vec) (l c : Nat),
    (t, f) ∈ [(.fp16, fp16), (.bf16, bf16), (.e4m3, fp8e4), (.e5m2, fp8e5)] → l < 128 → finiteBits fp32 (vlane a l) →
    let x := ratOf fp32 (vlane a l)
    let lo := ratOf f c
    let hi := ratOf f (c + 1)
    let r := vlane (vsrnd t a noise) l
    c ≤ t.maxCode → lo ≤ |x| → (c < t.maxCode → |x| < hi) →
    finiteBits fp32 r ∧ r.testBit 31 = (vlane a l).testBit 31 ∧
      |ratOf fp32 r| = (if lo = |x| ∨ c = t.maxCode then lo
        else if (vlane noise l : ℚ) < (|x| - lo) / (hi - lo) * 2 ^ 32 then hi else lo)

/-! ### Faults -/

/-- R209, R212, R213: taking a fault: the context stops as faulted; FR.CODE holds the code, the slot, ASYNC, ATWAIT,
the token, MORE and ARG in their places, FR.PC the address of the bundle not issued, and the other registers what the
record names or zero; a run in progress ends; the record goes to the service core and the launch unit; every other
context is as before. R122, R213, R215: FAULT_RESUME with the firmware's writes: the context is ready, fetches from
FR.PC, with a quiet count of 0 and with the step-over mark only after a TRAP or a BKPT and if the firmware wrote it;
FAULT_RESUME_STEP_OVER sets it after those two; after a fetch fault the pages of the bundle that it is to issue are
filled first, and after no other (R398); a context that had halted returns to the halted state. A context that is not
faulted is left alone. -/
def Obligations.Faults : Prop :=
  (∀ (s : State) (c x : Nat) (r : FaultRec) (async atWait more : Bool) (token pc : Nat), r.code < 256 → token < 16 →
     (∀ k, r.slot = some k → k < 8) →
     let t := s.takeFault c x r async atWait more token pc
     let y := t.ctx c x
     let code := Tab.get y.fr 0 0
     y.st = .faulted ∧ y.pc = BitVec.ofNat 48 pc ∧ code.extractLsb' 0 8 = BitVec.ofNat 8 r.code ∧
     (∀ k, r.slot = some k → code.extractLsb' 8 3 = BitVec.ofNat 3 k ∧ code.getLsbD 11 = false) ∧
     (r.slot = none → code.extractLsb' 8 3 = 0 ∧ code.getLsbD 11 = true) ∧
     code.getLsbD 12 = async ∧ code.getLsbD 13 = atWait ∧ code.extractLsb' 14 4 = BitVec.ofNat 4 token ∧
     code.getLsbD 18 = false ∧ code.getLsbD 19 = more ∧ code.extractLsb' 32 16 = BitVec.ofNat 16 r.arg ∧
     Tab.get y.fr 1 0 = BitVec.ofNat 64 pc ∧ Tab.get y.fr 2 0 = r.pa ∧ Tab.get y.fr 3 0 = r.pb ∧
     Tab.get y.fr 4 0 = r.elem ∧ Tab.get y.fr 5 0 = r.handle.setWidth 64 ∧
     Tab.get y.fr 6 0 = BitVec.ofNat 64 (r.offset % 2 ^ 48) ∧ Tab.get y.fr 7 0 = BitVec.ofNat 64 (r.line % 2 ^ 48) ∧
     ((s.core c).running = some x → (t.core c).running = none) ∧ (∀ z, z ≠ x → t.ctx c z = s.ctx c z) ∧
     (∀ d, d ≠ c → t.core d = s.core d) ∧ t.notices = s.notices ++ [.fault c x code] ∧ y.s = (s.ctx c x).s ∧
     y.q = (s.ctx c x).q ∧ t.clusters = s.clusters ∧ t.procs = s.procs ∧ t.launches = s.launches) ∧
  (∀ (s : State) (c x : Nat) (w : FwWrites),
     let y := s.ctx c x
     let z := y.firmware w
     let code := (Tab.get z.fr 0 0).toNat % 256
     (y.st = .faulted → y.afterHalt = false →
       (∃ t, exec (.faultResume c x w) s = .next t ∧ (t.ctx c x).st = .ready ∧ (t.ctx c x).quietCount = 0 ∧
         (t.ctx c x).pc = (Tab.get z.fr 1 0).setWidth 48 ∧
         (t.ctx c x).stepMark = (z.stepMark && (decide (code = 0x10) || decide (code = 0x11))) ∧
         (t.ctx c x).fills = (if (Tab.get y.fr 0 0).toNat % 256 = 0x05 then t.bundlePages c x (t.ctx c x).pc.toNat else y.fills) ∧
         (∀ r, r < 64 → (t.ctx c x).rd r = z.rd r) ∧ (∀ q, q < 16 → (t.ctx c x).pred q = z.pred q)) ∧
       ∃ t, exec (.faultResumeStepOver c x w) s = .next t ∧ (t.ctx c x).st = .ready ∧ (t.ctx c x).quietCount = 0 ∧
         (t.ctx c x).pc = (Tab.get z.fr 1 0).setWidth 48 ∧
         (t.ctx c x).stepMark = (decide (code = 0x10) || decide (code = 0x11))) ∧
     (y.st = .faulted → y.afterHalt = true → z.untaken = [] →
       ∃ t, exec (.faultResume c x w) s = .next t ∧ (t.ctx c x).st = .halted) ∧
     (y.st ≠ .faulted → exec (.faultResume c x w) s = .next s ∧ exec (.faultResumeStepOver c x w) s = .next s))

/-! ### Events: runs, engines and copies -/

/-- R16, R19, R20, R204, R209: RUN_SCHEDULE gives a core that runs no context, of those that are ready and await no
code page, the one that goes first (of two marked ones the longer since its last run: assumption log 89, DESIGN
CHOICE), and changes nothing else; with no such context, or while one runs, nothing. At a boundary between bundles a
run count at RB, unless the quiet count has reached QB, and a quiet count at QB raise their overrun, with NOSLOT, at
the next bundle: the run ends. -/
def Obligations.CoreSchedules : Prop :=
  (∀ (s : State) (c x : Nat) (y : Ctx), (s.core c).running = none → (x, y) ∈ (s.core c).ctxs → y.st = .ready →
    y.fills = [] → s.rolling y = false →
    (∀ q ∈ (s.core c).ctxs, q.2.st = .ready → q.2.fills = [] → s.rolling q.2 = false → q ≠ (x, y) → goesFirst s (x, y) q) →
    ∃ t, exec (.runSchedule c) s = .next t ∧ (t.core c).running = some x ∧ (t.core c).runOn = false ∧
      (t.ctx c x).runCount = 0 ∧ (∀ z, z ≠ x → t.ctx c z = s.ctx c z) ∧ (∀ d, d ≠ c → t.core d = s.core d) ∧
      { t with cores := [] } = { s with cores := [] }) ∧
  (∀ (s : State) (c : Nat),
    (s.core c).running.isSome = true ∨ (∀ q ∈ (s.core c).ctxs, q.2.st ≠ .ready ∨ q.2.fills ≠ [] ∨ s.rolling q.2 = true) →
    exec (.runSchedule c) s = .next s) ∧
  ∀ (s : State) (c x : Nat), (s.core c).running = some x → (s.core c).busy = 0 →
    let y := s.ctx c x
    let raised := fun (i : Instr) (code : Nat) =>
      ∃ t, exec i s = .next t ∧ (t.ctx c x).st = .faulted ∧ (Tab.get (t.ctx c x).fr 0 0).toNat % 2 ^ 12 = code + 2 ^ 11 ∧
        Tab.get (t.ctx c x).fr 1 0 = BitVec.ofNat 64 (s.fetch c x).addr ∧ (t.core c).running = none ∧
        t.notices = s.notices ++ [.fault c x (Tab.get (t.ctx c x).fr 0 0)] ∧ (t.ctx c x).s = y.s ∧
        (∀ z, z ≠ x → t.ctx c z = s.ctx c z)
    ((s.core c).runOn = true → y.rb.toNat ≤ y.runCount → y.quietCount < y.qb.toNat → raised (.runOverrun c) 0x18) ∧
    (y.qb.toNat ≤ y.quietCount → raised (.quietOverrun c) 0x19 ∧ exec (.runOverrun c) s = .next s) ∧
    (y.quietCount < y.qb.toNat → exec (.quietOverrun c) s = .next s)

/-- R75, R120, R210, R234, R235, R245, R311, R314, R317, R363, R405: D_OPERATION_START starts an operation whose producers
have completed, and whose channel looks its handles up, each entry then at the head of its caches (the order of replacement is
the model's: assumption log 79, DEDUCED); an invalid handle completes it with its fault; a poison that it consumed completes
it with that; a producer in flight keeps it waiting. It becomes remote at its accesses, where one of the pages or granules
that they reach lies on another device. A RECV reaches the link engine. TJOIN ends with its producers. A block of names that
no one holds refills a reserve, with one name at least. An acknowledgement completes an operation whose remote accesses have
been made, and no other (assumption log 73, DEDUCED). -/
def Obligations.EngineStarts : Prop :=
  (∀ (s : State) (c i : Nat) (o : DOp), (s.core c).dops[i]? = some o →
    (o.started = true ∨ o.waits ≠ [] → exec (.dOperationStart c i) s = .next s) ∧
    (o.started = false → o.waits = [] → o.poison = none →
      let p := s.procOf (s.ctx c o.ctx)
      ((∀ q v d a, o.kind ≠ .qpush q v d a) → (∀ q v d, o.kind ≠ .qpop q v d) → (∀ f a p n d u, o.kind ≠ .recv f a p n d u) →
        (∀ h cls off, s.target c o = some (h, cls, off) → ∀ code, s.lookup p h cls ≠ .bad code) →
        ∃ t o', exec (.dOperationStart c i) s = .next t ∧ (t.core c).dops = (s.core c).dops.set i o' ∧
          o' = { o with started := true } ∧ (∀ d, d ≠ c → t.core d = s.core d) ∧
          (∀ k, { t.cluster k with hc := [] } = { s.cluster k with hc := [] }) ∧ t.procs = s.procs ∧ t.replays = s.replays ∧
          (∀ units, ((t.goFar c i p units).core c).dops[i]? = some { o' with remote := o.remote || s.anyFar p units }) ∧
          (∀ units, s.anyFar p units = true ↔ ∃ u ∈ units, ((s.handle p u.1).locOf u.2).node ≠ s.node) ∧
          ∀ j, s.opUnits c o ≠ [] → (∀ u ∈ s.opUnits c o, u.1 = j) →
            (if o.chanB then (t.core c).hcB else (t.core c).hcA).head? = some (p, j) ∧
              (t.cluster (c / 8)).hc.head? = some (p, j)) ∧
      ((s.ctx c o.ctx).st ≠ .halted → ∀ h cls off code, s.target c o = some (h, cls, off) → s.lookup p h cls = .bad code →
        ∃ t, exec (.dOperationStart c i) s = .next t ∧ failsWith s t c i o { faultRec code none with handle := h, offset := off }) ∧
      (∀ f a peer n d u ch, o.kind = .recv f a peer n d u → linkBlocked (s.core c) i o = false →
        (s.proc p).chan peer n = some ch →
        ∃ t, exec (.dOperationStart c i) s = .next t ∧
          (t.proc p).chan peer n = some { ch with recvs := ch.recvs ++ [(c, o.id)] })) ∧
    (∀ a, o.started = false → o.waits = [] → o.poison = some a → a.id ≠ o.id → a ∈ (s.ctx c o.ctx).untaken →
      (s.ctx c o.ctx).st ≠ .halted → o.tkp ≠ 0 → Tab.find (s.ctx c o.ctx).tk o.tkp = some (.pending o.id) →
      ∃ t, exec (.dOperationStart c i) s = .next t ∧ (t.core c).dops.length + 1 = (s.core c).dops.length ∧
        Tab.find (t.ctx c o.ctx).tk o.tkp = some (.poisoned a.id) ∧ (t.ctx c o.ctx).untaken = (s.ctx c o.ctx).untaken) ∧
    (o.kind = .join → o.waits = [] → o.poison = none → (s.ctx c o.ctx).untaken = [] →
      ∃ t, exec (.tokenJoinCompletion c i) s = .next t ∧ ends s t c i o) ∧
    (o.performed = true → (s.ctx c o.ctx).untaken = [] → ∃ t, exec (.remoteAccessAck c i) s = .next t ∧ ends s t c i o) ∧
    (o.performed = false → exec (.remoteAccessAck c i) s = .next s)) ∧
  ∀ (s : State) (c p : Nat), (s.proc p).alive = true →
    ∃ t ns, exec (.nameReserveRefill c p) s = .next t ∧ (t.core c).reserve p = (s.core c).reserve p ++ ns ∧ ns.Nodup ∧
      (∀ n ∈ ns, 1 ≤ n ∧ n < 2 ^ 24 ∧ n ∉ s.namesTaken p) ∧
      ((s.namesTaken p).length + 1 < 2 ^ 24 → ns ≠ []) ∧ (∀ d, d ≠ c → t.core d = s.core d) ∧
      (∀ x, t.ctx c x = s.ctx c x)

/-- R42, R226, R229: COPY_COMPLETION completes a copy whose source can be read, once its accesses are made; a row that
keeps its format keeps its bytes, and writes no others, also where source and destination overlap: the model reads the
whole source first (assumption log 7, DESIGN CHOICE). A gather fills each lane with the word that its index names, or
with 0. R227, R252, R289: STRM_VECTOR_ENTRY appends the next 512 bytes to a flue with room, and the last one completes
the stream; an FP32 row of the scratchpad enters an FP32 flue lane by lane, read as a whole when its first vector
enters and kept for the others. A full flue keeps the stream waiting. -/
def Obligations.CopiesComplete : Prop :=
  (∀ (s : State) (c i : Nat) (o : DOp), memoriesOk s → engineAt s c i o →
     let k := s.cluster (c / 8)
     (∀ src dst ten rows, o.kind = .copy src dst → s.srcTen c o src 0 = .ok (some ten) →
       srcRows s c o src ten (shRows o.smp.shape) = .ok rows →
       ∃ t, exec (.copyCompletion c i) s = .next t ∧
         completes s t c i o (s.anyFar (s.procOf (s.ctx c o.ctx)) (s.sideUnits c o src 0 (shRows o.smp.shape))) ∧
         (∀ d, d ≠ c → t.core d = s.core d) ∧ t.launches = s.launches) ∧
     (∀ a b f scl n, o.kind = .copy (.spl a false) (.spl b false) → shRows o.smp.shape = 1 → shRowb o.smp.shape = n →
       bankFmt o.smp.bfmt (bankOf a) = (f, scl) → bankFmt o.smp.bfmt (bankOf b) = (f, scl) → f.bits * (8 * n / f.bits) = 8 * n →
       ∃ t, exec (.copyCompletion c i) s = .next t ∧
         (∀ j, j < n → Memory.read (t.cluster (c / 8)).spl (b + j) = Memory.read k.spl (a + j)) ∧
         ∀ j, j < b ∨ b + n ≤ j → Memory.read (t.cluster (c / 8)).spl j = Memory.read k.spl j) ∧
     (∀ vi vd nv addr swz, o.kind = .gath vi vd nv addr swz → ∃ t, exec (.copyCompletion c i) s = .next t ∧
       completes s t c i o false ∧ t.clusters = s.clusters ∧
       (∀ v l, v < nv → l < 128 →
         let e := vlane ((s.core c).vec (vi + v)) l
         let a := addr + 4 * e
         vlane ((t.core c).vec (vd + v)) l =
           if e = 0xFFFFFFFF ∨ a / 2 ^ 19 ≠ addr / 2 ^ 19 ∨ 393216 < a % 2 ^ 19 + 4 then 0
           else Memory.readNat k.spl (linear swz a) 4) ∧
       ∀ v, v < vd ∨ vd + nv ≤ v → (t.core c).vec v = (s.core c).vec v)) ∧
  (∀ (s : State) (c i : Nat) (o : DOp) (flue done a : Nat), memoriesOk s → engineAt s c i o →
     o.kind = .strm (.spl a false) flue done → strmBlocked (s.core c) i o flue = false →
     let y := s.ctx c o.ctx
     let per := shRowb o.smp.shape / 512
     let rows := shRows o.smp.shape
     (4 ≤ (y.flue flue).length → y.st = .ready → exec (.strmVectorEntry c i) s = .next s) ∧
     ((y.flue flue).length < 4 → shRowb o.smp.shape % 512 = 0 → done < rows * per → shVfmt o.smp.shape = 0 →
       (∀ r, r < rows → bankFmt o.smp.bfmt (bankOf ((a : Int) + r * shSstr o.smp.shape).toNat) = (.fp32, false)) →
       ∃ t vec, exec (.strmVectorEntry c i) s = .next t ∧ (t.ctx c o.ctx).flue flue = y.flue flue ++ [vec] ∧
         (∀ q, q ≠ flue → (t.ctx c o.ctx).flue q = y.flue q) ∧
         ((∀ q, o.line = some q → q.1 ≠ done / per) → ∀ l, l < 128 → vlane vec l = Memory.readNat (s.cluster (c / 8)).spl
           (((a : Int) + (done / per : Nat) * shSstr o.smp.shape).toNat + 512 * (done % per) + 4 * l) 4) ∧
         (∀ codes, o.line = some (done / per, codes) →
           ∀ l, l < 128 → vlane vec l = codes.getD (128 * (done % per) + l) 0 % 2 ^ 32) ∧
         (done + 1 = rows * per → completes s t c i o false) ∧
         (done + 1 < rows * per → ∃ codes, (∀ q, o.line = some (done / per, q) → codes = q) ∧
           (t.core c).dops = (s.core c).dops.set i
             { o with kind := .strm (.spl a false) flue (done + 1), line := some (done / per, codes) })))

/-- R228: RING_SHIFT_START, once the kth RING that a launch issued on every participant may move, completes them all
together (RINGs of other launches take no part: assumption log 26, DEDUCED); blocks of one row that keep their format, whose
destinations do not overlap one another, reach them as all sources were before, also where one lies over another
participant's source (assumption log 7, DESIGN CHOICE), and every byte outside the destinations stays. Until then nothing
moves. -/
def Obligations.RingShifts : Prop :=
  ∀ (s : State) (c i mask n xs xd : Nat) (sh : Bool) (o : DOp), memoriesOk s → intact s → (s.core c).dops[i]? = some o →
    o.kind = .ring mask n xs xd sh →
    let part := fun (q : Nat) => q / 8 = c / 8 ∧ mask / 2 ^ (q % 8) % 2 = 1
    let launch := (s.ctx c o.ctx).launch
    ((∀ q, part q → ∃ j p, (s.core q).ringAt launch mask n = some (j, p) ∧ p.remote = false) →
      ∃ t, exec (.ringShiftStart c i) s = .next t ∧
        (∀ q, part q → (t.core q).dops.length + 1 = (s.core q).dops.length) ∧ (∀ q, ¬ part q → t.core q = s.core q) ∧
        ∀ (src dst : Nat → Nat) (f : Sfmt) (len : Nat), f.bits * (8 * len / f.bits) = 8 * len →
          (∀ q, part q → ∃ j p b, (s.core q).ringAt launch mask n = some (j, p) ∧ p.kind = .ring mask n (src q) (dst q) b ∧
            shRows p.smp.shape = 1 ∧ shRowb p.smp.shape = len ∧ bankFmt p.smp.bfmt (bankOf (src q)) = (f, false) ∧
            bankFmt p.smp.bfmt (bankOf (dst q)) = (f, false)) →
          (∀ q r, part q → part r → q ≠ r → dst q + len ≤ dst r ∨ dst r + len ≤ dst q) →
          (∀ q, part q → ∀ b, b < len →
            Memory.read (t.cluster (c / 8)).spl (dst q + b) = Memory.read (s.cluster (c / 8)).spl (src q + b)) ∧
          (∀ a, (∀ q, part q → a < dst q ∨ dst q + len ≤ a) →
            Memory.read (t.cluster (c / 8)).spl a = Memory.read (s.cluster (c / 8)).spl a) ∧
          ∀ k, k ≠ c / 8 → (t.cluster k).spl = (s.cluster k).spl) ∧
    (∀ q, part q → (s.core q).ringAt launch mask n = none → exec (.ringShiftStart c i) s = .next s)

/-- R230, R232, R233: WINDOW_ROW_FETCH lands the next row of a window's fetch in its ring slot, element for element
where tensor and bank have one format and no record covers it; the last row completes the fetch. A WREL completes with
the window's fetches. -/
def Obligations.WindowRows : Prop :=
  ∀ (s : State) (c i : Nat) (o : DOp), memoriesOk s → engineAt s c i o →
    (∀ w after, o.kind = .release w after →
      ((∀ j ∈ after, (s.core c).inFlight j = false) →
        ∃ t, exec (.windowRowFetch c i) s = .next t ∧ completes s t c i o false ∧ t.clusters = s.clusters) ∧
      ((∃ j ∈ after, (s.core c).inFlight j = true) → exec (.windowRowFetch c i) s = .next s)) ∧
    (∀ w first count d h, o.kind = .fetch w first count d → winBlocked (s.core c) o.ctx w d first = false →
      let p := s.procOf (s.ctx c o.ctx)
      let row := wInt d 2 + first * wInt d 8
      let a := wBase d + first % wDepth d * wPitch d
      let n := wElems d
      let far := s.anyFar p (s.rectUnits p (wHandle d) row (wInt d 3) 1 (fun _ => n))
      s.lookup p (wHandle d) clTensor = .ok h → (h.ray (wRay d)).alive = true → (h.ray (wRay d)).recs = [] →
      h.poison = [] → 0 ≤ row → row < h.rows → 0 ≤ wInt d 3 → wInt d 3 + n ≤ h.cols → h.scl = false → h.sfmt.bits % 8 = 0 →
      bankFmt o.smp.bfmt (bankOf a) = (h.sfmt, false) →
      ∃ t, exec (.windowRowFetch c i) s = .next t ∧
        (∀ e, e < n → Memory.readNat (t.cluster (c / 8)).spl (a + h.sfmt.bits / 8 * e) (h.sfmt.bits / 8) =
          Tab.get h.base (row.toNat * h.cols + (wInt d 3).toNat + e) 0 % 2 ^ h.sfmt.bits) ∧
        (∀ j, j < a ∨ a + h.sfmt.bits / 8 * n ≤ j →
          Memory.read (t.cluster (c / 8)).spl j = Memory.read (s.cluster (c / 8)).spl j) ∧
        (∀ q, Tab.find (s.ctx c o.ctx).wins w = some q → q.desc = d →
          Tab.find (t.ctx c o.ctx).wins w = some { q with landed := q.landed + 1 }) ∧
        (count ≤ 1 → completes s t c i o far) ∧
        (2 ≤ count → (t.core c).dops = (s.core c).dops.set i
          { o with kind := .fetch w (first + 1) (count - 1) d, remote := o.remote || far }))

/-- R229: SCATTER_UPDATE completes a SCAT; under ADD over integers each word of the scratchpad rises by the sum of the
values sent to it, modulo 2^32, whatever their order, and no other word changes. -/
def Obligations.ScattersAdd : Prop :=
  ∀ (s : State) (c i : Nat) (o : DOp) (vi vv nv addr : Nat) (swz : Bool) (op ty : Nat), memoriesOk s → engineAt s c i o →
    o.kind = .scat vi vv nv addr swz op ty →
    ∃ t, exec (.scatterUpdate c i) s = .next t ∧ completes s t c i o false ∧ (∀ d, d ≠ c → t.core d = s.core d) ∧
      (op = 0 → (vtOfCode (BitVec.ofNat 3 ty)).isF = false → ∀ a, a % 4 = addr % 4 →
        Memory.readNat (t.cluster (c / 8)).spl a 4 =
          (Memory.readNat (s.cluster (c / 8)).spl a 4 +
            ((List.range (128 * nv)).map (fun e =>
              if indexAddr addr swz (vlane ((s.core c).vec (vi + e / 128)) (e % 128)) = some a then
                vlane ((s.core c).vec (vv + e / 128)) (e % 128) else 0)).sum) % 2 ^ 32)

/-! ### Events: cells, hosts and the patch engine -/

/-- R278, R281–R283, R327, R363, R405–R407, R411: ATOMIC_UNIT_OPERATION performs a SYNC whose release wait is over and
that no earlier one on its cell precedes: cell, result register and completion. A host's atomic and another device's
do the same to a cell and are answered with status 0 and the old value; another device also reads the bytes of any region but
a tensor, of mapped code pages and of an element, with the exact sum of an integer one, and writes those of a queue's body or
a save area and a base element (the form of its requests and answers: assumption log 17, DESIGN CHOICE; an STL's empty answer:
log 61, DEDUCED). A handle that fails its lookup answers with
its code, and process 0 has its three handles alone; an access to a MIGRATING handle is held in the replay queue of
its stack. -/
def Obligations.CellsStep : Prop :=
  (∀ (s : State) (c i : Nat) (o : DOp) (op : Nat) (hw : BitVec 32) (off n : Nat) (ord sgn : Bool) (sc : Nat) (v w : Word)
    (d : Nat) (after : List Nat) (h : Handle), memoriesOk s → engineAt s c i o →
    o.kind = .sync op hw off n ord sgn sc v w d after → 1 ≤ n → n ≤ 8 → 0x13 ≤ op → op ≤ 0x19 →
    let p := s.procOf (s.ctx c o.ctx)
    let wait := o.bound ≠ 0 ∨ (∃ j ∈ after, (s.core c).unseen sc j = true) ∨ cellBlocked (s.core c) i o hw off = true
    s.lookup p hw clSync = .ok h →
    (wait → exec (.atomicUnitOperation c i) s = .next s) ∧
    (¬ wait → off + n ≤ h.len → ∃ t, exec (.atomicUnitOperation c i) s = .next t ∧
      completes s t c i o (s.anyFar p (s.regionUnits p hw clSync off)) ∧ cellAfter h.data (t.handle p (hIndex hw)).data op sgn off n v w ∧
      (∀ r, (t.ctx c o.ctx).rd r = if r = d ∧ d ≠ 0 ∧ op ≠ 0x19 then
        BitVec.ofInt 64 (cellStep op sgn n (Memory.readNat h.data off n) v.toNat w.toNat).2 else (s.ctx c o.ctx).rd r) ∧
      (∀ k, k ≠ hIndex hw → t.handle p k = s.handle p k) ∧ t.clusters = s.clusters) ∧
    (¬ wait → h.len < off + n → (s.ctx c o.ctx).st ≠ .halted → ∃ t, exec (.atomicUnitOperation c i) s = .next t ∧
      failsWith s t c i o { faultRec fcInvalid none with handle := hw, offset := off })) ∧
  (∀ (s : State) (a : HostAccess) (q : AtomicArgs) (h : Handle) (i : Instr) (op : Nat),
    (i, op) ∈ [(.hostAtomicAdd a q, 0x13), (.hostAtomicMax a q, 0x14), (.hostAtomicOr a q, 0x15), (.hostAtomicCas a q, 0x16),
      (.hostAtomicSwap a q, 0x17), (.hostAtomicLda a q, 0x18), (.hostAtomicStl a q, 0x19)] →
    memoriesOk s → intact s → s.noneHeld a.proc (hIndex a.handle) = true → s.portsUp a.proc = true → a.host < 64 →
    let n := 2 ^ q.size.toNat
    let answers := fun (status : Nat) => exec i s = .next { s with resp := Tab.put s.resp a.host ⟨status, []⟩ }
    let fixed := 1 ≤ a.handle.toNat ∧ a.handle.toNat ≤ 3
    (a.proc = 0 → ¬ fixed → answers fcInvalid) ∧
    ((a.proc = 0 → fixed) → ∀ code, s.lookup a.proc a.handle (s.handle a.proc (hIndex a.handle)).cls = .bad code →
      answers code) ∧
    ((a.proc = 0 → fixed) → s.lookup a.proc a.handle clSync = .ok h → hostMay a h n = false → answers fcInvalid) ∧
    ((a.proc = 0 → fixed) → s.lookup a.proc a.handle clSync = .wait →
      hostMay a (s.handle a.proc (hIndex a.handle)) n = true →
      let k := ((s.handle a.proc (hIndex a.handle)).locOf (a.offset / 2 ^ 21)).stack
      (s.replay k).length < 4096 → exec i s = .next { s with
        replays := Tab.put s.replays k (s.replay k ++ [⟨a.proc, hIndex a.handle, .hostAtomic op a q⟩]) }) ∧
    ((a.proc = 0 → fixed) → s.lookup a.proc a.handle clSync = .ok h → hostMay a h n = true →
      (a.offset % n ≠ 0 ∨ h.len < a.offset + n) → answers fcMisaligned) ∧
    ((a.proc = 0 → fixed) → s.lookup a.proc a.handle clSync = .ok h → hostMay a h n = true → a.offset % n = 0 →
      a.offset + n ≤ h.len → ∃ t, exec i s = .next t ∧ cellAfter h.data (t.handle a.proc (hIndex a.handle)).data op q.sgn a.offset n q.v q.n ∧
        Tab.find t.resp a.host = some ⟨0, cellReply h.data op q.sgn a.offset n q.v q.n⟩ ∧ t.cores = s.cores ∧
        t.clusters = s.clusters)) ∧
  ∀ (s : State) (dev op p : Nat) (hw : BitVec 32) (off : Nat) (q : AtomicArgs) (h : Handle), 0x13 ≤ op → op ≤ 0x19 →
    memoriesOk s → intact s → s.portsUp 1 = true → dev < 1024 → dev ≠ s.node → s.noneHeld p (hIndex hw) = true →
    let n := 2 ^ q.size.toNat
    (s.lookup p hw clSync = .ok h → off % n = 0 → off + n ≤ h.len →
      ∃ t, exec (.remoteAccess dev (.atomic op p hw off q)) s = .next t ∧
        cellAfter h.data (t.handle p (hIndex hw)).data op q.sgn off n q.v q.n ∧
        Tab.find t.resp (64 + dev) = some ⟨0, cellReply h.data op q.sgn off n q.v q.n⟩ ∧ t.cores = s.cores) ∧
    (∀ cls bs, cls = clQbody ∨ cls = clSave → s.lookup p hw cls = .ok h → off + bs.length ≤ h.len →
      ∃ t, exec (.remoteAccess dev (.put p hw off bs)) s = .next t ∧ Tab.find t.resp (64 + dev) = some ⟨0, []⟩ ∧
        (∀ k, k < bs.length → Memory.read (t.handle p (hIndex hw)).data (off + k) = bs.getD k 0) ∧
        (∀ k, k < off ∨ off + bs.length ≤ k → Memory.read (t.handle p (hIndex hw)).data k = Memory.read h.data k) ∧
        t.cores = s.cores) ∧
    (∀ cls len, cls ∈ [clQbody, clSync, clSave, clList] ∨ (cls = clCode ∧ ∀ k, k < len → (off + k) / 1024 ∈ h.present) →
      s.lookup p hw cls = .ok h → off + len ≤ h.len →
      ∃ t, exec (.remoteAccess dev (.load p hw off len)) s = .next t ∧
        Tab.find t.resp (64 + dev) = some ⟨0, Memory.readRun h.data off len⟩ ∧ (t.handle p (hIndex hw)).data = h.data) ∧
    (∀ (row col : Int) (ray : Nat) (who : FarCtx), s.lookup p hw clTensor = .ok h → (h.ray ray).alive = true →
      0 ≤ row → row < h.rows → 0 ≤ col → col < h.cols → h.poison = [] →
      let e := row.toNat * h.cols + col.toNat
      let num := fun (w : Nat) => (BitVec.ofNat 32 w).toInt
      let reads := fun (w : Word) => ∃ t, exec (.remoteAccess dev (.element p who hw ray row col)) s = .next t ∧
        Tab.find t.resp (64 + dev) = some ⟨0, leBytes w.toNat 8 ++ [BitVec.ofNat 8 (h.baseIdx e)]⟩ ∧
        (t.handle p (hIndex hw)).base = h.base
      ((h.ray ray).recs = [] → Tab.get h.base e 0 < 2 ^ 64 → reads (BitVec.ofNat 64 (Tab.get h.base e 0))) ∧
      (∀ n r v, (h.ray ray).recs = [n] → (s.proc p).patch n = some r → r.visible (farReader dev who) = true → r.isAdd = true →
        r.bad = [] → h.sfmt = .int32 → r.dfmt = 6 → Tab.find r.vals e = some v →
        reads (BitVec.ofInt 64 (num (Tab.get h.base e 0) + num v)))) ∧
    (∀ (row col : Int) bits idx, s.lookup p hw clTensor = .ok h → Tab.wf h.base = true → 0 ≤ row → row < h.rows → 0 ≤ col →
      col < h.cols → ∃ t, exec (.remoteAccess dev (.store p hw row col bits idx)) s = .next t ∧
        Tab.find t.resp (64 + dev) = some ⟨0, []⟩ ∧
        ∀ e, Tab.get (t.handle p (hIndex hw)).base e 0 =
          if e = row.toNat * h.cols + col.toNat then bits % 2 ^ h.sfmt.bits else Tab.get h.base e 0)

/-- R327, R406, R407, R411: HOST_WRITE stores 8 to 256 bytes, from an 8-byte aligned offset, within one slot of a
QBODY region of the host, and HOST_READ returns as many of a QBODY or SYNC region, each with status 0; a span that
R406 does not allow is answered 0x0D, and a region that is not the host's 0x30, with nothing written. That 0x30 comes
before 0x0D, whatever the span, and that 0x0D answers a size outside 8 to 256 bytes as well as one misaligned or
crossing, are the model's choice (assumption log 61, DEDUCED). An access to a MIGRATING region is held in the replay
queue of its stack, and made when that releases it. -/
def Obligations.HostSpans : Prop :=
  ∀ (s : State) (a : HostAccess) (bs : List Byte) (h : Handle) (len : Nat), memoriesOk s → intact s →
    s.noneHeld a.proc (hIndex a.handle) = true → s.portsUp a.proc = true → a.host < 64 → len = bs.length →
    (a.proc = 0 → 1 ≤ a.handle.toNat ∧ a.handle.toNat ≤ 3) →
    let i := hIndex a.handle
    let span := 8 ≤ len ∧ len ≤ 256 ∧ a.offset % 8 = 0 ∧ a.offset + len ≤ h.len
    let slot := a.offset / 256 = (a.offset + len - 1) / 256
    let answers := fun (j : Instr) (status : Nat) => exec j s = .next { s with resp := Tab.put s.resp a.host ⟨status, []⟩ }
    (s.lookup a.proc a.handle clQbody = .ok h → hostMay a h len = true →
      (span → slot → ∃ t, exec (.hostWrite a bs) s = .next t ∧ Tab.find t.resp a.host = some ⟨0, []⟩ ∧
        (∀ k, k < len → Memory.read (t.handle a.proc i).data (a.offset + k) = bs.getD k 0) ∧
        (∀ k, k < a.offset ∨ a.offset + len ≤ k → Memory.read (t.handle a.proc i).data k = Memory.read h.data k) ∧
        t.cores = s.cores ∧ t.clusters = s.clusters ∧ t.launches = s.launches) ∧
      (¬ (span ∧ slot) → answers (.hostWrite a bs) 0x0D)) ∧
    (∀ cls, cls = clQbody ∨ cls = clSync → s.lookup a.proc a.handle cls = .ok h → hostMay a h len = true →
      (span → ∃ t, exec (.hostRead a len) s = .next t ∧
        Tab.find t.resp a.host = some ⟨0, Memory.readRun h.data a.offset len⟩ ∧ t.cores = s.cores ∧ t.clusters = s.clusters ∧
        (t.handle a.proc i).data = h.data) ∧
      (¬ span → answers (.hostRead a len) 0x0D)) ∧
    (s.lookup a.proc a.handle h.cls = .ok h → hostMay a h len = false → answers (.hostWrite a bs) 0x30 ∧
      answers (.hostRead a len) 0x30) ∧
    (s.lookup a.proc a.handle clQbody = .wait → hostMay a (s.handle a.proc i) len = true →
      let k := ((s.handle a.proc i).locOf (a.offset / 2 ^ 21)).stack
      let holds := fun (j : Instr) (w : HeldWhat) =>
        exec j s = .next { s with replays := Tab.put s.replays k (s.replay k ++ [⟨a.proc, i, w⟩]) }
      (s.replay k).length < 4096 → holds (.hostWrite a bs) (.hostWrite a bs) ∧ holds (.hostRead a len) (.hostRead a len))

/-- R248, R254–R260, R263, R267–R269: PATCH_ENGINE_OPERATION carries out a patch operation wholly: an OPEN adds an empty
record to its ray and names it; a STOW of rows of the scratchpad, of a peer or of the VRF records their elements that lie in the
tensor, converted where the formats differ, with their scale or its index where one side has a scale plane (R42), keeps the
others, and stops only where a cover stack is full or the pool is; a
SEAL seals a record under its scope; a DISCARD, and an INVERT of a record not applied, frees an unapplied record that no
other ray holds; a QUERY answers whether two records overlap; the first of them in the tensor's order if they do; a FORK
copies the lowest records of a ray, and lane 2 of its status holds 0 (assumption log 96, DESIGN CHOICE). A refusal
changes nothing but the status vector. -/
def Obligations.PatchRecords : Prop :=
  ∀ (s : State) (c i : Nat) (o : DOp) (op : PatchOp) (st : Nat), patchAt s c i o op st →
    let p := s.procOf (s.ctx c o.ctx)
    let x := s.reader c o.ctx
    let lanes := fun (t : State) (l0 l1 l2 l3 : Nat) => st ≠ 0xFF0 →
      let v := (t.core c).vec ((s.ctx c o.ctx).phys st)
      vlane v 0 = l0 ∧ vlane v 1 = l1 ∧ vlane v 2 = l2 % 2 ^ 32 ∧ vlane v 3 = l3 % 2 ^ 32
    let far := s.anyFar p (s.patchUnits c o op)
    let done := fun (P : State → Prop) => ∃ t, exec (.patchEngineOperation c i) s = .next t ∧ completes s t c i o far ∧ P t
    (∀ name reg ref isAdd dfmt keep h, op = .openRec name reg ref isAdd dfmt keep → s.lookup p ref.handle clTensor = .ok h →
      (h.ray ref.ray).alive = true → (s.proc p).patches.length < 2 ^ 24 - 1 →
      done (fun t => (∃ q, (t.proc p).patch name = some q ∧ q.st = .opened ∧ q.isAdd = isAdd ∧ q.keep = keep ∧ q.vals = [] ∧
          q.dfmt = (if isAdd then dfmt else h.fmt) ∧ q.home = hIndex ref.handle ∧ q.ray = ref.ray ∧ q.ownedBy x = true) ∧
        ((t.handle p (hIndex ref.handle)).ray ref.ray).recs = (h.ray ref.ray).recs ++ [name] ∧
        lanes t 0 0 name (h.ray ref.ray).recs.length)) ∧
    (∀ a src addr row col q h f fscl df, op = .stow a src row col →
      src = .spl addr false ∨ src = .vrf addr ∨ (∃ k, src = .peer k addr) → (s.proc p).patch a.name = some q → q.st = .opened →
      q.ownedBy x = true → s.lookup p q.homeWord clTensor = .ok h → Sfmt.ofCode q.dfmt = some df →
      (s.ctx c o.ctx).st ≠ .halted →
      let rows := shRows o.smp.shape
      let n := elemsIn f (shRowb o.smp.shape)
      let stride := shSstr o.smp.shape
      (∀ r, r < rows → sideFmt o.smp src stride r = (f, fscl)) →
      stowTensor (h.sfmt, h.scl) (List.replicate rows n) (shRowb o.smp.shape) col = none →
      let first := fun (r : Nat) => ((addr : Int) + r * stride).toNat
      let raw := fun (r j : Nat) => (match src with
        | .vrf _ => (s.core c).vrfBits (64 * (s.ctx c o.ctx).vbase) (first r) (sideBytes 0 f n) / 2 ^ elemPos f j
        | _ => Memory.readNat (s.cluster (c / 8)).spl (first r) (rowBytes f n) / 2 ^ (f.bits * j)) % 2 ^ f.bits
      let dscl := !q.isAdd && h.scl
      let index := fun (r j : Nat) =>
        if fscl then (Tab.get (s.cluster (c / 8)).side (groupEntry f false (first r) (j / 32)) 0).toNat else 0
      let own := fun (r j : Nat) => decodeElem f (raw r j)
      let value := fun (r j : Nat) =>
        if (f, fscl) = (df, dscl) then raw r j
        else encodeElem df (rndOf (shRnd o.smp.shape) o.smp.rmode)
          (if dscl = fscl then own r j
           else if dscl then unscaleVal (Tab.get o.smp.sc 0 0) (own r j)
           else scaleVal (Tab.get o.smp.sc (index r j) 0) (own r j))
      let lies := fun (r j : Nat) => r < rows ∧ j < n ∧ h.inside (row + r) (col + j) = true
      let place := fun (r j : Nat) => h.elem (row + r) (col + j)
      ∃ t, exec (.patchEngineOperation c i) s = .next t ∧
        let stored := completes s t c i o far ∧ (∃ u, (t.proc p).patch a.name = some u ∧ u.st = .opened ∧
          (∀ r j, lies r j → Tab.find u.vals (place r j) = some (value r j)) ∧
          (dscl = true → ∀ r j, lies r j → Tab.find u.idxs (place r j) = some (if fscl then index r j else 0)) ∧
          ∀ e, (∀ r j, lies r j → e ≠ place r j) → Tab.find u.vals e = Tab.find q.vals e) ∧
          (∀ m, m ≠ a.name → (t.proc p).patch m = (s.proc p).patch m)
        (stored ∨ (t.procs = s.procs ∧ ∃ r, failsWith s t c i o r ∧ (r.code = fcStackFull ∨ r.code = fcPool))) ∧
        ((∀ r j, lies r j → ∃ v ∈ q.vals, h.granule v.1 = h.granule (place r j)) → s.fits = true → Tab.wf s.procs = true →
          Tab.wf (s.proc p).patches = true → stored)) ∧
    (∀ a scope after q h, op = .seal a scope after → (s.proc p).patch a.name = some q → q.st = .opened → q.ownedBy x = true →
      s.lookup p q.homeWord clTensor = .ok h →
      done (fun t => (t.proc p).patch a.name = some { q with st := .sealed, scope := scope })) ∧
    (∀ a q h, op = .discard a ∨ op = .invert a → (s.proc p).patch a.name = some q → q.st = .sealed → q.home < 2 ^ 24 →
      s.lookup p q.homeWord clTensor = .ok h →
      (s.refs p a.name q = 0 → Tab.wf (s.proc p).patches = true →
        done (fun t => (t.proc p).patch a.name = none ∧
          (∀ k, a.name ∉ ((t.handle p q.home).ray k).recs) ∧ (t.handle p q.home).base = h.base ∧ lanes t 0 0 a.name 0)) ∧
      (s.refs p a.name q ≠ 0 → done (fun t => (t.proc p).patch a.name = some q ∧ t.procs = s.procs ∧ lanes t 1 0 a.name 0))) ∧
    (∀ a q h, op = .discard a ∨ op = .apply a → (s.proc p).patch a.name = some q → q.st = .applied →
      s.lookup p q.homeWord clTensor = .ok h → done (fun t => t.procs = s.procs ∧ lanes t 3 0 a.name 0)) ∧
    (∀ a b qa qb, op = .query a b → s.queried p x a.name = some qa → s.queried p x b.name = some qb →
      ((∀ e v, qa.home = qb.home → (e, v) ∈ qa.vals → qb.covers e = false) → done (fun t => t.procs = s.procs ∧ lanes t 0 0 0 0)) ∧
      (∀ e, qa.home = qb.home → Tab.wf qa.vals = true → qa.covers e = true → qb.covers e = true →
        (∀ m, m < e → qa.covers m = false ∨ qb.covers m = false) →
        done (fun t => t.procs = s.procs ∧
          lanes t 0 1 (e / (s.handle p qa.home).cols) (e % (s.handle p qa.home).cols)))) ∧
    (∀ ref k hgt h, op = .fork ref k hgt → s.lookup p ref.handle clTensor = .ok h → (h.ray k).alive = false →
      (h.ray ref.ray).alive = true → hgt ≤ (h.ray ref.ray).recs.length →
      (∀ n q, n ∈ (h.ray ref.ray).recs → (s.proc p).patch n = some q → q.st = .sealed) →
      done (fun t => (t.handle p (hIndex ref.handle)).ray k =
          { alive := true, parent := ref.ray, forkH := hgt, pins := 0, recs := (h.ray ref.ray).recs.take hgt, born := s.draws } ∧
        (∀ j, j ≠ k → (t.handle p (hIndex ref.handle)).ray j = h.ray j) ∧ (t.handle p (hIndex ref.handle)).base = h.base ∧
        lanes t 0 0 0 0)) ∧
    (∀ a, op = .discard a ∨ op = .apply a ∨ op = .invert a → (s.proc p).patch a.name = none → (s.ctx c o.ctx).st ≠ .halted →
      ∃ t r, exec (.patchEngineOperation c i) s = .next t ∧ failsWith s t c i o r ∧ r.code = fcUnknown)

/-- R261, R270: an APPLY of the lowest sealed record of ray 0, which every ray holds, folds it into the base, where no
storage that it reads is poisoned and the memory holds its undo image (assumption log 12, DESIGN CHOICE): a REPLACE
leaves its values there and every other element as it was; an ADD over INT32 adds with saturation. The record is
applied, and the storage of a granule that it covers fully becomes the base's. A SEALED record of an AUTO tensor that
is due since the record below it went is applied likewise by DEFERRED_AUTO_APPLY. -/
def Obligations.PatchesApply : Prop :=
  ∀ (s : State) (p name : Nat) (q : Patch) (h : Handle), (s.proc p).patch name = some q → q.st = .sealed →
    q.home < 2 ^ 24 → s.lookup p q.homeWord clTensor = .ok h → Tab.wf h.base = true → Tab.wf q.vals = true →
    (((s.proc p).records (h.ray 0)).find? (fun r => decide (r.2.st ≠ .applied))).map Prod.fst = some name →
    (∀ r ∈ h.rays, r.2.alive = true → name ∈ r.2.recs) →
    h.poison = [] → q.bad = [] → (s.applyRec p name q h).isSome = true →
    let folded := fun (t : State) =>
      (∃ u, (t.proc p).patch name = some u ∧ u.st = .applied ∧ u.vals = q.vals ∧
        (Tab.wf q.locs = true → ∀ g l, g ∈ q.fullGranules h → Tab.find q.locs g = some l →
          (t.handle p q.home).locOf g = l ∧ Tab.find u.locs g = none)) ∧
      (q.isAdd = false → ∀ e, Tab.get (t.handle p q.home).base e 0 = (Tab.find q.vals e).getD (Tab.get h.base e 0)) ∧
      (q.isAdd = true → h.sfmt = .int32 → q.dfmt = 6 → ∀ e,
        (∀ v, Tab.find q.vals e = some v → (BitVec.ofNat 32 (Tab.get (t.handle p q.home).base e 0)).toInt =
          max (-2 ^ 31) (min (2 ^ 31 - 1) ((BitVec.ofNat 32 (Tab.get h.base e 0)).toInt + (BitVec.ofNat 32 v).toInt))) ∧
        (Tab.find q.vals e = none → Tab.get (t.handle p q.home).base e 0 = Tab.get h.base e 0)) ∧
      (t.handle p q.home).rays = h.rays
    (∀ c i o a st, patchAt s c i o (.apply a) st → s.procOf (s.ctx c o.ctx) = p → a.name = name →
      ∃ t, exec (.patchEngineOperation c i) s = .next t ∧ completes s t c i o (s.anyFar p (s.patchUnits c o (.apply a))) ∧
        folded t) ∧
    (q.due = true → h.auto = true → intact s → s.replays = [] →
      ∃ t, exec (.deferredAutoApply p name) s = .next t ∧ folded t ∧ t.clusters = s.clusters)

/-- R259, R263–R266, R272: an INVERT of an applied record that holds its undo image, with no applied record above it that
overlaps it, restores the elements of the image, keeps every other, maps the old storage of remapped granules back, and frees
the record; another applied ADD is subtracted from the base (over INT32 with saturation), and the applied records above that
overlap it lose their undo images; of both, the launch is no longer replayable; another applied REPLACE faults as not
invertible. A COMMUTE of two adjacent sealed records that may cross (of disjoint coverage, two INT32 ADDs, or loosely two ADDs
of floating-point deltas), at whose higher place no ray forks, exchanges them on every ray that holds both; of two that may not
it faults, naming both. A TRANSPLANT of a sealed record that no other ray holds and that may cross each record above it moves
it and its coverage to the top of a ray, unless a cover stack there is full; the first record that it may not cross faults. A
SQUASH of a run of records, all sealed or all applied, in which no ray forks, merges it under the first name, on every ray: of
REPLACEs the newest value stays, INT32 ADDs are summed with saturation, an element whose lowest record is an ADD beside
REPLACEs faults; the undo image of an element is that of the oldest record that covers it. -/
def Obligations.PatchEdits : Prop :=
  ∀ (s : State) (c i : Nat) (o : DOp) (op : PatchOp) (st : Nat) (q : Patch) (h : Handle) (a : PArg), patchAt s c i o op st →
    let p := s.procOf (s.ctx c o.ctx)
    (s.proc p).patch a.name = some q → q.home < 2 ^ 24 → s.lookup p q.homeWord clTensor = .ok h →
    let far := s.anyFar p (s.patchUnits c o op)
    let above := appliedAbove (s.proc p) h a.name q
    let num := fun (w : Nat) => (BitVec.ofNat 32 w).toInt
    let sat := fun (z : Int) => max (-2 ^ 31) (min (2 ^ 31 - 1) z)
    let cross := fun (u v : Patch) (loose : Bool) => (∀ e w, (e, w) ∈ u.vals → v.covers e = false) ∨
      (u.isAdd = true ∧ v.isAdd = true ∧ ((u.dfmt = 6 ∧ v.dfmt = 6) ∨ (loose = true ∧ u.dfmt ≠ 6 ∧ v.dfmt ≠ 6)))
    let once := fun (t : State) => ∀ l, Tab.find s.launches (s.ctx c o.ctx).launch = some l →
      (Tab.find t.launches (s.ctx c o.ctx).launch).map (fun v => v.once) = some true
    let base := fun (t : State) (e : Nat) => Tab.get (t.handle p q.home).base e 0
    let fails := fun (r : FaultRec → Prop) => (s.ctx c o.ctx).st ≠ .halted →
      ∃ t f, exec (.patchEngineOperation c i) s = .next t ∧ failsWith s t c i o f ∧ r f ∧ t.procs = s.procs
    (op = .invert a → q.st = .applied → q.undoHeld = true → above = [] → Tab.wf h.base = true → Tab.wf q.undo = true →
      Tab.wf (s.proc p).patches = true → q.undoBad = [] →
      ∃ t, exec (.patchEngineOperation c i) s = .next t ∧ completes s t c i o far ∧ (t.proc p).patch a.name = none ∧
        (∀ e, base t e = ((Tab.find q.undo e).map Prod.fst).getD (Tab.get h.base e 0)) ∧
        (Tab.wf q.undoLocs = true → Tab.wf h.place.moved = true → h.cls = clTensor →
          ∀ g l, Tab.find q.undoLocs g = some l → (t.handle p q.home).locOf g = l) ∧
        (∀ k, a.name ∉ ((t.handle p q.home).ray k).recs) ∧ once t) ∧
    (op = .invert a → q.st = .applied → q.isAdd = true → q.undoHeld = false ∨ above ≠ [] → h.poison = [] → q.bad = [] →
      Tab.wf h.base = true → Tab.wf q.vals = true → Tab.wf (s.proc p).patches = true →
      ∃ t, exec (.patchEngineOperation c i) s = .next t ∧ completes s t c i o far ∧ (t.proc p).patch a.name = none ∧
        (h.sfmt = .int32 → q.dfmt = 6 → ∀ e,
          (∀ v, Tab.find q.vals e = some v → num (base t e) = sat (num (Tab.get h.base e 0) - num v)) ∧
          (Tab.find q.vals e = none → base t e = Tab.get h.base e 0)) ∧
        (∀ r ∈ above, ∃ u, (t.proc p).patch r.1 = some u ∧ u.undoHeld = false ∧ u.vals = r.2.vals ∧ u.st = .applied) ∧ once t) ∧
    (op = .invert a → q.st = .applied → q.isAdd = false → q.undoHeld = false ∨ above ≠ [] →
      fails (fun f => f.code = fcNotInvertible ∧ f.pa = paOf a.name q.ray)) ∧
    (∀ b loose k n qb, op = .commute a b loose → q.st = .sealed → (s.proc p).patch b.name = some qb → qb.st = .sealed →
      qb.home = q.home → qb.homeGen = q.homeGen → a.name ≠ b.name → (h.ray k).alive = true →
      a.name ∈ (h.ray k).recs → b.name ∈ (h.ray k).recs →
      (∀ r ∈ h.rays, r.2.alive = true → a.name ∈ r.2.recs → b.name ∈ r.2.recs → r.2.recs.Nodup ∧ ∃ pre post,
        pre.length = n ∧ (r.2.recs = pre ++ [a.name, b.name] ++ post ∨ r.2.recs = pre ++ [b.name, a.name] ++ post)) →
      (∀ r ∈ h.rays, r.2.alive = true → r.1 ≠ 0 → r.2.forkH ≠ n + 1) →
      (cross q qb loose → ∃ t, exec (.patchEngineOperation c i) s = .next t ∧ completes s t c i o far ∧
        (∀ j, ((t.handle p q.home).ray j).recs =
          if a.name ∈ (h.ray j).recs ∧ b.name ∈ (h.ray j).recs then
            (h.ray j).recs.map (fun m => if m = a.name then b.name else if m = b.name then a.name else m)
          else (h.ray j).recs) ∧
        (t.proc p).patches = (s.proc p).patches ∧ (t.handle p q.home).base = h.base) ∧
      (¬ cross q qb loose → fails (fun f => f.code = fcConflict ∧ f.pa = paOf a.name q.ray ∧ f.pb = paOf b.name qb.ray))) ∧
    (∀ ref loose dr dc d pre post, op = .transplant a ref loose dr dc → q.st = .sealed → s.refs p a.name q = 0 →
      s.lookup p ref.handle clTensor = .ok d → (d.ray ref.ray).alive = true → q.isAdd = true ∨ (d.fmt, d.scl) = (q.dfmt, h.scl) →
      (∀ v ∈ q.vals, d.inside ((v.1 / h.cols : Nat) + dr) ((v.1 % h.cols : Nat) + dc) = true) →
      (h.ray q.ray).recs = pre ++ [a.name] ++ post → a.name ∉ pre → a.name ∉ post → Tab.wf q.vals = true →
      (s.ctx c o.ctx).st ≠ .halted →
      let higher := post.filterMap (fun n => ((s.proc p).patch n).map (fun r => (n, r)))
      (∀ xs m r ys, higher = xs ++ (m, r) :: ys → (∀ u ∈ xs, cross q u.2 loose) → r.home = q.home → ¬ cross q r loose →
        fails (fun f => f.code = fcConflict ∧ f.pa = paOf a.name q.ray ∧ f.pb = paOf m r.ray)) ∧
      ((∀ r ∈ higher, cross q r.2 loose) →
      let j := hIndex ref.handle
      let place := fun (e : Nat) => d.elem ((e / h.cols : Nat) + dr) ((e % h.cols : Nat) + dc)
      let old := (d.ray ref.ray).recs
      ∃ t, exec (.patchEngineOperation c i) s = .next t ∧
        let moved := completes s t c i o far ∧ (∃ u, (t.proc p).patch a.name = some u ∧ u.home = j ∧
            u.homeGen = hGen ref.handle ∧ u.ray = ref.ray ∧ u.st = .sealed ∧ u.isAdd = q.isAdd ∧
            (∀ e v, Tab.find q.vals e = some v → Tab.find u.vals (place e) = some v) ∧
            (∀ k v, Tab.find u.vals k = some v → ∃ e, Tab.find q.vals e = some v ∧ k = place e)) ∧
          ((t.handle p j).ray ref.ray).recs =
            (if q.home = j then old.filter (fun n => decide (n ≠ a.name)) else old) ++ [a.name] ∧
          (∀ k, (q.home, k) ≠ (j, ref.ray) → a.name ∉ ((t.handle p q.home).ray k).recs) ∧
          ((q.home, q.ray) ≠ (j, ref.ray) → ((t.handle p q.home).ray q.ray).recs = pre ++ post) ∧
          (t.handle p q.home).base = h.base ∧ (t.handle p j).base = d.base
        (moved ∨ (∃ f, failsWith s t c i o f ∧ f.code = fcStackFull ∧ t.procs = s.procs)) ∧ (old = [] → moved))) ∧
    (∀ b k n qb mid, op = .squash a b → q.st = .sealed ∨ q.st = .applied → (h.ray k).alive = true → a.name ∈ (h.ray k).recs →
      b.name ∈ (h.ray k).recs →
      let run : List (Nat × Patch) := (a.name, q) :: mid ++ [(b.name, qb)]
      (∀ r ∈ run, (s.proc p).patch r.1 = some r.2 ∧ r.2.st = q.st ∧ r.2.home = q.home ∧ r.2.homeGen = q.homeGen ∧
        Tab.wf r.2.vals = true ∧ Tab.wf r.2.undo = true ∧ r.2.bad = [] ∧ r.2.undoBad = []) →
      (∀ r ∈ h.rays, r.2.alive = true → a.name ∈ r.2.recs → b.name ∈ r.2.recs →
        r.2.recs.Nodup ∧ ∃ pre post, pre.length = n ∧ r.2.recs = pre ++ run.map Prod.fst ++ post) →
      (∀ r ∈ h.rays, r.2.alive = true → r.1 ≠ 0 → r.2.forkH ≤ n ∨ n + run.length ≤ r.2.forkH) →
      let lowest := fun (e : Nat) => run.find? (fun r => r.2.covers e)
      ((∃ r ∈ run, r.2.isAdd = false) → (∃ e r, lowest e = some r ∧ r.2.isAdd = true) →
        fails (fun f => f.code = fcSquash ∧ f.pa = paOf a.name q.ray)) ∧
      (Tab.wf (s.proc p).patches = true →
        (∀ m z, squashed h q (run.map Prod.snd) = .ok (m, z) →
          (((run.drop 1).foldl (fun t r => t.dropRec p r.1 r.2) s).modProc p (fun v => v.setPatch a.name m)).fits = true) →
        let merged := fun (P : Patch → Prop) => ∃ t u, exec (.patchEngineOperation c i) s = .next t ∧ completes s t c i o far ∧
          (t.proc p).patch a.name = some u ∧ u.st = q.st ∧ u.isAdd = q.isAdd ∧ u.keep = q.keep ∧ P u ∧
          (∀ e, Tab.find u.undo e = (lowest e).bind (fun r => Tab.find r.2.undo e)) ∧
          (∀ r ∈ run.drop 1, (t.proc p).patch r.1 = none) ∧
          (∀ j, ((t.handle p q.home).ray j).recs = (h.ray j).recs.filter (fun m => decide (m ∉ (run.drop 1).map Prod.fst))) ∧
          (t.handle p q.home).base = h.base
        ((∀ r ∈ run, r.2.isAdd = false) →
          merged (fun u => ∀ e, Tab.find u.vals e = run.foldl (fun v r => (Tab.find r.2.vals e).or v) none)) ∧
        ((∀ r ∈ run, r.2.isAdd = true ∧ r.2.dfmt = 6) →
          merged (fun u => u.dfmt = 6 ∧ ∀ e,
            (∀ w, Tab.find u.vals e = some w →
              num w = sat ((run.map (fun r => ((Tab.find r.2.vals e).map num).getD 0)).sum)) ∧
            ((Tab.find u.vals e).isSome = true ↔ ∃ r ∈ run, r.2.covers e = true)))))

/-- R292, R293, R295, R296, R306, R405: a QPUSH or a QPOP that starts, its release over: its status goes to s[d] (4
for no queue, 2 for a draining one, 3 for one that does not take it, 1 for a full or an empty one), or its count above
a status of 0: then the vector's first 256 bytes become the next record and TAIL rises, or the oldest record becomes
the vector's first 64 lanes and HEAD rises. On a queue that is not resident it misses, and waits. On regions of
another device it then awaits their acknowledgement. The last operation on a DRAINING queue frees its number. -/
def Obligations.QueuesAct : Prop :=
  ∀ (s : State) (c i q v d : Nat) (after : List Nat) (o : DOp), memoriesOk s → intact s → s.replays = [] → (s.core c).dops[i]? = some o →
    o.started = false → o.remote = false → o.waits = [] → o.poison = none → (s.ctx c o.ctx).untaken = [] → o.bound = 0 →
    (∀ j ∈ after, (s.core c).unseen 3 j = false) → o.kind = .qpush q v d after ∨ o.kind = .qpop q v d →
    let p := s.procOf (s.ctx c o.ctx)
    let push := o.kind = .qpush q v d after
    let phys := (s.ctx c o.ctx).phys v
    let answers := fun (far : Bool) (n : Nat) (P : State → Prop) => ∃ t, exec (.dOperationStart c i) s = .next t ∧
      (far = false → ends s t c i o) ∧
      (far = true → ∃ z, (t.core c).dops = (s.core c).dops.set i z ∧ z.id = o.id ∧ z.performed = true) ∧
      (d ≠ 0 → (t.ctx c o.ctx).rd d = BitVec.ofNat 64 n) ∧ P t
    let refused := fun (n : Nat) (P : State → Prop) => ∃ t, exec (.dOperationStart c i) s = .next t ∧ ends s t c i o ∧
      (d ≠ 0 → (t.ctx c o.ctx).rd d = BitVec.ofNat 64 n) ∧ (t.proc p).handles = (s.proc p).handles ∧ P t
    (s.queue p q = none → refused 4 (fun _ => True)) ∧
    ∀ e, s.queue p q = some e →
      (e.draining = true → refused 2 (fun t => Tab.wf s.cores = true → Tab.wf (s.proc p).queues = true →
        (∀ k ∈ s.cores, ∀ j z, k.2.dops[j]? = some z → (k.1, j) ≠ (c, i) → ∀ w u a, z.kind ≠ .qpush q w u a ∧ z.kind ≠ .qpop q w u) →
        (∀ l ∈ s.launches, l.2.proc = p → l.2.src ≠ .queue q) → t.queue p q = none)) ∧
      (e.draining = false → e.resident = false → o.held = false → ∃ t, exec (.dOperationStart c i) s = .next t ∧
        t.notices = s.notices ++ [.queueMiss p q] ∧ (t.core c).dops = (s.core c).dops.set i { o with held := true }) ∧
      (e.draining = false → e.resident = false → o.held = true →
        (∀ z ∈ (s.proc p).queues, z.2.draining = false) → exec (.dOperationStart c i) s = .next s) ∧
      (e.draining = false → e.resident = true → (push → e.push = false) → (¬ push → e.work = false) →
        refused 3 (fun _ => True)) ∧
      ∀ hc hb, e.draining = false → e.resident = true → s.lookup p e.cellH clSync = .ok hc →
        s.lookup p e.bodyH clQbody = .ok hb → hIndex e.cellH ≠ hIndex e.bodyH →
        let head := Memory.readNat hc.data e.headOff 8
        let tail := Memory.readNat hc.data e.tailOff 8
        let n := (tail + 2 ^ 64 - head) % 2 ^ 64
        let far := s.anyFar p (s.queueUnits p e (if push then tail else head))
        (push → e.push = true → 2 ^ e.c ≤ n → answers far 1 (fun t => (t.proc p).handles = (s.proc p).handles)) ∧
        (¬ push → e.work = true → n = 0 → answers far 1 (fun t => (t.proc p).handles = (s.proc p).handles)) ∧
        (push → e.push = true → n < 2 ^ e.c → answers far (tail % 2 ^ 48 * 2 ^ 16) (fun t =>
          Memory.readNat (t.handle p (hIndex e.cellH)).data e.tailOff 8 = (tail + 1) % 2 ^ 64 ∧
          ∀ l, l < 64 → Memory.readNat (t.handle p (hIndex e.bodyH)).data (tail % 2 ^ e.c * 256 + 4 * l) 4 =
            vlane ((s.core c).vec phys) l)) ∧
        (¬ push → e.work = true → n ≠ 0 → answers far (head % 2 ^ 48 * 2 ^ 16) (fun t =>
          Memory.readNat (t.handle p (hIndex e.cellH)).data e.headOff 8 = (head + 1) % 2 ^ 64 ∧
          ∀ l, l < 128 → vlane ((t.core c).vec phys) l =
            if l < 64 then Memory.readNat hb.data (head % 2 ^ e.c * 256 + 4 * l) 4 else vlane ((s.core c).vec phys) l))

/-! ### Events: launches -/

/-- R301, R304, R306, R308, R309, R293: the launch units at work: a dependence of a head record that holds is noted
for good; a page that a context awaits reaches its code store; an LNCH record is accepted, with status 0, or rejected,
with 0x80, and waits while the intake is full, whatever it holds; a queue becomes resident while a place is free, and
its head record keeps the dependences found satisfied; an answer of NXT lands in its bank; a launch unit without steps
takes up to 64 from the counter, unless it dispatched the launch or serves it alone. -/
def Obligations.LaunchUnits : Prop :=
  (∀ (s : State) (d i : Nat) (c : Cand), (s.die d).cands[i]? = some c → c.src = .intake →
    (∃ b ∈ (s.die d).cands.take i, b.src = .intake) → exec (.dependenceTest d i) s = .next s) ∧
  (∀ (s : State) (d i : Nat) (c : Cand), intact s → s.replays = [] → (s.die d).cands[i]? = some c →
    (∀ j, j < 4 → s.lookup c.proc (recDepH c.bytes j) clSync ≠ .wait) →
    (c.src = .intake → ∀ b ∈ (s.die d).cands.take i, b.src ≠ .intake) →
    ∃ t c', exec (.dependenceTest d i) s = .next t ∧ (t.die d).cands = (s.die d).cands.set i c' ∧
      { c' with deps := [] } = { c with deps := [] } ∧
      (∀ j, j < 4 → (j ∈ c'.deps ↔ j ∈ c.deps ∨ ∃ h, s.lookup c.proc (recDepH c.bytes j) clSync = .ok h ∧
        let v := Memory.readNat h.data (recDepOff c.bytes j) 8
        (recDepc c.bytes j = 1 ∧ recDepVal c.bytes j ≤ v) ∨ (recDepc c.bytes j = 2 ∧ v = recDepVal c.bytes j))) ∧
      (∀ p k, (t.handle p k).data = (s.handle p k).data) ∧ t.cores = s.cores ∧ t.launches = s.launches) ∧
  (∀ (s : State) (c x page : Nat) (e : Handle), page ∈ (s.ctx c x).fills → intact s → s.replays = [] →
    let p := (s.codeOf (s.ctx c x)).1
    let h := (s.codeOf (s.ctx c x)).2
    (s.core c).page p h (1024 * page) = none → s.lookup p h clCode = .ok e → page ∈ e.present → (s.core c).pages.length < 128 →
    ∃ t m, exec (.codePageFill c x page) s = .next t ∧ (t.core c).pages = (s.core c).pages ++ [⟨p, h, page, m⟩] ∧
      (∀ b, b < 1024 → Memory.read m b = Memory.read e.data (1024 * page + b)) ∧
      (t.ctx c x) = { s.ctx c x with fills := (s.ctx c x).fills.erase page } ∧ (∀ z, z ≠ x → t.ctx c z = s.ctx c z)) ∧
  (∀ (s : State) (c x page : Nat), page ∉ (s.ctx c x).fills → exec (.codePageFill c x page) s = .next s) ∧
  (∀ (s : State) (c i v d : Nat) (kept : Option Vec) (after : List Nat) (o : DOp), engineAt s c i o →
    o.kind = .lnch v kept d after → o.bound = 0 → (∀ j ∈ after, (s.core c).unseen 3 j = false) →
    let p := s.procOf (s.ctx c o.ctx)
    let vec := match kept with
      | some w => w
      | none => (s.core c).vec ((s.ctx c o.ctx).phys v)
    let bs := leBytes (vec.toNat % 2 ^ 2048) 256
    let held := (s.die (recDie bs)).cands.countP (fun q => decide (q.src = .intake))
    let answers := fun (w : Word) (t : State) =>
      exec (.intakeAcceptance c i) s = .next t ∧ completes s t c i o false ∧ (d ≠ 0 → (t.ctx c o.ctx).rd d = w)
    (recordOk s p bs = true → held < 64 → ∃ t q, answers 0 t ∧ (t.die (recDie bs)).cands = (s.die (recDie bs)).cands ++ [q] ∧
      q.proc = p ∧ q.src = .intake ∧ q.bytes = bs ∧ q.deps = []) ∧
    (64 ≤ held → exec (.intakeAcceptance c i) s = .next s) ∧
    (recordOk s p bs = false → held < 64 → (recDoneH bs = 0 ∨ s.lookup p (recDoneH bs) clSync ≠ .wait) → ∃ t, answers 0x80 t ∧ t.dies = s.dies ∧ t.launches = s.launches)) ∧
  (∀ (s : State) (p q : Nat) (v : Queue), s.queue p q = some v → v.resident = false → (s.die v.home).resident.length < 64 →
    ∃ t u, exec (.queueMissService p q) s = .next t ∧ t.queue p q = some u ∧ u.resident = true ∧
      { u with resident := false, since := [], deps := [] } = { v with resident := false, since := [], deps := [] } ∧
      (∀ hc hb, intact s → s.replays = [] → v.work = false → v.draining = false → s.lookup p v.cellH clSync = .ok hc →
        s.lookup p v.bodyH clQbody = .ok hb → s.qCount p v ≠ 0 → (∀ b ∈ (s.die v.home).cands, b.ofQueue p q = false) →
        ∃ b ∈ (t.die v.home).cands, b.ofQueue p q = true ∧ b.deps = v.deps ∧ b.bytes = s.qRecord p v (s.qHead p v)) ∧
      (t.die v.home).resident = (s.die v.home).resident ++ [(p, q)] ∧ t.cores = s.cores ∧ t.launches = s.launches) ∧
  (∀ (s : State) (c x : Nat) (p : NxtPend) (rest : List NxtPend), (s.ctx c x).nxt = p :: rest → p.left = 0 →
    (∀ q ∈ rest, q.left ≠ 0) →
    let b := if p.bankB then 60 else 56
    ∃ t, exec (.nxtLanding c x) s = .next t ∧ (t.ctx c x).nxt = rest ∧ (t.ctx c x).rd b = p.row ∧
      (t.ctx c x).rd (b + 1) = p.col ∧ (t.ctx c x).rd (b + 2) = p.item ∧ (t.ctx c x).rd (b + 3) = p.flags ∧
      (∀ r, r < b ∨ b + 4 ≤ r → (t.ctx c x).rd r = (s.ctx c x).rd r) ∧
      { t.ctx c x with s := [], nxt := [] } = { s.ctx c x with s := [], nxt := [] }) ∧
  ∀ (s : State) (l d : Nat) (v : Launch), Tab.find s.launches l = some v →
    (v.die = d ∨ (recDies v.bytes).length = 1 → exec (.stepBlockRefill l d) s = .next s) ∧
    (v.die ≠ d → (recDies v.bytes).length ≠ 1 → recKind v.bytes ≠ 0 → d ∈ recDies v.bytes → v.est.stopped = false → (Tab.find v.blocks d = none ∨ ∃ a, Tab.find v.blocks d = some (a, a) ∧ a < recSteps v.bytes) →
    let a := min v.step (recSteps v.bytes)
    let b := min (a + 64) (recSteps v.bytes)
    ∃ t w, exec (.stepBlockRefill l d) s = .next t ∧ Tab.find t.launches l = some w ∧ w.step = b ∧ Tab.find w.blocks d = some (a, b) ∧
      { w with blocks := [], step := 0 } = { v with blocks := [], step := 0 } ∧ t.cores = s.cores)

/-- R299, R300, R302, R419: LAUNCH_DISPATCH from step 7 on, with no record to reject: of the eligible records that can
start, the one of highest priority and of these the one longest visible becomes a launch with the next number: its
contexts are ready at ENTRY with their arguments and bounds, once the mapped pages of their image that their cores
lack are filled, and an intake's record leaves the intake. Considered are the head records of the queues and of the
intakes. Before step 7 nothing is dispatched. -/
def Obligations.LaunchStarts : Prop :=
  ∀ (s : State) (d : Nat),
    (s.step < 7 ∨ s.tripped = true → exec (.launchDispatch d) s = .next s) ∧
    (7 ≤ s.step → s.tripped = false →
      let u := s.noteTails d
      ∀ (h : Nat) (r : Cand), (h, r) ∈ u.considered d →
        (∀ q ∈ u.considered d, q.2.src = .intake ∨ recordOk u q.2.proc q.2.bytes = true) →
        (∀ i, i < 4 → recDepc r.bytes i = 0 ∨ i ∈ r.deps) → u.canStart r.bytes = true →
        (∀ q ∈ u.considered d, q.2.eligible = true → u.canStart q.2.bytes = true → q ≠ (h, r) →
          recPri q.2.bytes < recPri r.bytes ∨ (recPri q.2.bytes = recPri r.bytes ∧ r.since < q.2.since)) →
        ∃ t v, exec (.launchDispatch d) s = .next t ∧ Tab.find t.launches u.stamp = some v ∧ v.bytes = r.bytes ∧ v.proc = r.proc ∧
          v.st = .live ∧ v.step = 0 ∧ v.saved = [] ∧
          (∀ l, l ≠ u.stamp → Tab.find t.launches l = Tab.find s.launches l) ∧
          (∀ a ∈ recClaims u.stamp r.bytes,
            let y := t.ctx a.core a.num
            y.st = .ready ∧ y.launch = u.stamp ∧ y.pc = BitVec.ofNat 48 (recEntry r.bytes) ∧
            (∀ i, i < 8 → y.rd (2 + i) = BitVec.ofNat 64 (recNat r.bytes (0xC0 + 8 * i) 8)) ∧
            y.rb = BitVec.ofNat 24 (recRb r.bytes) ∧ y.qb = BitVec.ofNat 24 (recQb r.bytes) ∧ y.vbase = a.ctx.vbase ∧
            y.vunits = recVrfUnits r.bytes ∧ y.tiles = a.ctx.tiles ∧ y.tk = [] ∧ y.loops = [] ∧ y.runCount = 0 ∧
            ∀ e, u.entry r.proc (recCodeH r.bytes) clCode = some e → e.present.length ≤ 128 →
              ∀ g, g ∈ y.fills ↔ g ∈ e.present ∧ (u.core a.core).page r.proc (recCodeH r.bytes) (1024 * g) = none) ∧
          (r.src = .intake → (t.die h).cands = (u.die h).cands.erase r))

/-- R99, R207, R215, R270, R271, R305: how launches end. LAUNCH_RETIREMENT of a finished launch without records writes
its status and adds one to the word at offset 16 of its completion block, and the launch is no more; its contexts are
free, their registers as they stand (when a halted context gives its place up: assumption log 92, DEDUCED).
FAULT_TERMINATE stops every context of a faulted context's launch and keeps the fault's code; it ends a launch likewise
at a halted context of whose wait the firmware has been told, with a code of the model's (assumption log 93, DESIGN
CHOICE, a free value). ROLLBACK stops the contexts of a launch, and starts it again once they have settled.
HALT_WAIT_EVENT tells the firmware once of a wait of 2^24 cycles. -/
def Obligations.LaunchEnds : Prop :=
  ∀ (s : State) (l : Nat) (v : Launch), Tab.find s.launches l = some v →
    (memoriesOk s → Tab.wf s.launches = true → v.st = .live → v.rollback = false → recKind v.bytes = 0 → s.allHalted l v = true →
      (s.proc v.proc).patches = [] → s.endGate l v = none →
      let i := hIndex (recDoneH v.bytes)
      let off := recDoneOff v.bytes
      ∃ t, exec (.launchRetirement l) s = .next t ∧ Tab.find t.launches l = none ∧
        (∀ q ∈ s.held l v.bytes, let y := t.ctx q.1 q.2.1
          y.st = .free ∧ y.launch = 0 ∧ y.n = [] ∧ y.flues = [] ∧ y.s = q.2.2.s ∧ y.q = q.2.2.q ∧ y.k = q.2.2.k ∧ y.x = q.2.2.x ∧
            y.h = q.2.2.h ∧ y.rmode = q.2.2.rmode ∧ y.sc = q.2.2.sc ∧ y.sig = q.2.2.sig) ∧
        (∀ c p, (t.core c).vec p = (s.core c).vec p) ∧
        (recDoneH v.bytes ≠ 0 → syncRange s v.proc (recDoneH v.bytes) off 64 = true → intact s →
          let old := (s.handle v.proc i).data
          let new := (t.handle v.proc i).data
          Memory.readNat new off 8 = v.relaunched.toNat * 2 ^ 23 ∧ Memory.readNat new (off + 8) 8 = 0 ∧
          Memory.readNat new (off + 16) 8 = (Memory.readNat old (off + 16) 8 + 1) % 2 ^ 64 ∧
          ∀ a, a < off ∨ off + 24 ≤ a → Memory.read new a = Memory.read old a)) ∧
    (∀ c x, (s.ctx c x).st = .faulted → (s.ctx c x).launch = l → v.st = .live →
      ∃ t w, exec (.faultTerminate c x) s = .next t ∧ Tab.find t.launches l = some w ∧
        w.st = .ended ((Tab.get (s.ctx c x).fr 0 0).toNat % 256) x c ∧ w.saved = [] ∧
        ∀ q ∈ s.held l v.bytes, (t.ctx q.1 q.2.1).st = .stopped ∧ (t.core q.1).running ≠ some q.2.1) ∧
    (∀ c x, (s.ctx c x).st = .halted → 2 ^ 24 < (s.ctx c x).haltWait → (s.ctx c x).launch = l → v.st = .live →
      ∃ t w code, exec (.faultTerminate c x) s = .next t ∧ Tab.find t.launches l = some w ∧ w.st = .ended code 0 0 ∧
        w.saved = [] ∧ ∀ q ∈ s.held l v.bytes, (t.ctx q.1 q.2.1).st = .stopped) ∧
    (v.rollback = true → (∃ q ∈ s.held l v.bytes, q.2.2.st ≠ .stopped) →
      ∃ t, exec (.rollback l) s = .next t ∧ ∀ q ∈ s.held l v.bytes, (t.ctx q.1 q.2.1).st = .stopped) ∧
    (v.rollback = true → (∀ q ∈ s.held l v.bytes, q.2.2.st = .stopped ∧ s.settled q.1 q.2.1 = true) →
      ∃ t w, exec (.rollback l) s = .next t ∧ Tab.find t.launches l = some w ∧ w.relaunched = true ∧ w.rollback = false ∧
        w.step = 0 ∧ w.est = DevEst.reset ∧ w.blocks = [] ∧
        ∀ a ∈ recClaims l v.bytes, (∀ q ∈ v.saved, ¬ (q.core = a.core ∧ q.num = a.num)) →
          (∀ q ∈ s.holders a, q.2.launch = l) →
          { t.ctx a.core a.num with fills := [] } = a.ctx) ∧
    (v.rollback = false → exec (.rollback l) s = .next s) ∧
    ((∃ q ∈ s.held l v.bytes, q.2.2.haltWait = 2 ^ 24) → ∃ t, exec (.haltWaitEvent l) s = .next t ∧
      t.notices = s.notices ++ [.haltWait l] ∧ ∀ q ∈ s.held l v.bytes, (t.ctx q.1 q.2.1).haltWait ≠ 2 ^ 24) ∧
    ((∀ q ∈ s.held l v.bytes, q.2.2.haltWait ≠ 2 ^ 24) → exec (.haltWaitEvent l) s = .next s)

/-- R26, R203, R206–R208: EVICTION_SAVE of a marked context that is being evicted, or has faulted, whose run is over
and which has settled: its registers, vectors and withdrawn operations are saved with its launch (assumption log 54,
DESIGN CHOICE: beside the launch, not in the bytes of its SAVE region) and its place is free; before that it waits.
EVICTION_RESUME of the only launch that waits for the place gives them back once no resident context holds what it
needs, no eligible record and no saved kernel of higher priority goes before it (assumption log 53, DEDUCED) and the channels
have places for the operations.
Both reach the save area, whose entry is valid and to which no access is held before them. -/
def Obligations.Evictions : Prop :=
  ∀ (s : State) (c x : Nat),
    let y := s.ctx c x
    let out := y.st = .evicting ∨ y.st = .faulted
    let ran := (s.core c).running ≠ some x
    (¬ (y.marked = true ∧ out ∧ ran ∧ s.settled c x = true) → exec (.evictionSave c x) s = .next s) ∧
    (y.marked = true → out → ran → s.settled c x = true → intact s → Tab.wf (s.core c).ctxs = true →
      ∀ w e, Tab.find s.launches y.launch = some w → s.lookup w.proc (recSaveH w.bytes) clSave = .ok e →
      s.saveGate w c x = none →
      ∃ t v, exec (.evictionSave c x) s = .next t ∧ Tab.find (t.core c).ctxs x = none ∧
        Tab.find t.launches y.launch = some { w with saved := w.saved ++ [v] } ∧ v.core = c ∧ v.num = x ∧ v.ctx = y ∧
        (∀ p, 64 * y.vbase ≤ p → p < 64 * (y.vbase + y.vunits) → Tab.get v.vrf p 0 = (s.core c).vec p) ∧
        (∀ q, y.hasTile q = true → Tab.get v.tiles q Tile.reset = (s.core c).tile q) ∧
        v.ops = (s.core c).dops.filter (fun o => decide (o.ctx = x)) ∧ (∀ o ∈ (t.core c).dops, o.ctx ≠ x)) ∧
    ∀ (l : Nat) (w : Launch) (v : Saved), Tab.find s.launches l = some w → s.waiting c x = [(l, w)] →
      w.saved.find? (fun q => decide (q.core = c) && decide (q.num = x)) = some v → Tab.wf v.vrf = true →
      let room := ∀ b : Bool, (s.core v.core).chanLoad b + v.ops.countP (fun o => o.chanB == b) ≤ 32
      (∀ e, intact s → room → s.holders v.claim = [] → s.outranked (recPri w.bytes) v.claim = false →
        s.lookup w.proc (recSaveH w.bytes) clSave = .ok e → s.saveGate w c x = none →
        ∃ t, exec (.evictionResume c x) s = .next t ∧
          (t.ctx c x).st = (if v.ctx.st = .faulted then .faulted else .ready) ∧ (t.ctx c x).marked = false ∧
          (t.ctx c x).nxt = [] ∧ (t.ctx c x).pc = v.ctx.pc ∧ (t.ctx c x).quietCount = 0 ∧ (t.ctx c x).runCount = 0 ∧
          (v.ctx.nxt = [] → (t.ctx c x).s = v.ctx.s) ∧ (t.ctx c x).tk = v.ctx.tk ∧
          (∀ p, 64 * v.ctx.vbase ≤ p → p < 64 * (v.ctx.vbase + v.ctx.vunits) → (t.core c).vec p = Tab.get v.vrf p 0) ∧
          (t.core c).dops = (s.core c).dops ++ v.ops.map DOp.again ∧
          Tab.find t.launches l = some { w with saved := w.saved.erase v }) ∧
      (¬ room ∨ s.holders v.claim ≠ [] ∨ s.outranked (recPri w.bytes) v.claim = true → exec (.evictionResume c x) s = .next s)

/-! ### Events: links, tables and estimators -/

/-- R310, R311, R401: SEND_QUEUE_ENTRY sends a SEND's rows, in order, toward its peer, at once, its message kept among
those that have left (assumption log 49, DESIGN CHOICE), or into a queue of this device with room in its 1,024 flits of
256 bytes (assumption log 75, DEDUCED); FLIT_ARRIVAL enters a message that fits; RECV_GRANT gives the first
message to the RECV that came first, with its length, up to the last cycle of its time (assumption log 48, DEDUCED),
and LINK_RECEIVE_TIMEOUT ends a RECV that has waited its time since its producers completed, whether or not it has
reached the link engine, with 0x35. A retry changes nothing. -/
def Obligations.Links : Prop :=
  (∀ (s : State) (c i addr peer n : Nat) (vrf : Bool) (o : DOp) (ch : Chan), engineAt s c i o → o.kind = .send vrf addr peer n →
    linkBlocked (s.core c) i o = false →
    let p := s.procOf (s.ctx c o.ctx)
    (s.proc p).chan peer n = some ch →
    ∃ m : List Byte, (vrf = false → m = (List.range (shRows o.smp.shape)).flatMap (fun r =>
        Memory.readRun (s.cluster (c / 8)).spl ((addr : Int) + (r : Nat) * shSstr o.smp.shape).toNat (shRowb o.smp.shape))) ∧
      m.length = shRows o.smp.shape * shRowb o.smp.shape ∧
      (peer ≠ s.node → ∃ t, exec (.sendQueueEntry c i) s = .next t ∧ completes s t c i o false ∧
        (t.proc p).chan peer n = some { ch with tx := ch.tx ++ [m] }) ∧
      (peer = s.node → ch.fits m = true → ∃ t, exec (.sendQueueEntry c i) s = .next t ∧ completes s t c i o false ∧
        (t.proc p).chan peer n = some { ch with rx := ch.rx ++ [m] }) ∧
      (peer = s.node → ch.fits m = false → exec (.sendQueueEntry c i) s = .next s)) ∧
  (∀ (ch : Chan) (m : List Byte), ch.fits m = true ↔
    ((ch.rx ++ [m]).map (fun x : List Byte => if x = [] then 1 else (x.length + 255) / 256)).sum ≤ 1024) ∧
  (∀ (s : State) (p peer n : Nat) (m : List Byte) (ch : Chan), (s.proc p).chan peer n = some ch → m.length ≤ 262144 →
    (ch.fits m = true → ∃ t, exec (.flitArrival p peer n m) s = .next t ∧
      (t.proc p).chan peer n = some { ch with rx := ch.rx ++ [m] } ∧ t.cores = s.cores ∧ t.clusters = s.clusters) ∧
    (ch.fits m = false → exec (.flitArrival p peer n m) s = .next s)) ∧
  (∀ (s : State) (c i addr peer n d u : Nat) (vrf : Bool) (o : DOp) (ch : Chan) (m : List Byte) (rest : List (List Byte)),
    memoriesOk s → engineAt s c i o → o.kind = .recv vrf addr peer n d u →
    let p := s.procOf (s.ctx c o.ctx)
    (s.proc p).chan peer n = some ch →
    (ch.rx = m :: rest → ch.recvs.head? = some (c, o.id) → u = 0 ∨ o.waited ≤ u →
      ∃ t, exec (.recvGrant c i) s = .next t ∧ completes s t c i o false ∧
        (t.proc p).chan peer n = some { ch with rx := rest, recvs := ch.recvs.drop 1, granted := ch.granted + 1 } ∧
        (d ≠ 0 → (t.ctx c o.ctx).rd d = BitVec.ofNat 64 m.length) ∧
        (vrf = false → shRows o.smp.shape = 1 → m.length ≤ shRowb o.smp.shape →
          (∀ k, k < m.length → Memory.read (t.cluster (c / 8)).spl (addr + k) = m.getD k 0) ∧
          ∀ k, k < addr ∨ addr + m.length ≤ k →
            Memory.read (t.cluster (c / 8)).spl k = Memory.read (s.cluster (c / 8)).spl k)) ∧
    (ch.rx = [] ∨ ch.recvs.head? ≠ some (c, o.id) → exec (.recvGrant c i) s = .next s) ∧
    (1 ≤ u → u ≤ o.waited → (s.ctx c o.ctx).st ≠ .halted → ∃ t, exec (.linkReceiveTimeout c i) s = .next t ∧
      failsWith s t c i o (faultRec 0x35 none) ∧
      (t.proc p).chan peer n = some { ch with recvs := ch.recvs.filter (fun r => decide (r ≠ (c, o.id))) }) ∧
    (u = 0 ∨ o.waited < u → exec (.linkReceiveTimeout c i) s = .next s)) ∧
  (∀ (s : State) (c i addr peer n d u : Nat) (vrf : Bool) (o : DOp), (s.core c).dops[i]? = some o →
    o.kind = .recv vrf addr peer n d u → o.started = false → o.performed = false → o.poison = none → o.waits = [] →
    (1 ≤ u → u ≤ o.waited → (s.ctx c o.ctx).st ≠ .halted → ∃ t, exec (.linkReceiveTimeout c i) s = .next t ∧
      failsWith s t c i o (faultRec 0x35 none)) ∧
    (u = 0 ∨ o.waited < u → exec (.linkReceiveTimeout c i) s = .next s)) ∧
  ∀ s : State, exec .flitRetry s = .next s

/-- R326–R329, R407: REVOCATION_STORAGE_FREE frees a revoked region's contents once no operation that was in flight at
its revocation is; MIGRATION_COPY_DONE makes a migrating region VALID at its new place, with its contents, and tells
the firmware, and then makes the accesses of hosts and devices that the replay queues hold, each when it is the
oldest; PULL_LINE_FETCH and PULL_BACKGROUND_FETCH mark absent lines present, the latter in ascending order, and
PULL_COMPLETION ends a pull whose lines are all present. -/
def Obligations.RegionsMove : Prop :=
  ∀ (s : State) (p i : Nat),
    let h := s.handle p i
    let gone := ∀ q ∈ h.live, (s.core q.1).inFlight q.2 = false
    let bare := fun (k : Core) => { k with hcA := [], hcB := [] }
    (h.st = .revoked → h.held = true → gone → ∃ t, exec (.revocationStorageFree p i) s = .next t ∧ (t.handle p i).st = .revoked ∧
      (t.handle p i).gen = h.gen ∧ (t.handle p i).cls = h.cls ∧ (t.handle p i).held = false ∧ (t.handle p i).rows = h.rows ∧
      (t.handle p i).cols = h.cols ∧ (t.handle p i).data = [] ∧ (t.handle p i).base = [] ∧
      (t.handle p i).rays = h.rays ∧ (∀ j, j ≠ i → t.handle p j = s.handle p j) ∧ t.cores = s.cores) ∧
    (h.st ≠ .revoked ∨ h.held = false ∨ ¬ gone → exec (.revocationStorageFree p i) s = .next s) ∧
    (∀ q, h.st = .migrating → h.plan = some q → ∃ t, exec (.migrationCopyDone p i) s = .next t ∧
      t.handle p i = { h with st := .valid, place := q, old := none, plan := none } ∧ t.notices = s.notices ++ [.migrated p i] ∧
      t.replays = s.replays ∧ ∀ c, bare (t.core c) = bare (s.core c)) ∧
    (h.st ≠ .migrating → (∀ q ∈ s.replays, ∀ a, (s.heldFor q.1 p i).head? = some a → ∃ c o, a.what = .op c o) →
      exec (.migrationCopyDone p i) s = .next s) ∧
    (∀ k (a : HostAccess) len, intact s → s.replays = [(k, [⟨p, i, .hostRead a len⟩])] → a.proc = p → p ≠ 0 → hIndex a.handle = i →
      s.lookup p a.handle clQbody = .ok h → h.host = some a.host → 8 ≤ len → len ≤ 256 → a.offset % 8 = 0 → a.offset + len ≤ h.len →
      ∃ t, exec (.migrationCopyDone p i) s = .next t ∧ t.replays = [] ∧
        Tab.find t.resp a.host = some ⟨0, Memory.readRun h.data a.offset len⟩ ∧ t.cores = s.cores) ∧
    (∀ line, h.pull = true → line < h.lineCount → ∃ t, exec (.pullLineFetch p i line) s = .next t ∧
      (∀ n, n ∈ (t.handle p i).present ↔ n = line ∨ n ∈ h.present) ∧
      { t.handle p i with present := [] } = { h with present := [] } ∧ t.cores = s.cores) ∧
    (∀ n v, h.pull = true → s.procs = [(p, v)] → v.handles = [(i, h)] → n < h.lineCount → n ∉ h.present →
      (∀ k, k < n → k ∈ h.present) → ∃ t, exec .pullBackgroundFetch s = .next t ∧
        (∀ k, k ∈ (t.handle p i).present ↔ k = n ∨ k ∈ h.present) ∧ t.cores = s.cores) ∧
    ((∀ v ∈ s.procs, ∀ e ∈ v.2.handles, e.2.pull = false) → exec .pullBackgroundFetch s = .next s) ∧
    (h.pull = true → (∀ n, n < h.lineCount → n ∈ h.present) → ∃ t, exec (.pullCompletion p i) s = .next t ∧
      t.handle p i = { h with pull := false, old := none, present := [] } ∧ t.notices = s.notices ++ [.migrated p i]) ∧
    (h.pull = false ∨ (∃ n, n < h.lineCount ∧ n ∉ h.present) → exec (.pullCompletion p i) s = .next s)

/-- R336–R340: the estimators. A partial estimator takes its samples in their order: a finite one updates n, mean and
M2, the 64th sends them as a batch, one that is not finite is counted, and one after the stop is late. The device
estimator merges the batch that came first, the very first as it is; it stops no earlier than at Nmin. A unit receives
the stop once. The remainders of a launch whose contexts have all halted are merged, and its partial estimators end. -/
def Obligations.Estimators : Prop :=
  (∀ (s : State) (k : Nat) (x : Word) (rest : List Word) (l : Launch), (s.cluster k).est.samples = x :: rest →
    Tab.find s.launches (s.cluster k).est.launch = some l →
    let e := (s.cluster k).est
    let fin := x.toNat / 2 ^ 52 % 2 ^ 11 ≠ 2047
    let d := subD x e.mean
    let mean := addD e.mean (divD d (natD (e.n + 1)))
    let m2 := addD e.m2 (mulD d (subD x mean))
    let gives := fun (e' : PartEst) (l' : Launch) => ∃ t, exec (.partialEstimatorSample k) s = .next t ∧
      (t.cluster k).est = e' ∧ Tab.find t.launches e.launch = some l' ∧ t.cores = s.cores
    (e.stopped = true → gives { e with samples := rest } { l with est := { l.est with late := min (l.est.late + 1) (2 ^ 32 - 1) } }) ∧
    (e.stopped = false → ¬ fin →
      gives { e with samples := rest } { l with est := { l.est with nonfin := min (l.est.nonfin + 1) (2 ^ 24 - 1) } }) ∧
    (e.stopped = false → fin → e.n ≠ 63 → gives { e with n := e.n + 1, mean := mean, m2 := m2, samples := rest } l) ∧
    (e.stopped = false → fin → e.n = 63 →
      gives { e with n := 0, mean := 0, m2 := 0, samples := rest } { l with batches := l.batches ++ [(64, mean, m2)] })) ∧
  ∀ (s : State) (l : Nat) (v : Launch), Tab.find s.launches l = some v →
    (∀ n m q rest, v.batches = (n, m, q) :: rest → ∃ t w, exec (.batchMerge l) s = .next t ∧ Tab.find t.launches l = some w ∧
      w.batches = rest ∧
      (v.est.stopped = true → w.est = { v.est with late := min (v.est.late + n) (2 ^ 32 - 1) }) ∧
      (v.est.stopped = false → w.est.n = v.est.n + n ∧ w.est.late = v.est.late ∧
        (v.est.n = 0 → w.est.mean = m ∧ w.est.m2 = q) ∧
        (v.est.n ≠ 0 → w.est.mean = addD v.est.mean (mulD (subD m v.est.mean) (quotD n (v.est.n + n)))) ∧
        (v.est.n + n < recNmin v.bytes → w.est.stopped = false) ∧
        (recNmin v.bytes ≤ v.est.n + n → (w.est.stopped = true ↔ fCond fp64 3 w.est.half.toNat (recTol v.bytes).toNat = true)) ∧
        t.notices = s.notices ++ (if w.est.stopped then [.estStop l] else []))) ∧
    (∀ k, k < 16 → v.est.stopped = true → (s.cluster k).est.launch = l → (s.cluster k).est.stopped = false →
      ∃ t, exec (.stopReceipt l k) s = .next t ∧ (t.cluster k).est.stopped = true ∧ (t.cluster k).est.n = 0 ∧
        (t.cluster k).est.samples = (s.cluster k).est.samples ∧
        Tab.find t.launches l = some { v with est := { v.est with late := min (v.est.late + (s.cluster k).est.n) (2 ^ 32 - 1) } }) ∧
    (∀ d, v.est.stopped = true → d ∈ recDies v.bytes → d ∉ v.stops →
      ∃ t, exec (.stopReceipt l (16 + d)) s = .next t ∧ Tab.find t.launches l = some { v with stops := v.stops ++ [d] }) ∧
    (∀ u, v.est.stopped = false → exec (.stopReceipt l u) s = .next s) ∧
    (recKind v.bytes = 3 → v.est.stopped = false → v.est.merged = false → v.st = .live → v.rollback = false → v.batches = [] →
      s.allHalted l v = true → s.drained l v = true →
      ∃ t w, exec (.remainderMerge l) s = .next t ∧ Tab.find t.launches l = some w ∧ w.est.merged = true ∧ w.batches = [] ∧
        (∀ k ∈ recClusters v.bytes, (s.cluster k).est.launch = l →
          (t.cluster k).est.stopped = true ∧ (t.cluster k).est.n = 0) ∧
        ((∀ k ∈ recClusters v.bytes, (s.cluster k).est.launch = l → (s.cluster k).est.n = 0) → w.est = { v.est with merged := true }) ∧
        ∀ k, recClusters v.bytes = [k] → (s.cluster k).est.launch = l → (s.cluster k).est.n ≠ 0 →
          w.est.n = v.est.n + (s.cluster k).est.n)

/-! ### Events: the device and its mailbox -/

/-- R350, R416–R420, R422–R424: a scrub counts what it finds, and poisons the granule of an uncorrectable error of a tensor's base; a
power estimate sets TL, 7 from 105 °C on, and counts TCYC while TL is not 0; the firmware writes PLIMIT, in its range,
TCYC and the error counters. POWER_GOOD, THERMAL_RECOVERY and WATCHDOG_RESET bring an empty device up: it measures the
images it accepts, stops at one that it refuses, is held by a first reading above 95 °C, and takes its number from its
first port. THERMAL_TRIP holds it in reset. The number from the first report and the ports that answer: assumption log
62 (DEDUCED); the hold at the first reading, the repeated bring-up and the steps from which firmware writes and
estimates act: assumption log 63 (DEDUCED). -/
def Obligations.DeviceServices : Prop :=
  ∀ s : State,
    let rises := fun (t : State) (d e : Nat) => Tab.get (t.die d).errs e 0 = min (Tab.get (s.die d).errs e 0 + 1) (2 ^ 32 - 1)
    let up := fun (b : BringUp) (i : Instr) => ∃ t, exec i s = .next t ∧
      let im := fun (k : Nat) => b.images.getD k []
      let ok := fun (k : Nat) => imageOk (k + 1) (im k)
      let zero : List Byte := List.replicate 32 0
      t.cores = [] ∧ t.clusters = [] ∧ t.dies = [] ∧ t.launches = [] ∧ t.damaged = [] ∧ t.weak = [] ∧ t.replays = [] ∧
      (ok 0 = false → t.failed = true ∧ t.step = 0 ∧ t.accepted = 0 ∧ t.chain = zero ∧ t.portsUp 0 = true ∧ t.portsUp 1 = false) ∧
      (ok 0 = true → 95 < b.temp → t.tripped = true ∧ t.step = 1) ∧
      (ok 0 = true → b.temp ≤ 95 → t.tripped = false ∧ (ok 1 = true → ok 2 = true → ∀ q n rest, portNumbers b = (q, n) :: rest →
        t.step = 7 ∧ t.node = n ∧ t.accepted = 3 ∧ t.failed = false ∧
        t.chain = measure (measure (measure zero (im 0)) (im 1)) (im 2) ∧ t.portsUp 1 = true))
    exec (.scrubRead .clean) s = .next s ∧
    (∀ d, d < 4 → ∃ t, exec (.scrubRead (.corrected d)) s = .next t ∧ rises t d 3 ∧ t.procs = s.procs) ∧
    (∀ p i g, (s.handle p i).cls = clTensor → (s.handle p i).st = .valid → (s.handle p i).granElems g ≠ [] →
      g ∉ (s.handle p i).poison → ∃ t, exec (.scrubRead (.uncorrectable p i g)) s = .next t ∧
        (t.handle p i).poison = (s.handle p i).poison ++ [g] ∧ (t.handle p i).base = (s.handle p i).base ∧
        (∀ b, .base p i g b ∉ t.damaged) ∧ rises t ((s.handle p i).dieAt g) 4 ∧ rises t ((s.handle p i).dieAt g) 7) ∧
    (∀ d w, d < 4 → w ∈ s.damaged → w.inHbm = true → w.isBase = false → s.damageDie w = d →
      ∃ t, exec (.scrubRead (.standing d)) s = .next t ∧ rises t d 4 ∧ t.procs = s.procs ∧ t.damaged = s.damaged) ∧
    (∀ d watts temp, 2 ≤ s.step → s.tripped = false → d < 4 → ∃ t, exec (.powerEstimate d watts temp) s = .next t ∧
      (t.die d).tl ≤ 7 ∧ ((t.die d).hot = true ↔ 105 ≤ temp) ∧ (105 ≤ temp → (t.die d).tl = 7) ∧
      (t.die d).tcyc = (if (t.die d).tl = 0 then (s.die d).tcyc else min ((s.die d).tcyc + 1) (2 ^ 32 - 1)) ∧
      (t.die d).plimit = (s.die d).plimit ∧ (∀ e, e ≠ d → t.die e = s.die e) ∧ t.cores = s.cores) ∧
    (∀ d (w : Word), 5 ≤ s.step → s.tripped = false → d < 4 →
      (let lim := w.toNat / 2 ^ 16 % 2 ^ 16
       ∃ t, exec (.firmwareRegisterWrite d 0 w) s = .next t ∧
        (t.die d).plimit = (if 600 ≤ lim ∧ lim ≤ 2400 then lim else (s.die d).plimit) ∧
        (∀ b, b < 32 → ((t.die d).tcyc.testBit b = true ↔ (s.die d).tcyc.testBit b = true ∧ w.getLsbD (32 + b) = false)) ∧
        (t.die d).tl = (s.die d).tl) ∧
      ∀ k, k < 8 → ∃ t, exec (.firmwareRegisterWrite d (k + 1) w) s = .next t ∧
        (∀ e, Tab.get (t.die d).errs e 0 = if e = k then w.toNat % 2 ^ 32 else Tab.get (s.die d).errs e 0)) ∧
    (∀ b, s.step = 0 → s.failed = false → s.tripped = false → up b (.powerGood b)) ∧
    (s.tripped = true → up { s.boot with temp := 0 } .thermalRecovery) ∧
    (s.tripped = false → exec .thermalRecovery s = .next s) ∧
    (5 ≤ s.step → s.tripped = false → up { s.boot with temp := 0 } .watchdogReset) ∧
    (s.tripped = false → s.step ≠ 0 → ∃ t, exec .thermalTrip s = .next t ∧ t.tripped = true ∧ t.step = 0 ∧ t.cores = [] ∧
      t.clusters = [] ∧ t.procs = [] ∧ t.launches = [] ∧ t.accepted = 0)

/-- R314, R317, R319, R326–R328, R409, R410: the firmware answers the next record of a code in its ring: MAP gives the least
free index a VALID entry of the region's layout, with zero contents or with those that a QBODY region holds, and for a CODE
handle extends its mapped pages, its entry leaving every cache; UNMAP revokes a handle and raises its generation; MIGRATE starts a
stop-and-copy of a small region or a pull of a large one; CREATEP gives the least process number, empty; DESTROYP of one
that is not in use revokes its handles, drops its records that wait in an intake (assumption log 98, DESIGN CHOICE), and ends
it once their storage is free, its patch records with it (the records are the model's reading: assumption log 69, DEDUCED);
RMRAY removes a ray without pins or children. Reserved bytes that are set are answered as malformed. The least index and
number are assumption log 65 (DESIGN CHOICE), the lowest host first log 18 (DESIGN CHOICE), and what the memory holds,
in pages of 2 MiB, log 12 (DESIGN CHOICE). -/
def Obligations.MailRegions : Prop :=
  ∀ (s : State) (r : Req), memoriesOk s →
    let p := r.proc
    let valid := fun (named : List (Nat × Nat)) => r.clean named = true ∧ p ≠ 0 ∧ (s.proc p).alive = true
    let answered := fun (i : Instr) (status result : Nat) (P : State → Prop) =>
      ∃ t, exec i s = .next t ∧ mailAnswered s t r status result ∧ P t
    (∀ i, mailNext s 0x01 r → valid [(0x08, 36)] → s.mapReady r = true → r.mapArgs.ok = true → r.nat 0x09 1 < 8 →
      r.mapArgs.src = 0 ∨ r.mapArgs.cls = clSync →
      r.mapArgs.cls ≠ clCode ∨ r.mapArgs.handle = 0 → (s.proc p).newIndex = some i → (s.handle p i).gen < 256 →
      let bare := r.mapArgs.region s.node s.draws r.host none
      let new : Handle := { bare with
        gen := (s.handle p i).gen
        place := { bare.place with runs := s.runsFor p r.mapArgs.stack r.mapArgs.cls bare.unitBytes bare.units } }
      (s.setHandle p i new).fits = true →
      answered .map 0 (i + (s.handle p i).gen * 2 ^ 24) (fun t => t.handle p i = new ∧ new.st = .valid ∧
        (∀ j, j ≠ i → t.handle p j = s.handle p j) ∧ t.cores = s.cores)) ∧
    (∀ i e, mailNext s 0x01 r → valid [(0x08, 36)] → s.mapReady r = true → r.mapArgs.ok = true → r.nat 0x09 1 < 8 →
      r.mapArgs.src ≠ 0 → s.lookup p r.mapArgs.src clQbody = .ok e → r.mapArgs.cls ≠ clSync → intact s →
      r.mapArgs.cls ≠ clCode ∨ r.mapArgs.handle = 0 → (s.proc p).newIndex = some i → (s.handle p i).gen < 256 →
      let a := r.mapArgs
      let bare := a.region s.node s.draws r.host (some e.data)
      let runs := s.runsFor p a.stack a.cls bare.unitBytes bare.units
      let f := (Sfmt.ofCode a.fmt).getD .fp32
      (e.len < a.off + a.srcBytes → answered .map 1 0 (fun t => t.proc p = s.proc p)) ∧
      (a.off + a.srcBytes ≤ e.len → (s.setHandle p i { bare with
          gen := (s.handle p i).gen
          place := { bare.place with runs := runs } }).fits = true →
        answered .map 0 (i + (s.handle p i).gen * 2 ^ 24) (fun t =>
          let h := t.handle p i
          h.st = .valid ∧ h.cls = a.cls ∧ h.gen = (s.handle p i).gen ∧ h.held = true ∧ h.place.runs = runs ∧
          (a.cls ≠ clTensor → h.len = a.len ∧
            ∀ b, Memory.read h.data b = if b < a.len then Memory.read e.data (a.off + b) else 0) ∧
          (a.cls = clTensor → h.fmt = a.fmt ∧ h.scl = a.scl ∧ h.auto = a.auto ∧ h.rows = a.rows ∧ h.cols = a.cols ∧
            (∀ n, n < a.rows * a.cols → Tab.get h.base n 0 = memBits e.data a.off (f.bits * n) f.bits) ∧
            (a.scl = true → ∀ m g, m < a.rows → g < a.cols / 32 → Tab.get h.idx (m * (a.cols / 32) + g) 0 =
              memBits e.data (a.off + a.baseBytes + m * planeRow a.cols) (4 * g) 4)) ∧
          (a.cls = clCode → h.present = List.range (a.len / 1024)) ∧ t.cores = s.cores ∧
          ∀ j, j ≠ i → { t.handle p j with present := [] } = { s.handle p j with present := [] }))) ∧
    (∀ e, mailNext s 0x01 r → valid [(0x08, 36)] → s.mapReady r = true → r.mapArgs.ok = true → r.nat 0x09 1 < 8 →
      r.mapArgs.cls = clCode → r.mapArgs.handle ≠ 0 → s.lookup p r.mapArgs.handle clCode = .ok e → intact s →
      let a := r.mapArgs
      let i := hIndex a.handle
      let runs := e.place.runs ++ s.runsFor p a.stack clCode Config.pageBytes (pagesFor a.len - pagesFor e.len)
      let extends_ := fun (fresh : Nat → Byte) =>
        (s.setHandle p i { e with len := a.len, place := { e.place with runs := runs } }).fits = true →
        answered .map 0 a.handle.toNat (fun t =>
          let h := t.handle p i
          { h with data := [] } =
            { e with len := a.len, present := List.range (a.len / 1024), place := { e.place with runs := runs }, data := [] } ∧
          (∀ b, Memory.read h.data b = if e.len ≤ b ∧ b < a.len then fresh b else Memory.read e.data b) ∧
          (∀ k, (p, i) ∉ (t.cluster k).hc) ∧ (∀ c, (p, i) ∉ (t.core c).hcA ∧ (p, i) ∉ (t.core c).hcB) ∧
          ∀ j, j ≠ i → { t.handle p j with present := [] } = { s.handle p j with present := [] })
      (a.len < e.len → answered .map 1 0 (fun t => t.proc p = s.proc p)) ∧
      (e.len ≤ a.len → a.src = 0 → extends_ (fun b => Memory.read e.data b)) ∧
      (e.len ≤ a.len → ∀ q, a.src ≠ 0 → s.lookup p a.src clQbody = .ok q → a.off + a.len ≤ q.len →
        extends_ (fun b => Memory.read q.data (a.off + b)))) ∧
    (∀ i e, mailNext s 0x02 r → valid [(0x08, 4)] → s.named p (r.h32 0x08) = some (i, e) →
      answered .unmap 0 0 (fun t => (t.handle p i).st = .revoked ∧ (t.handle p i).gen = (e.gen + 1) % 256 ∧
        (∀ j, j ≠ i → t.handle p j = s.handle p j) ∧ ∀ c x, t.ctx c x = s.ctx c x)) ∧
    (∀ i e, mailNext s 0x0B r → valid [(0x08, 7)] → r.nat 0x0C 2 < 1024 → r.nat 0x0E 1 < 12 →
      s.named p (r.h32 0x08) = some (i, e) → e.st = .valid → e.pull = false →
      let dest : Place := { node := r.nat 0x0C 2, runs := [(r.nat 0x0E 1, e.units)], born := s.draws, moved := [] }
      let new : Handle := if e.cls = clCode ∨ e.bytes ≤ 64 * 2 ^ 20 then
          { e with st := .migrating, old := some e.place, plan := some dest }
        else { e with pull := true, present := [], old := some e.place, place := dest }
      (s.setHandle p i new).fits = true → answered .migrate 0 0 (fun t => t.handle p i = new)) ∧
    (∀ q, mailNext s 0x08 r → r.clean [] = true → p = 0 → 1 ≤ q → q < 2 ^ 16 → (s.proc q).alive = false →
      (∀ k, 1 ≤ k → k < q → (s.proc k).alive = true) →
      answered .createp 0 q (fun t => t.proc q = { Process.reset with alive := true } ∧ t.launches = s.launches)) ∧
    (mailNext s 0x09 r → valid [] → s.procBusy p = false →
      let gone := fun (t : State) => ∀ i, (t.handle p i).st ≠ .valid ∧ (t.handle p i).st ≠ .migrating
      ((∀ h ∈ (s.proc p).handles, h.2.held = false) →
        answered .destroyp 0 0 (fun t => (t.proc p).alive = false ∧ (t.proc p).patches = [] ∧ gone t ∧
          ∀ d, ∀ q ∈ (t.die d).cands, q.proc ≠ p)) ∧
      ((∃ h ∈ (s.proc p).handles, h.2.held = true) → ∃ t, exec .destroyp s = .next t ∧ t.mailHead r.host = s.mailHead r.host ∧
        (t.proc p).alive = true ∧ (t.proc p).patches = (s.proc p).patches ∧ gone t)) ∧
    (mailNext s 0x09 r → valid [] → s.procBusy p = true → answered .destroyp 1 0 (fun t => t.proc p = s.proc p)) ∧
    (∀ e, mailNext s 0x0A r → valid [(0x08, 5)] → 1 ≤ r.nat 0x0C 1 → r.nat 0x0C 1 < 64 →
      s.entry p (r.h32 0x08) clTensor = some e → Tab.wf e.rays = true → (e.ray (r.nat 0x0C 1)).alive = true →
      (e.ray (r.nat 0x0C 1)).pins = 0 → (∀ q ∈ e.rays, q.2.alive = true → q.1 ≠ 0 → q.2.parent ≠ r.nat 0x0C 1) →
      answered .rmray 0 0 (fun t => ((t.handle p (hIndex (r.h32 0x08))).ray (r.nat 0x0C 1)).alive = false)) ∧
    (∀ i code named, (i, code, named) ∈ ([(.map, 0x01, [(0x08, 36)]), (.unmap, 0x02, [(0x08, 4)]), (.createq, 0x03, [(0x08, 32)]),
        (.destroyq, 0x04, [(0x08, 2)]), (.opench, 0x05, [(0x08, 3)]), (.closech, 0x06, [(0x08, 3)]), (.attest, 0x07, [(0x08, 40)]),
        (.createp, 0x08, []), (.rmray, 0x0A, [(0x08, 5)]), (.migrate, 0x0B, [(0x08, 7)])] :
        List (Instr × Nat × List (Nat × Nat))) →
      mailNext s code r → r.clean named = false → answered i 3 0 (fun t => t.cores = s.cores ∧ t.launches = s.launches)) ∧
    (mailNext s 0x09 r → r.clean [] = false →
      answered .destroyp 3 0 (fun t => t.launches = s.launches ∧ ∀ c x, t.ctx c x = s.ctx c x))

/-- R292, R296, R310, R321, R409, R410, R418: CREATEQ enters a queue under the least number (assumption log 65, DESIGN
CHOICE); DESTROYQ drains one, and waits while its regions, or those that the
completion blocks of its records need, are being moved, and refuses with status 1 one that drains already (both the
model's reading: assumption log 68, DEDUCED); OPENCH opens an empty channel where the memory holds
its receive queue (assumption log 12, DESIGN CHOICE) and CLOSECH closes one on which nothing is in flight; ATTEST
leaves a quote of the nonce in a slot; a record whose code is not assigned is answered as malformed. The lowest host
is served first (assumption log 18, DESIGN CHOICE). -/
def Obligations.MailServices : Prop :=
  ∀ (s : State) (r : Req), memoriesOk s →
    let p := r.proc
    let valid := fun (named : List (Nat × Nat)) => r.clean named = true ∧ p ≠ 0 ∧ (s.proc p).alive = true
    let answered := fun (i : Instr) (status result : Nat) (P : State → Prop) =>
      ∃ t, exec i s = .next t ∧ mailAnswered s t r status result ∧ P t
    (∀ q, mailNext s 0x03 r → valid [(0x08, 32)] → r.queueOk = true → s.queueRegions p r.queue = true →
      q < 4096 → Tab.find (s.proc p).queues q = none → (∀ k, k < q → (Tab.find (s.proc p).queues k).isSome = true) →
      answered .createq 0 q (fun t => t.queue p q = some r.queue ∧ (∀ k, k ≠ q → t.queue p k = s.queue p k))) ∧
    (∀ v, mailNext s 0x04 r → s.destroyReady r = true → valid [(0x08, 2)] → Tab.wf (s.proc p).queues = true → s.queue p (r.nat 0x08 2) = some v →
      (v.draining = false → answered .destroyq 0 0 (fun t => ∀ u, t.queue p (r.nat 0x08 2) = some u → u.draining = true)) ∧
      (v.draining = true → answered .destroyq 1 0 (fun t => t.proc p = s.proc p))) ∧
    (mailNext s 0x05 r → valid [(0x08, 3)] → r.nat 0x08 2 < 1024 → r.nat 0x0A 1 < 16 →
      (s.proc p).chan (r.nat 0x08 2) (r.nat 0x0A 1) = none →
      (s.modProc p (fun v => { v with chans := v.chans ++ [⟨r.nat 0x08 2, r.nat 0x0A 1, [], [], [], s.linkLoc p, 0⟩] })).fits = true →
      answered .opench 0 0 (fun t => (t.proc p).chan (r.nat 0x08 2) (r.nat 0x0A 1) =
        some ⟨r.nat 0x08 2, r.nat 0x0A 1, [], [], [], s.linkLoc p, 0⟩)) ∧
    (mailNext s 0x06 r → valid [(0x08, 3)] → r.nat 0x08 2 < 1024 → r.nat 0x0A 1 < 16 →
      ((s.proc p).chan (r.nat 0x08 2) (r.nat 0x0A 1)).isSome = true → s.chanBusy p (r.nat 0x08 2) (r.nat 0x0A 1) = false →
      answered .closech 0 0 (fun t => (t.proc p).chan (r.nat 0x08 2) (r.nat 0x0A 1) = none)) ∧
    (∀ e, mailNext s 0x07 r → r.clean [(0x08, 40)] = true → p = 0 → s.lookup 0 (r.h32 0x08) clQbody = .ok e →
      hIndex (r.h32 0x08) = 3 → r.nat 0x0C 4 % 256 = 0 → r.nat 0x0C 4 + 256 ≤ e.len →
      answered .attest 0 0 (fun t => ∀ k, k < (s.quote ((r.bytes.drop 0x10).take 32)).length →
        Memory.read (t.handle 0 3).data (r.nat 0x0C 4 + k) = (s.quote ((r.bytes.drop 0x10).take 32)).getD k 0)) ∧
    (s.portsUp 0 = true → s.failed = false → r.host < 64 → s.mail r.host = some r → r.code = 0 ∨ 0x0B < r.code →
      (∀ h, h < r.host → ∀ q, s.mail h = some q → 1 ≤ q.code ∧ q.code ≤ 0x0B) →
      answered .malformedMailboxRecord 3 0 (fun t => t.cores = s.cores ∧ t.launches = s.launches))

/-! ### Reset and the invariant -/

/-- R100, R417, R419: what the model's reset leaves, before POWER_GOOD: no step of bring-up completed, a chain of
zeros, no core, cluster, die, process, launch or damaged word listed, so that every register and byte reads as its
table's default; and the invariant holds. Most of these values are the model's choice (assumption logs 1 and 2). -/
def Obligations.ResetState : Prop :=
  State.reset.step = 0 ∧ State.reset.chain = List.replicate 32 0 ∧ State.reset.accepted = 0 ∧ State.reset.failed = false ∧
    State.reset.agenda = [] ∧ State.reset.launches = [] ∧ State.reset.damaged = [] ∧ State.reset.weak = [] ∧
    State.reset.replays = [] ∧
    (∀ c x r, (State.reset.ctx c x).rd r = 0 ∧ (State.reset.ctx c x).st = .free) ∧
    (∀ c q, (State.reset.ctx c q).pred 0 = true ∧ (State.reset.core c).cycle = 0 ∧ (State.reset.core c).running = none) ∧
    (∀ k a, Memory.read (State.reset.cluster k).spl a = 0) ∧ (∀ d, (State.reset.die d).plimit = 2400) ∧
    (∀ p i, (State.reset.handle p i).st = .free) ∧ memoriesOk State.reset

/-- R216, R277: every step keeps every memory, of a cluster and of a region, in the canonical form: addresses strictly
rising, and no byte listed that reads as an unlisted one does. -/
def Obligations.StepKeepsMemories : Prop :=
  ∀ s t : State, memoriesOk s → step s = .next t → memoriesOk t
end

