-- ==== Sys2Proof/Laws/Tab.lean ====
section
/-! SUPPORT. Sparse tables and byte memories: what a read finds after a write, and that every operation keeps the
canonical form. -/

set_option Elab.async false

namespace Sys2Proof.Machine

/-! ### Tables -/

@[simp] theorem Tab.get_put_same {α : Type} (t : Tab α) (k : Nat) (v d : α) : Tab.get (Tab.put t k v) k d = v := by
  induction t with
  | nil => simp [Tab.put, Tab.get]
  | cons p rest ih =>
    obtain ⟨k', v'⟩ := p
    simp only [Tab.put]
    split
    · simp [Tab.get]
    · split
      · simp [Tab.get]
      · simp [Tab.get, *]

theorem Tab.get_put_ne {α : Type} (t : Tab α) (k k' : Nat) (v d : α) (h : k' ≠ k) :
    Tab.get (Tab.put t k v) k' d = Tab.get t k' d := by
  induction t with
  | nil => simp [Tab.put, Tab.get, h.symm]
  | cons p rest ih =>
    obtain ⟨j, w⟩ := p
    simp only [Tab.put]
    split
    · next e => subst e; simp [Tab.get, h.symm]
    · split
      · simp [Tab.get, h.symm]
      · simp only [Tab.get, ih]

@[simp] theorem Tab.find_put_same {α : Type} (t : Tab α) (k : Nat) (v : α) : Tab.find (Tab.put t k v) k = some v := by
  induction t with
  | nil => simp [Tab.put, Tab.find]
  | cons p rest ih =>
    obtain ⟨k', v'⟩ := p
    simp only [Tab.put]
    split
    · simp [Tab.find]
    · split
      · simp [Tab.find]
      · simp [Tab.find, *]

theorem Tab.find_put_ne {α : Type} (t : Tab α) (k k' : Nat) (v : α) (h : k' ≠ k) :
    Tab.find (Tab.put t k v) k' = Tab.find t k' := by
  induction t with
  | nil => simp [Tab.put, Tab.find, h.symm]
  | cons p rest ih =>
    obtain ⟨j, w⟩ := p
    simp only [Tab.put]
    split
    · next e => subst e; simp [Tab.find, h.symm]
    · split
      · simp [Tab.find, h.symm]
      · simp only [Tab.find, ih]

/-- An entry of a table after a put is the one put, or was there before. -/
theorem Tab.mem_put {α : Type} {t : Tab α} {k : Nat} {v : α} {p : Nat × α} (h : p ∈ Tab.put t k v) :
    p = (k, v) ∨ p ∈ t := by
  induction t with
  | nil => simp only [Tab.put, List.mem_singleton] at h; exact .inl h
  | cons q rest ih =>
    obtain ⟨j, w⟩ := q
    simp only [Tab.put] at h
    split at h
    · rcases List.mem_cons.1 h with h | h
      · exact .inl h
      · exact .inr (List.mem_cons_of_mem _ h)
    · split at h
      · rcases List.mem_cons.1 h with h | h
        · exact .inl h
        · exact .inr h
      · rcases List.mem_cons.1 h with h | h
        · exact .inr (h ▸ List.mem_cons_self)
        · exact (ih h).imp id (List.mem_cons_of_mem _)

/-- An entry of a table after an erasure was there before. -/
theorem Tab.mem_erase {α : Type} {t : Tab α} {k : Nat} {p : Nat × α} (h : p ∈ Tab.erase t k) : p ∈ t := by
  induction t with
  | nil => simp [Tab.erase] at h
  | cons q rest ih =>
    obtain ⟨j, w⟩ := q
    simp only [Tab.erase] at h
    split at h
    · exact List.mem_cons_of_mem _ h
    · split at h
      · exact h
      · rcases List.mem_cons.1 h with h | h
        · exact h ▸ List.mem_cons_self
        · exact List.mem_cons_of_mem _ (ih h)

/-- What a table holds at a key is an entry, or the default. -/
theorem Tab.get_mem {α : Type} (t : Tab α) (k : Nat) (d : α) : Tab.get t k d = d ∨ (k, Tab.get t k d) ∈ t := by
  induction t with
  | nil => exact .inl rfl
  | cons q rest ih =>
    obtain ⟨j, w⟩ := q
    simp only [Tab.get]
    split
    · next e => exact .inr (by simp [e])
    · exact ih.imp id (List.mem_cons_of_mem _)

/-! ### Memories: the canonical form -/

theorem Memory.wfFrom_mono {lo lo' : Nat} {m : Memory} (h : lo' ≤ lo) (hm : Memory.wfFrom lo m = true) :
    Memory.wfFrom lo' m = true := by
  cases m with
  | nil => rfl
  | cons c rest =>
    obtain ⟨a, b⟩ := c
    simp only [Memory.wfFrom, Bool.and_eq_true, decide_eq_true_eq] at hm ⊢
    exact ⟨⟨by omega, hm.1.2⟩, hm.2⟩

theorem Memory.wfFrom_cons {lo a : Nat} {b : Byte} {m : Memory} (h1 : lo ≤ a) (h2 : b ≠ 0)
    (h3 : Memory.wfFrom (a + 1) m = true) : Memory.wfFrom lo ((a, b) :: m) = true := by
  simp only [Memory.wfFrom, Bool.and_eq_true, decide_eq_true_eq]
  exact ⟨⟨h1, h2⟩, h3⟩

/-- Writing one byte keeps the canonical form. -/
theorem Memory.wfFrom_write {lo : Nat} {m : Memory} (a : Nat) (b : Byte) (h : lo ≤ a) (hm : Memory.wfFrom lo m = true) :
    Memory.wfFrom lo (Memory.write m a b) = true := by
  induction m generalizing lo with
  | nil =>
    simp only [Memory.write]
    split
    · rfl
    · next hb => exact Memory.wfFrom_cons h hb rfl
  | cons c rest ih =>
    obtain ⟨a', b'⟩ := c
    simp only [Memory.wfFrom, Bool.and_eq_true, decide_eq_true_eq] at hm
    obtain ⟨⟨h1, h2⟩, h3⟩ := hm
    simp only [Memory.write]
    split
    · next e =>
      subst e
      split
      · exact Memory.wfFrom_mono (by omega) h3
      · next hb => exact Memory.wfFrom_cons h1 hb h3
    · split
      · split
        · exact Memory.wfFrom_cons h1 h2 h3
        · next hlt hb => exact Memory.wfFrom_cons h hb (Memory.wfFrom_cons (by omega) h2 h3)
      · have h4 := ih (lo := a' + 1) (by omega) h3
        exact Memory.wfFrom_cons h1 h2 h4

theorem Memory.wf_write (m : Memory) (a : Nat) (b : Byte) (hm : Memory.wf m = true) :
    Memory.wf (Memory.write m a b) = true := Memory.wfFrom_write a b (Nat.zero_le a) hm

theorem Memory.wfFrom_above {lo : Nat} {m : Memory} (a : Nat) (hm : Memory.wfFrom lo m = true) :
    Memory.wfFrom a (Memory.above m a) = true := by
  induction m generalizing lo with
  | nil => rfl
  | cons c rest ih =>
    obtain ⟨a', b'⟩ := c
    simp only [Memory.wfFrom, Bool.and_eq_true, decide_eq_true_eq] at hm
    simp only [Memory.above]
    split
    · exact ih hm.2
    · exact Memory.wfFrom_cons (by omega) hm.1.2 hm.2

theorem Memory.wfFrom_lay {lo : Nat} {m : Memory} (a : Nat) (bs : List Byte) (hm : Memory.wfFrom lo m = true) :
    Memory.wfFrom a (Memory.lay a bs m) = true := by
  induction bs generalizing a with
  | nil => exact Memory.wfFrom_above a hm
  | cons b rest ih =>
    simp only [Memory.lay]
    split
    · exact Memory.wfFrom_mono (Nat.le_succ a) (ih (a + 1))
    · next hb => exact Memory.wfFrom_cons (Nat.le_refl a) hb (ih (a + 1))

theorem Memory.wfFrom_writeRun {lo : Nat} {m : Memory} (a : Nat) (bs : List Byte) (h : lo ≤ a)
    (hm : Memory.wfFrom lo m = true) : Memory.wfFrom lo (Memory.writeRun m a bs) = true := by
  induction m generalizing lo with
  | nil => exact Memory.wfFrom_mono h (Memory.wfFrom_lay a bs hm)
  | cons c rest ih =>
    obtain ⟨a', b'⟩ := c
    simp only [Memory.writeRun]
    split
    · simp only [Memory.wfFrom, Bool.and_eq_true, decide_eq_true_eq] at hm ⊢
      exact ⟨hm.1, ih (by omega) hm.2⟩
    · exact Memory.wfFrom_mono h (Memory.wfFrom_lay a bs hm)

/-- Writing a run of bytes keeps the canonical form. -/
theorem Memory.wf_writeRun (m : Memory) (a : Nat) (bs : List Byte) (hm : Memory.wf m = true) :
    Memory.wf (Memory.writeRun m a bs) = true := Memory.wfFrom_writeRun a bs (Nat.zero_le a) hm

/-- Storing an integer keeps the canonical form. -/
theorem Memory.wf_writeNat (m : Memory) (a n v : Nat) (hm : Memory.wf m = true) :
    Memory.wf (Memory.writeNat m a n v) = true := Memory.wf_writeRun m a _ hm

/-! ### Memories: reads after writes -/

/-- In a memory whose cells lie at `lo` or above, an address below reads zero. -/
theorem Memory.read_below {lo : Nat} {m : Memory} {x : Nat} (hm : Memory.wfFrom lo m = true) (hx : x < lo) :
    Memory.read m x = 0 := by
  induction m generalizing lo with
  | nil => rfl
  | cons c rest ih =>
    obtain ⟨a', b'⟩ := c
    simp only [Memory.wfFrom, Bool.and_eq_true, decide_eq_true_eq] at hm
    simp only [Memory.read]
    split
    · omega
    · exact ih hm.2 (by omega)

theorem Memory.read_above {lo : Nat} {m : Memory} (a x : Nat) (hm : Memory.wfFrom lo m = true) (hx : a ≤ x) :
    Memory.read (Memory.above m a) x = Memory.read m x := by
  induction m generalizing lo with
  | nil => rfl
  | cons c rest ih =>
    obtain ⟨a', b'⟩ := c
    simp only [Memory.wfFrom, Bool.and_eq_true, decide_eq_true_eq] at hm
    simp only [Memory.above]
    split
    · rw [ih hm.2]
      simp only [Memory.read]
      split
      · omega
      · rfl
    · rfl

theorem Memory.read_lay {lo : Nat} {m : Memory} (a : Nat) (bs : List Byte) (x : Nat) (hm : Memory.wfFrom lo m = true)
    (hx : a ≤ x) :
    Memory.read (Memory.lay a bs m) x = if x < a + bs.length then bs.getD (x - a) 0 else Memory.read m x := by
  induction bs generalizing a with
  | nil => simp [Memory.lay, Memory.read_above a x hm hx]; omega
  | cons b rest ih =>
    simp only [Memory.lay]
    by_cases e : x = a
    · subst e
      split
      · next hb =>
        subst hb
        rw [Memory.read_below (Memory.wfFrom_lay (x + 1) rest hm) (Nat.lt_succ_self x)]
        simp
      · simp [Memory.read]
    · have hx' : a + 1 ≤ x := by omega
      have hi := ih (a + 1) hx'
      obtain ⟨k, rfl⟩ := Nat.exists_eq_add_of_le hx'
      have h1 : a + 1 + k - a = k + 1 := by omega
      have h2 : a + 1 + k - (a + 1) = k := by omega
      have key : Memory.read (Memory.lay (a + 1) rest m) (a + 1 + k) =
          if a + 1 + k < a + (b :: rest).length then (b :: rest).getD (a + 1 + k - a) 0 else Memory.read m (a + 1 + k) := by
        rw [hi, h1, h2]
        simp only [List.length_cons, List.getD_cons_succ]
        congr 1
        simp only [eq_iff_iff]
        omega
      split
      · exact key
      · simp only [Memory.read]
        rw [if_neg (by omega)]
        exact key

/-- What a byte reads after a run is written: the run's byte inside, the old byte outside. -/
theorem Memory.read_writeRun (m : Memory) (a : Nat) (bs : List Byte) (x : Nat) (hm : Memory.wf m = true) :
    Memory.read (Memory.writeRun m a bs) x =
      if a ≤ x ∧ x < a + bs.length then bs.getD (x - a) 0 else Memory.read m x := by
  suffices h : ∀ lo (m : Memory), Memory.wfFrom lo m = true →
      Memory.read (Memory.writeRun m a bs) x =
        if a ≤ x ∧ x < a + bs.length then bs.getD (x - a) 0 else Memory.read m x from h 0 m hm
  intro lo m hm
  have outside : ∀ {m' : Memory}, Memory.wfFrom a m' = true → x < a → Memory.read m' x = 0 :=
    fun h hx => Memory.read_below h hx
  induction m generalizing lo with
  | nil =>
    simp only [Memory.writeRun]
    by_cases hx : a ≤ x
    · rw [Memory.read_lay a bs x hm hx]
      simp [hx]
    · rw [outside (Memory.wfFrom_lay a bs hm) (by omega), if_neg (by omega)]
      rfl
  | cons c rest ih =>
    obtain ⟨a', b'⟩ := c
    simp only [Memory.writeRun]
    split
    · simp only [Memory.wfFrom, Bool.and_eq_true, decide_eq_true_eq] at hm
      simp only [Memory.read]
      split
      · next e => rw [if_neg (by omega)]
      · exact ih _ hm.2
    · next hge =>
      by_cases hx : a ≤ x
      · rw [Memory.read_lay a bs x hm hx]
        simp [hx]
      · rw [outside (Memory.wfFrom_lay a bs hm) (by omega), if_neg (by omega)]
        simp only [Memory.wfFrom, Bool.and_eq_true, decide_eq_true_eq] at hm
        simp only [Memory.read]
        rw [if_neg (by omega)]
        exact (Memory.read_below hm.2 (by omega)).symm

/-- A read after a write to the same byte gives the byte written. -/
theorem Memory.read_write_same (m : Memory) (a : Nat) (b : Byte) (hm : Memory.wf m = true) :
    Memory.read (Memory.write m a b) a = b := by
  suffices h : ∀ lo (m : Memory), Memory.wfFrom lo m = true → Memory.read (Memory.write m a b) a = b from h 0 m hm
  intro lo m hm
  induction m generalizing lo with
  | nil =>
    simp only [Memory.write]
    split
    · next hb => simp [Memory.read, hb]
    · simp [Memory.read]
  | cons c rest ih =>
    obtain ⟨a', b'⟩ := c
    simp only [Memory.wfFrom, Bool.and_eq_true, decide_eq_true_eq] at hm
    simp only [Memory.write]
    split
    · next e =>
      subst e
      split
      · next hb => rw [hb]; exact Memory.read_below hm.2 (Nat.lt_succ_self _)
      · simp [Memory.read]
    · next e =>
      split
      · next hlt =>
        split
        · next hb =>
          simp only [Memory.read]
          rw [if_neg e, hb]
          exact Memory.read_below hm.2 (by omega)
        · simp [Memory.read]
      · simp only [Memory.read]
        rw [if_neg e]
        exact ih _ hm.2

/-- A write to one byte leaves every other byte alone. -/
theorem Memory.read_write_ne (m : Memory) (a x : Nat) (b : Byte) (h : x ≠ a) :
    Memory.read (Memory.write m a b) x = Memory.read m x := by
  induction m with
  | nil =>
    simp only [Memory.write]
    split
    · rfl
    · simp [Memory.read, h.symm]
  | cons c rest ih =>
    obtain ⟨a', b'⟩ := c
    simp only [Memory.write]
    split
    · next e =>
      subst e
      split
      · simp [Memory.read, h.symm]
      · simp [Memory.read, h.symm]
    · split
      · split
        · rfl
        · simp [Memory.read, h.symm]
      · simp only [Memory.read, ih]

/-- The memory of State.reset lists nothing, and is in the canonical form. -/
theorem Memory.wf_nil : Memory.wf [] = true := rfl

end Sys2Proof.Machine
end

