-- ==== Sys2Proof/Laws/State.lean ====
section
/-! SUPPORT. One lemma for each field and each update of the state, of a core and of a context, and what each unit reads
as after an update. -/

set_option Elab.async false

namespace Sys2Proof.Machine

/-! ### Fields of the state -/

@[simp] theorem State.setCore_agenda (s : State) (c : Nat) (v : Core) : (s.setCore c v).agenda = s.agenda := rfl
@[simp] theorem State.setCore_foc (s : State) (c : Nat) (v : Core) : (s.setCore c v).foc = s.foc := rfl
@[simp] theorem State.setCore_draws (s : State) (c : Nat) (v : Core) : (s.setCore c v).draws = s.draws := rfl
@[simp] theorem State.setCore_stamp (s : State) (c : Nat) (v : Core) : (s.setCore c v).stamp = s.stamp := rfl
@[simp] theorem State.setCore_step (s : State) (c : Nat) (v : Core) : (s.setCore c v).step = s.step := rfl
@[simp] theorem State.setCore_node (s : State) (c : Nat) (v : Core) : (s.setCore c v).node = s.node := rfl
@[simp] theorem State.setCore_chain (s : State) (c : Nat) (v : Core) : (s.setCore c v).chain = s.chain := rfl
@[simp] theorem State.setCore_accepted (s : State) (c : Nat) (v : Core) : (s.setCore c v).accepted = s.accepted := rfl
@[simp] theorem State.setCore_failed (s : State) (c : Nat) (v : Core) : (s.setCore c v).failed = s.failed := rfl
@[simp] theorem State.setCore_boot (s : State) (c : Nat) (v : Core) : (s.setCore c v).boot = s.boot := rfl
@[simp] theorem State.setCore_tripped (s : State) (c : Nat) (v : Core) : (s.setCore c v).tripped = s.tripped := rfl
@[simp] theorem State.setCore_clusters (s : State) (c : Nat) (v : Core) : (s.setCore c v).clusters = s.clusters := rfl
@[simp] theorem State.setCore_dies (s : State) (c : Nat) (v : Core) : (s.setCore c v).dies = s.dies := rfl
@[simp] theorem State.setCore_procs (s : State) (c : Nat) (v : Core) : (s.setCore c v).procs = s.procs := rfl
@[simp] theorem State.setCore_launches (s : State) (c : Nat) (v : Core) : (s.setCore c v).launches = s.launches := rfl
@[simp] theorem State.setCore_resp (s : State) (c : Nat) (v : Core) : (s.setCore c v).resp = s.resp := rfl
@[simp] theorem State.setCore_notices (s : State) (c : Nat) (v : Core) : (s.setCore c v).notices = s.notices := rfl
@[simp] theorem State.setCore_replays (s : State) (c : Nat) (v : Core) : (s.setCore c v).replays = s.replays := rfl
@[simp] theorem State.setCore_gmaps (s : State) (c : Nat) (v : Core) : (s.setCore c v).gmaps = s.gmaps := rfl
@[simp] theorem State.setCore_damaged (s : State) (c : Nat) (v : Core) : (s.setCore c v).damaged = s.damaged := rfl
@[simp] theorem State.setCore_weak (s : State) (c : Nat) (v : Core) : (s.setCore c v).weak = s.weak := rfl

@[simp] theorem State.modCore_agenda (s : State) (c : Nat) (f : Core → Core) : (s.modCore c f).agenda = s.agenda := rfl
@[simp] theorem State.modCore_foc (s : State) (c : Nat) (f : Core → Core) : (s.modCore c f).foc = s.foc := rfl
@[simp] theorem State.modCore_draws (s : State) (c : Nat) (f : Core → Core) : (s.modCore c f).draws = s.draws := rfl
@[simp] theorem State.modCore_stamp (s : State) (c : Nat) (f : Core → Core) : (s.modCore c f).stamp = s.stamp := rfl
@[simp] theorem State.modCore_step (s : State) (c : Nat) (f : Core → Core) : (s.modCore c f).step = s.step := rfl
@[simp] theorem State.modCore_node (s : State) (c : Nat) (f : Core → Core) : (s.modCore c f).node = s.node := rfl
@[simp] theorem State.modCore_chain (s : State) (c : Nat) (f : Core → Core) : (s.modCore c f).chain = s.chain := rfl
@[simp] theorem State.modCore_accepted (s : State) (c : Nat) (f : Core → Core) : (s.modCore c f).accepted = s.accepted := rfl
@[simp] theorem State.modCore_failed (s : State) (c : Nat) (f : Core → Core) : (s.modCore c f).failed = s.failed := rfl
@[simp] theorem State.modCore_boot (s : State) (c : Nat) (f : Core → Core) : (s.modCore c f).boot = s.boot := rfl
@[simp] theorem State.modCore_tripped (s : State) (c : Nat) (f : Core → Core) : (s.modCore c f).tripped = s.tripped := rfl
@[simp] theorem State.modCore_clusters (s : State) (c : Nat) (f : Core → Core) : (s.modCore c f).clusters = s.clusters := rfl
@[simp] theorem State.modCore_dies (s : State) (c : Nat) (f : Core → Core) : (s.modCore c f).dies = s.dies := rfl
@[simp] theorem State.modCore_procs (s : State) (c : Nat) (f : Core → Core) : (s.modCore c f).procs = s.procs := rfl
@[simp] theorem State.modCore_launches (s : State) (c : Nat) (f : Core → Core) : (s.modCore c f).launches = s.launches := rfl
@[simp] theorem State.modCore_resp (s : State) (c : Nat) (f : Core → Core) : (s.modCore c f).resp = s.resp := rfl
@[simp] theorem State.modCore_notices (s : State) (c : Nat) (f : Core → Core) : (s.modCore c f).notices = s.notices := rfl
@[simp] theorem State.modCore_replays (s : State) (c : Nat) (f : Core → Core) : (s.modCore c f).replays = s.replays := rfl
@[simp] theorem State.modCore_gmaps (s : State) (c : Nat) (f : Core → Core) : (s.modCore c f).gmaps = s.gmaps := rfl
@[simp] theorem State.modCore_damaged (s : State) (c : Nat) (f : Core → Core) : (s.modCore c f).damaged = s.damaged := rfl
@[simp] theorem State.modCore_weak (s : State) (c : Nat) (f : Core → Core) : (s.modCore c f).weak = s.weak := rfl

@[simp] theorem State.setCtx_agenda (s : State) (c x : Nat) (v : Ctx) : (s.setCtx c x v).agenda = s.agenda := rfl
@[simp] theorem State.setCtx_foc (s : State) (c x : Nat) (v : Ctx) : (s.setCtx c x v).foc = s.foc := rfl
@[simp] theorem State.setCtx_draws (s : State) (c x : Nat) (v : Ctx) : (s.setCtx c x v).draws = s.draws := rfl
@[simp] theorem State.setCtx_stamp (s : State) (c x : Nat) (v : Ctx) : (s.setCtx c x v).stamp = s.stamp := rfl
@[simp] theorem State.setCtx_step (s : State) (c x : Nat) (v : Ctx) : (s.setCtx c x v).step = s.step := rfl
@[simp] theorem State.setCtx_node (s : State) (c x : Nat) (v : Ctx) : (s.setCtx c x v).node = s.node := rfl
@[simp] theorem State.setCtx_chain (s : State) (c x : Nat) (v : Ctx) : (s.setCtx c x v).chain = s.chain := rfl
@[simp] theorem State.setCtx_accepted (s : State) (c x : Nat) (v : Ctx) : (s.setCtx c x v).accepted = s.accepted := rfl
@[simp] theorem State.setCtx_failed (s : State) (c x : Nat) (v : Ctx) : (s.setCtx c x v).failed = s.failed := rfl
@[simp] theorem State.setCtx_boot (s : State) (c x : Nat) (v : Ctx) : (s.setCtx c x v).boot = s.boot := rfl
@[simp] theorem State.setCtx_tripped (s : State) (c x : Nat) (v : Ctx) : (s.setCtx c x v).tripped = s.tripped := rfl
@[simp] theorem State.setCtx_clusters (s : State) (c x : Nat) (v : Ctx) : (s.setCtx c x v).clusters = s.clusters := rfl
@[simp] theorem State.setCtx_dies (s : State) (c x : Nat) (v : Ctx) : (s.setCtx c x v).dies = s.dies := rfl
@[simp] theorem State.setCtx_procs (s : State) (c x : Nat) (v : Ctx) : (s.setCtx c x v).procs = s.procs := rfl
@[simp] theorem State.setCtx_launches (s : State) (c x : Nat) (v : Ctx) : (s.setCtx c x v).launches = s.launches := rfl
@[simp] theorem State.setCtx_resp (s : State) (c x : Nat) (v : Ctx) : (s.setCtx c x v).resp = s.resp := rfl
@[simp] theorem State.setCtx_notices (s : State) (c x : Nat) (v : Ctx) : (s.setCtx c x v).notices = s.notices := rfl
@[simp] theorem State.setCtx_replays (s : State) (c x : Nat) (v : Ctx) : (s.setCtx c x v).replays = s.replays := rfl
@[simp] theorem State.setCtx_gmaps (s : State) (c x : Nat) (v : Ctx) : (s.setCtx c x v).gmaps = s.gmaps := rfl
@[simp] theorem State.setCtx_damaged (s : State) (c x : Nat) (v : Ctx) : (s.setCtx c x v).damaged = s.damaged := rfl
@[simp] theorem State.setCtx_weak (s : State) (c x : Nat) (v : Ctx) : (s.setCtx c x v).weak = s.weak := rfl

@[simp] theorem State.modCtx_agenda (s : State) (c x : Nat) (f : Ctx → Ctx) : (s.modCtx c x f).agenda = s.agenda := rfl
@[simp] theorem State.modCtx_foc (s : State) (c x : Nat) (f : Ctx → Ctx) : (s.modCtx c x f).foc = s.foc := rfl
@[simp] theorem State.modCtx_draws (s : State) (c x : Nat) (f : Ctx → Ctx) : (s.modCtx c x f).draws = s.draws := rfl
@[simp] theorem State.modCtx_stamp (s : State) (c x : Nat) (f : Ctx → Ctx) : (s.modCtx c x f).stamp = s.stamp := rfl
@[simp] theorem State.modCtx_step (s : State) (c x : Nat) (f : Ctx → Ctx) : (s.modCtx c x f).step = s.step := rfl
@[simp] theorem State.modCtx_node (s : State) (c x : Nat) (f : Ctx → Ctx) : (s.modCtx c x f).node = s.node := rfl
@[simp] theorem State.modCtx_chain (s : State) (c x : Nat) (f : Ctx → Ctx) : (s.modCtx c x f).chain = s.chain := rfl
@[simp] theorem State.modCtx_accepted (s : State) (c x : Nat) (f : Ctx → Ctx) : (s.modCtx c x f).accepted = s.accepted := rfl
@[simp] theorem State.modCtx_failed (s : State) (c x : Nat) (f : Ctx → Ctx) : (s.modCtx c x f).failed = s.failed := rfl
@[simp] theorem State.modCtx_boot (s : State) (c x : Nat) (f : Ctx → Ctx) : (s.modCtx c x f).boot = s.boot := rfl
@[simp] theorem State.modCtx_tripped (s : State) (c x : Nat) (f : Ctx → Ctx) : (s.modCtx c x f).tripped = s.tripped := rfl
@[simp] theorem State.modCtx_clusters (s : State) (c x : Nat) (f : Ctx → Ctx) : (s.modCtx c x f).clusters = s.clusters := rfl
@[simp] theorem State.modCtx_dies (s : State) (c x : Nat) (f : Ctx → Ctx) : (s.modCtx c x f).dies = s.dies := rfl
@[simp] theorem State.modCtx_procs (s : State) (c x : Nat) (f : Ctx → Ctx) : (s.modCtx c x f).procs = s.procs := rfl
@[simp] theorem State.modCtx_launches (s : State) (c x : Nat) (f : Ctx → Ctx) : (s.modCtx c x f).launches = s.launches := rfl
@[simp] theorem State.modCtx_resp (s : State) (c x : Nat) (f : Ctx → Ctx) : (s.modCtx c x f).resp = s.resp := rfl
@[simp] theorem State.modCtx_notices (s : State) (c x : Nat) (f : Ctx → Ctx) : (s.modCtx c x f).notices = s.notices := rfl
@[simp] theorem State.modCtx_replays (s : State) (c x : Nat) (f : Ctx → Ctx) : (s.modCtx c x f).replays = s.replays := rfl
@[simp] theorem State.modCtx_gmaps (s : State) (c x : Nat) (f : Ctx → Ctx) : (s.modCtx c x f).gmaps = s.gmaps := rfl
@[simp] theorem State.modCtx_damaged (s : State) (c x : Nat) (f : Ctx → Ctx) : (s.modCtx c x f).damaged = s.damaged := rfl
@[simp] theorem State.modCtx_weak (s : State) (c x : Nat) (f : Ctx → Ctx) : (s.modCtx c x f).weak = s.weak := rfl

@[simp] theorem State.modCur_agenda (s : State) (f : Ctx → Ctx) : (s.modCur f).agenda = s.agenda := rfl
@[simp] theorem State.modCur_foc (s : State) (f : Ctx → Ctx) : (s.modCur f).foc = s.foc := rfl
@[simp] theorem State.modCur_draws (s : State) (f : Ctx → Ctx) : (s.modCur f).draws = s.draws := rfl
@[simp] theorem State.modCur_stamp (s : State) (f : Ctx → Ctx) : (s.modCur f).stamp = s.stamp := rfl
@[simp] theorem State.modCur_step (s : State) (f : Ctx → Ctx) : (s.modCur f).step = s.step := rfl
@[simp] theorem State.modCur_node (s : State) (f : Ctx → Ctx) : (s.modCur f).node = s.node := rfl
@[simp] theorem State.modCur_chain (s : State) (f : Ctx → Ctx) : (s.modCur f).chain = s.chain := rfl
@[simp] theorem State.modCur_accepted (s : State) (f : Ctx → Ctx) : (s.modCur f).accepted = s.accepted := rfl
@[simp] theorem State.modCur_failed (s : State) (f : Ctx → Ctx) : (s.modCur f).failed = s.failed := rfl
@[simp] theorem State.modCur_boot (s : State) (f : Ctx → Ctx) : (s.modCur f).boot = s.boot := rfl
@[simp] theorem State.modCur_tripped (s : State) (f : Ctx → Ctx) : (s.modCur f).tripped = s.tripped := rfl
@[simp] theorem State.modCur_clusters (s : State) (f : Ctx → Ctx) : (s.modCur f).clusters = s.clusters := rfl
@[simp] theorem State.modCur_dies (s : State) (f : Ctx → Ctx) : (s.modCur f).dies = s.dies := rfl
@[simp] theorem State.modCur_procs (s : State) (f : Ctx → Ctx) : (s.modCur f).procs = s.procs := rfl
@[simp] theorem State.modCur_launches (s : State) (f : Ctx → Ctx) : (s.modCur f).launches = s.launches := rfl
@[simp] theorem State.modCur_resp (s : State) (f : Ctx → Ctx) : (s.modCur f).resp = s.resp := rfl
@[simp] theorem State.modCur_notices (s : State) (f : Ctx → Ctx) : (s.modCur f).notices = s.notices := rfl
@[simp] theorem State.modCur_replays (s : State) (f : Ctx → Ctx) : (s.modCur f).replays = s.replays := rfl
@[simp] theorem State.modCur_gmaps (s : State) (f : Ctx → Ctx) : (s.modCur f).gmaps = s.gmaps := rfl
@[simp] theorem State.modCur_damaged (s : State) (f : Ctx → Ctx) : (s.modCur f).damaged = s.damaged := rfl
@[simp] theorem State.modCur_weak (s : State) (f : Ctx → Ctx) : (s.modCur f).weak = s.weak := rfl

@[simp] theorem State.setCluster_agenda (s : State) (k : Nat) (v : Cluster) : (s.setCluster k v).agenda = s.agenda := rfl
@[simp] theorem State.setCluster_foc (s : State) (k : Nat) (v : Cluster) : (s.setCluster k v).foc = s.foc := rfl
@[simp] theorem State.setCluster_draws (s : State) (k : Nat) (v : Cluster) : (s.setCluster k v).draws = s.draws := rfl
@[simp] theorem State.setCluster_stamp (s : State) (k : Nat) (v : Cluster) : (s.setCluster k v).stamp = s.stamp := rfl
@[simp] theorem State.setCluster_step (s : State) (k : Nat) (v : Cluster) : (s.setCluster k v).step = s.step := rfl
@[simp] theorem State.setCluster_node (s : State) (k : Nat) (v : Cluster) : (s.setCluster k v).node = s.node := rfl
@[simp] theorem State.setCluster_chain (s : State) (k : Nat) (v : Cluster) : (s.setCluster k v).chain = s.chain := rfl
@[simp] theorem State.setCluster_accepted (s : State) (k : Nat) (v : Cluster) : (s.setCluster k v).accepted = s.accepted := rfl
@[simp] theorem State.setCluster_failed (s : State) (k : Nat) (v : Cluster) : (s.setCluster k v).failed = s.failed := rfl
@[simp] theorem State.setCluster_boot (s : State) (k : Nat) (v : Cluster) : (s.setCluster k v).boot = s.boot := rfl
@[simp] theorem State.setCluster_tripped (s : State) (k : Nat) (v : Cluster) : (s.setCluster k v).tripped = s.tripped := rfl
@[simp] theorem State.setCluster_cores (s : State) (k : Nat) (v : Cluster) : (s.setCluster k v).cores = s.cores := rfl
@[simp] theorem State.setCluster_dies (s : State) (k : Nat) (v : Cluster) : (s.setCluster k v).dies = s.dies := rfl
@[simp] theorem State.setCluster_procs (s : State) (k : Nat) (v : Cluster) : (s.setCluster k v).procs = s.procs := rfl
@[simp] theorem State.setCluster_launches (s : State) (k : Nat) (v : Cluster) : (s.setCluster k v).launches = s.launches := rfl
@[simp] theorem State.setCluster_resp (s : State) (k : Nat) (v : Cluster) : (s.setCluster k v).resp = s.resp := rfl
@[simp] theorem State.setCluster_notices (s : State) (k : Nat) (v : Cluster) : (s.setCluster k v).notices = s.notices := rfl
@[simp] theorem State.setCluster_replays (s : State) (k : Nat) (v : Cluster) : (s.setCluster k v).replays = s.replays := rfl
@[simp] theorem State.setCluster_gmaps (s : State) (k : Nat) (v : Cluster) : (s.setCluster k v).gmaps = s.gmaps := rfl
@[simp] theorem State.setCluster_damaged (s : State) (k : Nat) (v : Cluster) : (s.setCluster k v).damaged = s.damaged := rfl
@[simp] theorem State.setCluster_weak (s : State) (k : Nat) (v : Cluster) : (s.setCluster k v).weak = s.weak := rfl

@[simp] theorem State.modCluster_agenda (s : State) (k : Nat) (f : Cluster → Cluster) : (s.modCluster k f).agenda = s.agenda := rfl
@[simp] theorem State.modCluster_foc (s : State) (k : Nat) (f : Cluster → Cluster) : (s.modCluster k f).foc = s.foc := rfl
@[simp] theorem State.modCluster_draws (s : State) (k : Nat) (f : Cluster → Cluster) : (s.modCluster k f).draws = s.draws := rfl
@[simp] theorem State.modCluster_stamp (s : State) (k : Nat) (f : Cluster → Cluster) : (s.modCluster k f).stamp = s.stamp := rfl
@[simp] theorem State.modCluster_step (s : State) (k : Nat) (f : Cluster → Cluster) : (s.modCluster k f).step = s.step := rfl
@[simp] theorem State.modCluster_node (s : State) (k : Nat) (f : Cluster → Cluster) : (s.modCluster k f).node = s.node := rfl
@[simp] theorem State.modCluster_chain (s : State) (k : Nat) (f : Cluster → Cluster) : (s.modCluster k f).chain = s.chain := rfl
@[simp] theorem State.modCluster_accepted (s : State) (k : Nat) (f : Cluster → Cluster) : (s.modCluster k f).accepted = s.accepted := rfl
@[simp] theorem State.modCluster_failed (s : State) (k : Nat) (f : Cluster → Cluster) : (s.modCluster k f).failed = s.failed := rfl
@[simp] theorem State.modCluster_boot (s : State) (k : Nat) (f : Cluster → Cluster) : (s.modCluster k f).boot = s.boot := rfl
@[simp] theorem State.modCluster_tripped (s : State) (k : Nat) (f : Cluster → Cluster) : (s.modCluster k f).tripped = s.tripped := rfl
@[simp] theorem State.modCluster_cores (s : State) (k : Nat) (f : Cluster → Cluster) : (s.modCluster k f).cores = s.cores := rfl
@[simp] theorem State.modCluster_dies (s : State) (k : Nat) (f : Cluster → Cluster) : (s.modCluster k f).dies = s.dies := rfl
@[simp] theorem State.modCluster_procs (s : State) (k : Nat) (f : Cluster → Cluster) : (s.modCluster k f).procs = s.procs := rfl
@[simp] theorem State.modCluster_launches (s : State) (k : Nat) (f : Cluster → Cluster) : (s.modCluster k f).launches = s.launches := rfl
@[simp] theorem State.modCluster_resp (s : State) (k : Nat) (f : Cluster → Cluster) : (s.modCluster k f).resp = s.resp := rfl
@[simp] theorem State.modCluster_notices (s : State) (k : Nat) (f : Cluster → Cluster) : (s.modCluster k f).notices = s.notices := rfl
@[simp] theorem State.modCluster_replays (s : State) (k : Nat) (f : Cluster → Cluster) : (s.modCluster k f).replays = s.replays := rfl
@[simp] theorem State.modCluster_gmaps (s : State) (k : Nat) (f : Cluster → Cluster) : (s.modCluster k f).gmaps = s.gmaps := rfl
@[simp] theorem State.modCluster_damaged (s : State) (k : Nat) (f : Cluster → Cluster) : (s.modCluster k f).damaged = s.damaged := rfl
@[simp] theorem State.modCluster_weak (s : State) (k : Nat) (f : Cluster → Cluster) : (s.modCluster k f).weak = s.weak := rfl

@[simp] theorem State.setDie_agenda (s : State) (d : Nat) (v : Die) : (s.setDie d v).agenda = s.agenda := rfl
@[simp] theorem State.setDie_foc (s : State) (d : Nat) (v : Die) : (s.setDie d v).foc = s.foc := rfl
@[simp] theorem State.setDie_draws (s : State) (d : Nat) (v : Die) : (s.setDie d v).draws = s.draws := rfl
@[simp] theorem State.setDie_stamp (s : State) (d : Nat) (v : Die) : (s.setDie d v).stamp = s.stamp := rfl
@[simp] theorem State.setDie_step (s : State) (d : Nat) (v : Die) : (s.setDie d v).step = s.step := rfl
@[simp] theorem State.setDie_node (s : State) (d : Nat) (v : Die) : (s.setDie d v).node = s.node := rfl
@[simp] theorem State.setDie_chain (s : State) (d : Nat) (v : Die) : (s.setDie d v).chain = s.chain := rfl
@[simp] theorem State.setDie_accepted (s : State) (d : Nat) (v : Die) : (s.setDie d v).accepted = s.accepted := rfl
@[simp] theorem State.setDie_failed (s : State) (d : Nat) (v : Die) : (s.setDie d v).failed = s.failed := rfl
@[simp] theorem State.setDie_boot (s : State) (d : Nat) (v : Die) : (s.setDie d v).boot = s.boot := rfl
@[simp] theorem State.setDie_tripped (s : State) (d : Nat) (v : Die) : (s.setDie d v).tripped = s.tripped := rfl
@[simp] theorem State.setDie_cores (s : State) (d : Nat) (v : Die) : (s.setDie d v).cores = s.cores := rfl
@[simp] theorem State.setDie_clusters (s : State) (d : Nat) (v : Die) : (s.setDie d v).clusters = s.clusters := rfl
@[simp] theorem State.setDie_procs (s : State) (d : Nat) (v : Die) : (s.setDie d v).procs = s.procs := rfl
@[simp] theorem State.setDie_launches (s : State) (d : Nat) (v : Die) : (s.setDie d v).launches = s.launches := rfl
@[simp] theorem State.setDie_resp (s : State) (d : Nat) (v : Die) : (s.setDie d v).resp = s.resp := rfl
@[simp] theorem State.setDie_notices (s : State) (d : Nat) (v : Die) : (s.setDie d v).notices = s.notices := rfl
@[simp] theorem State.setDie_replays (s : State) (d : Nat) (v : Die) : (s.setDie d v).replays = s.replays := rfl
@[simp] theorem State.setDie_gmaps (s : State) (d : Nat) (v : Die) : (s.setDie d v).gmaps = s.gmaps := rfl
@[simp] theorem State.setDie_damaged (s : State) (d : Nat) (v : Die) : (s.setDie d v).damaged = s.damaged := rfl
@[simp] theorem State.setDie_weak (s : State) (d : Nat) (v : Die) : (s.setDie d v).weak = s.weak := rfl

@[simp] theorem State.modDie_agenda (s : State) (d : Nat) (f : Die → Die) : (s.modDie d f).agenda = s.agenda := rfl
@[simp] theorem State.modDie_foc (s : State) (d : Nat) (f : Die → Die) : (s.modDie d f).foc = s.foc := rfl
@[simp] theorem State.modDie_draws (s : State) (d : Nat) (f : Die → Die) : (s.modDie d f).draws = s.draws := rfl
@[simp] theorem State.modDie_stamp (s : State) (d : Nat) (f : Die → Die) : (s.modDie d f).stamp = s.stamp := rfl
@[simp] theorem State.modDie_step (s : State) (d : Nat) (f : Die → Die) : (s.modDie d f).step = s.step := rfl
@[simp] theorem State.modDie_node (s : State) (d : Nat) (f : Die → Die) : (s.modDie d f).node = s.node := rfl
@[simp] theorem State.modDie_chain (s : State) (d : Nat) (f : Die → Die) : (s.modDie d f).chain = s.chain := rfl
@[simp] theorem State.modDie_accepted (s : State) (d : Nat) (f : Die → Die) : (s.modDie d f).accepted = s.accepted := rfl
@[simp] theorem State.modDie_failed (s : State) (d : Nat) (f : Die → Die) : (s.modDie d f).failed = s.failed := rfl
@[simp] theorem State.modDie_boot (s : State) (d : Nat) (f : Die → Die) : (s.modDie d f).boot = s.boot := rfl
@[simp] theorem State.modDie_tripped (s : State) (d : Nat) (f : Die → Die) : (s.modDie d f).tripped = s.tripped := rfl
@[simp] theorem State.modDie_cores (s : State) (d : Nat) (f : Die → Die) : (s.modDie d f).cores = s.cores := rfl
@[simp] theorem State.modDie_clusters (s : State) (d : Nat) (f : Die → Die) : (s.modDie d f).clusters = s.clusters := rfl
@[simp] theorem State.modDie_procs (s : State) (d : Nat) (f : Die → Die) : (s.modDie d f).procs = s.procs := rfl
@[simp] theorem State.modDie_launches (s : State) (d : Nat) (f : Die → Die) : (s.modDie d f).launches = s.launches := rfl
@[simp] theorem State.modDie_resp (s : State) (d : Nat) (f : Die → Die) : (s.modDie d f).resp = s.resp := rfl
@[simp] theorem State.modDie_notices (s : State) (d : Nat) (f : Die → Die) : (s.modDie d f).notices = s.notices := rfl
@[simp] theorem State.modDie_replays (s : State) (d : Nat) (f : Die → Die) : (s.modDie d f).replays = s.replays := rfl
@[simp] theorem State.modDie_gmaps (s : State) (d : Nat) (f : Die → Die) : (s.modDie d f).gmaps = s.gmaps := rfl
@[simp] theorem State.modDie_damaged (s : State) (d : Nat) (f : Die → Die) : (s.modDie d f).damaged = s.damaged := rfl
@[simp] theorem State.modDie_weak (s : State) (d : Nat) (f : Die → Die) : (s.modDie d f).weak = s.weak := rfl

@[simp] theorem State.setProc_agenda (s : State) (p : Nat) (v : Process) : (s.setProc p v).agenda = s.agenda := rfl
@[simp] theorem State.setProc_foc (s : State) (p : Nat) (v : Process) : (s.setProc p v).foc = s.foc := rfl
@[simp] theorem State.setProc_draws (s : State) (p : Nat) (v : Process) : (s.setProc p v).draws = s.draws := rfl
@[simp] theorem State.setProc_stamp (s : State) (p : Nat) (v : Process) : (s.setProc p v).stamp = s.stamp := rfl
@[simp] theorem State.setProc_step (s : State) (p : Nat) (v : Process) : (s.setProc p v).step = s.step := rfl
@[simp] theorem State.setProc_node (s : State) (p : Nat) (v : Process) : (s.setProc p v).node = s.node := rfl
@[simp] theorem State.setProc_chain (s : State) (p : Nat) (v : Process) : (s.setProc p v).chain = s.chain := rfl
@[simp] theorem State.setProc_accepted (s : State) (p : Nat) (v : Process) : (s.setProc p v).accepted = s.accepted := rfl
@[simp] theorem State.setProc_failed (s : State) (p : Nat) (v : Process) : (s.setProc p v).failed = s.failed := rfl
@[simp] theorem State.setProc_boot (s : State) (p : Nat) (v : Process) : (s.setProc p v).boot = s.boot := rfl
@[simp] theorem State.setProc_tripped (s : State) (p : Nat) (v : Process) : (s.setProc p v).tripped = s.tripped := rfl
@[simp] theorem State.setProc_cores (s : State) (p : Nat) (v : Process) : (s.setProc p v).cores = s.cores := rfl
@[simp] theorem State.setProc_clusters (s : State) (p : Nat) (v : Process) : (s.setProc p v).clusters = s.clusters := rfl
@[simp] theorem State.setProc_dies (s : State) (p : Nat) (v : Process) : (s.setProc p v).dies = s.dies := rfl
@[simp] theorem State.setProc_launches (s : State) (p : Nat) (v : Process) : (s.setProc p v).launches = s.launches := rfl
@[simp] theorem State.setProc_resp (s : State) (p : Nat) (v : Process) : (s.setProc p v).resp = s.resp := rfl
@[simp] theorem State.setProc_notices (s : State) (p : Nat) (v : Process) : (s.setProc p v).notices = s.notices := rfl
@[simp] theorem State.setProc_replays (s : State) (p : Nat) (v : Process) : (s.setProc p v).replays = s.replays := rfl
@[simp] theorem State.setProc_gmaps (s : State) (p : Nat) (v : Process) : (s.setProc p v).gmaps = s.gmaps := rfl
@[simp] theorem State.setProc_damaged (s : State) (p : Nat) (v : Process) : (s.setProc p v).damaged = s.damaged := rfl
@[simp] theorem State.setProc_weak (s : State) (p : Nat) (v : Process) : (s.setProc p v).weak = s.weak := rfl

@[simp] theorem State.modProc_agenda (s : State) (p : Nat) (f : Process → Process) : (s.modProc p f).agenda = s.agenda := rfl
@[simp] theorem State.modProc_foc (s : State) (p : Nat) (f : Process → Process) : (s.modProc p f).foc = s.foc := rfl
@[simp] theorem State.modProc_draws (s : State) (p : Nat) (f : Process → Process) : (s.modProc p f).draws = s.draws := rfl
@[simp] theorem State.modProc_stamp (s : State) (p : Nat) (f : Process → Process) : (s.modProc p f).stamp = s.stamp := rfl
@[simp] theorem State.modProc_step (s : State) (p : Nat) (f : Process → Process) : (s.modProc p f).step = s.step := rfl
@[simp] theorem State.modProc_node (s : State) (p : Nat) (f : Process → Process) : (s.modProc p f).node = s.node := rfl
@[simp] theorem State.modProc_chain (s : State) (p : Nat) (f : Process → Process) : (s.modProc p f).chain = s.chain := rfl
@[simp] theorem State.modProc_accepted (s : State) (p : Nat) (f : Process → Process) : (s.modProc p f).accepted = s.accepted := rfl
@[simp] theorem State.modProc_failed (s : State) (p : Nat) (f : Process → Process) : (s.modProc p f).failed = s.failed := rfl
@[simp] theorem State.modProc_boot (s : State) (p : Nat) (f : Process → Process) : (s.modProc p f).boot = s.boot := rfl
@[simp] theorem State.modProc_tripped (s : State) (p : Nat) (f : Process → Process) : (s.modProc p f).tripped = s.tripped := rfl
@[simp] theorem State.modProc_cores (s : State) (p : Nat) (f : Process → Process) : (s.modProc p f).cores = s.cores := rfl
@[simp] theorem State.modProc_clusters (s : State) (p : Nat) (f : Process → Process) : (s.modProc p f).clusters = s.clusters := rfl
@[simp] theorem State.modProc_dies (s : State) (p : Nat) (f : Process → Process) : (s.modProc p f).dies = s.dies := rfl
@[simp] theorem State.modProc_launches (s : State) (p : Nat) (f : Process → Process) : (s.modProc p f).launches = s.launches := rfl
@[simp] theorem State.modProc_resp (s : State) (p : Nat) (f : Process → Process) : (s.modProc p f).resp = s.resp := rfl
@[simp] theorem State.modProc_notices (s : State) (p : Nat) (f : Process → Process) : (s.modProc p f).notices = s.notices := rfl
@[simp] theorem State.modProc_replays (s : State) (p : Nat) (f : Process → Process) : (s.modProc p f).replays = s.replays := rfl
@[simp] theorem State.modProc_gmaps (s : State) (p : Nat) (f : Process → Process) : (s.modProc p f).gmaps = s.gmaps := rfl
@[simp] theorem State.modProc_damaged (s : State) (p : Nat) (f : Process → Process) : (s.modProc p f).damaged = s.damaged := rfl
@[simp] theorem State.modProc_weak (s : State) (p : Nat) (f : Process → Process) : (s.modProc p f).weak = s.weak := rfl

@[simp] theorem State.count_agenda (s : State) (d e : Nat) : (s.count d e).agenda = s.agenda := rfl
@[simp] theorem State.count_foc (s : State) (d e : Nat) : (s.count d e).foc = s.foc := rfl
@[simp] theorem State.count_draws (s : State) (d e : Nat) : (s.count d e).draws = s.draws := rfl
@[simp] theorem State.count_stamp (s : State) (d e : Nat) : (s.count d e).stamp = s.stamp := rfl
@[simp] theorem State.count_step (s : State) (d e : Nat) : (s.count d e).step = s.step := rfl
@[simp] theorem State.count_node (s : State) (d e : Nat) : (s.count d e).node = s.node := rfl
@[simp] theorem State.count_chain (s : State) (d e : Nat) : (s.count d e).chain = s.chain := rfl
@[simp] theorem State.count_accepted (s : State) (d e : Nat) : (s.count d e).accepted = s.accepted := rfl
@[simp] theorem State.count_failed (s : State) (d e : Nat) : (s.count d e).failed = s.failed := rfl
@[simp] theorem State.count_boot (s : State) (d e : Nat) : (s.count d e).boot = s.boot := rfl
@[simp] theorem State.count_tripped (s : State) (d e : Nat) : (s.count d e).tripped = s.tripped := rfl
@[simp] theorem State.count_cores (s : State) (d e : Nat) : (s.count d e).cores = s.cores := rfl
@[simp] theorem State.count_clusters (s : State) (d e : Nat) : (s.count d e).clusters = s.clusters := rfl
@[simp] theorem State.count_procs (s : State) (d e : Nat) : (s.count d e).procs = s.procs := rfl
@[simp] theorem State.count_launches (s : State) (d e : Nat) : (s.count d e).launches = s.launches := rfl
@[simp] theorem State.count_resp (s : State) (d e : Nat) : (s.count d e).resp = s.resp := rfl
@[simp] theorem State.count_notices (s : State) (d e : Nat) : (s.count d e).notices = s.notices := rfl
@[simp] theorem State.count_replays (s : State) (d e : Nat) : (s.count d e).replays = s.replays := rfl
@[simp] theorem State.count_gmaps (s : State) (d e : Nat) : (s.count d e).gmaps = s.gmaps := rfl
@[simp] theorem State.count_damaged (s : State) (d e : Nat) : (s.count d e).damaged = s.damaged := rfl
@[simp] theorem State.count_weak (s : State) (d e : Nat) : (s.count d e).weak = s.weak := rfl

@[simp] theorem State.notify_agenda (s : State) (n : Notice) : (s.notify n).agenda = s.agenda := rfl
@[simp] theorem State.notify_foc (s : State) (n : Notice) : (s.notify n).foc = s.foc := rfl
@[simp] theorem State.notify_draws (s : State) (n : Notice) : (s.notify n).draws = s.draws := rfl
@[simp] theorem State.notify_stamp (s : State) (n : Notice) : (s.notify n).stamp = s.stamp := rfl
@[simp] theorem State.notify_step (s : State) (n : Notice) : (s.notify n).step = s.step := rfl
@[simp] theorem State.notify_node (s : State) (n : Notice) : (s.notify n).node = s.node := rfl
@[simp] theorem State.notify_chain (s : State) (n : Notice) : (s.notify n).chain = s.chain := rfl
@[simp] theorem State.notify_accepted (s : State) (n : Notice) : (s.notify n).accepted = s.accepted := rfl
@[simp] theorem State.notify_failed (s : State) (n : Notice) : (s.notify n).failed = s.failed := rfl
@[simp] theorem State.notify_boot (s : State) (n : Notice) : (s.notify n).boot = s.boot := rfl
@[simp] theorem State.notify_tripped (s : State) (n : Notice) : (s.notify n).tripped = s.tripped := rfl
@[simp] theorem State.notify_cores (s : State) (n : Notice) : (s.notify n).cores = s.cores := rfl
@[simp] theorem State.notify_clusters (s : State) (n : Notice) : (s.notify n).clusters = s.clusters := rfl
@[simp] theorem State.notify_dies (s : State) (n : Notice) : (s.notify n).dies = s.dies := rfl
@[simp] theorem State.notify_procs (s : State) (n : Notice) : (s.notify n).procs = s.procs := rfl
@[simp] theorem State.notify_launches (s : State) (n : Notice) : (s.notify n).launches = s.launches := rfl
@[simp] theorem State.notify_resp (s : State) (n : Notice) : (s.notify n).resp = s.resp := rfl
@[simp] theorem State.notify_replays (s : State) (n : Notice) : (s.notify n).replays = s.replays := rfl
@[simp] theorem State.notify_gmaps (s : State) (n : Notice) : (s.notify n).gmaps = s.gmaps := rfl
@[simp] theorem State.notify_damaged (s : State) (n : Notice) : (s.notify n).damaged = s.damaged := rfl
@[simp] theorem State.notify_weak (s : State) (n : Notice) : (s.notify n).weak = s.weak := rfl

@[simp] theorem State.heal_agenda (s : State) (p : Damage → Bool) : (s.heal p).agenda = s.agenda := rfl
@[simp] theorem State.heal_foc (s : State) (p : Damage → Bool) : (s.heal p).foc = s.foc := rfl
@[simp] theorem State.heal_draws (s : State) (p : Damage → Bool) : (s.heal p).draws = s.draws := rfl
@[simp] theorem State.heal_stamp (s : State) (p : Damage → Bool) : (s.heal p).stamp = s.stamp := rfl
@[simp] theorem State.heal_step (s : State) (p : Damage → Bool) : (s.heal p).step = s.step := rfl
@[simp] theorem State.heal_node (s : State) (p : Damage → Bool) : (s.heal p).node = s.node := rfl
@[simp] theorem State.heal_chain (s : State) (p : Damage → Bool) : (s.heal p).chain = s.chain := rfl
@[simp] theorem State.heal_accepted (s : State) (p : Damage → Bool) : (s.heal p).accepted = s.accepted := rfl
@[simp] theorem State.heal_failed (s : State) (p : Damage → Bool) : (s.heal p).failed = s.failed := rfl
@[simp] theorem State.heal_boot (s : State) (p : Damage → Bool) : (s.heal p).boot = s.boot := rfl
@[simp] theorem State.heal_tripped (s : State) (p : Damage → Bool) : (s.heal p).tripped = s.tripped := rfl
@[simp] theorem State.heal_cores (s : State) (p : Damage → Bool) : (s.heal p).cores = s.cores := rfl
@[simp] theorem State.heal_clusters (s : State) (p : Damage → Bool) : (s.heal p).clusters = s.clusters := rfl
@[simp] theorem State.heal_dies (s : State) (p : Damage → Bool) : (s.heal p).dies = s.dies := rfl
@[simp] theorem State.heal_procs (s : State) (p : Damage → Bool) : (s.heal p).procs = s.procs := rfl
@[simp] theorem State.heal_launches (s : State) (p : Damage → Bool) : (s.heal p).launches = s.launches := rfl
@[simp] theorem State.heal_resp (s : State) (p : Damage → Bool) : (s.heal p).resp = s.resp := rfl
@[simp] theorem State.heal_notices (s : State) (p : Damage → Bool) : (s.heal p).notices = s.notices := rfl
@[simp] theorem State.heal_replays (s : State) (p : Damage → Bool) : (s.heal p).replays = s.replays := rfl
@[simp] theorem State.heal_gmaps (s : State) (p : Damage → Bool) : (s.heal p).gmaps = s.gmaps := rfl

@[simp] theorem State.setHandle_agenda (s : State) (p i : Nat) (h : Handle) : (s.setHandle p i h).agenda = s.agenda := rfl
@[simp] theorem State.setHandle_foc (s : State) (p i : Nat) (h : Handle) : (s.setHandle p i h).foc = s.foc := rfl
@[simp] theorem State.setHandle_draws (s : State) (p i : Nat) (h : Handle) : (s.setHandle p i h).draws = s.draws := rfl
@[simp] theorem State.setHandle_stamp (s : State) (p i : Nat) (h : Handle) : (s.setHandle p i h).stamp = s.stamp := rfl
@[simp] theorem State.setHandle_step (s : State) (p i : Nat) (h : Handle) : (s.setHandle p i h).step = s.step := rfl
@[simp] theorem State.setHandle_node (s : State) (p i : Nat) (h : Handle) : (s.setHandle p i h).node = s.node := rfl
@[simp] theorem State.setHandle_chain (s : State) (p i : Nat) (h : Handle) : (s.setHandle p i h).chain = s.chain := rfl
@[simp] theorem State.setHandle_accepted (s : State) (p i : Nat) (h : Handle) : (s.setHandle p i h).accepted = s.accepted := rfl
@[simp] theorem State.setHandle_failed (s : State) (p i : Nat) (h : Handle) : (s.setHandle p i h).failed = s.failed := rfl
@[simp] theorem State.setHandle_boot (s : State) (p i : Nat) (h : Handle) : (s.setHandle p i h).boot = s.boot := rfl
@[simp] theorem State.setHandle_tripped (s : State) (p i : Nat) (h : Handle) : (s.setHandle p i h).tripped = s.tripped := rfl
@[simp] theorem State.setHandle_cores (s : State) (p i : Nat) (h : Handle) : (s.setHandle p i h).cores = s.cores := rfl
@[simp] theorem State.setHandle_clusters (s : State) (p i : Nat) (h : Handle) : (s.setHandle p i h).clusters = s.clusters := rfl
@[simp] theorem State.setHandle_dies (s : State) (p i : Nat) (h : Handle) : (s.setHandle p i h).dies = s.dies := rfl
@[simp] theorem State.setHandle_launches (s : State) (p i : Nat) (h : Handle) : (s.setHandle p i h).launches = s.launches := rfl
@[simp] theorem State.setHandle_resp (s : State) (p i : Nat) (h : Handle) : (s.setHandle p i h).resp = s.resp := rfl
@[simp] theorem State.setHandle_notices (s : State) (p i : Nat) (h : Handle) : (s.setHandle p i h).notices = s.notices := rfl
@[simp] theorem State.setHandle_replays (s : State) (p i : Nat) (h : Handle) : (s.setHandle p i h).replays = s.replays := rfl
@[simp] theorem State.setHandle_gmaps (s : State) (p i : Nat) (h : Handle) : (s.setHandle p i h).gmaps = s.gmaps := rfl
@[simp] theorem State.setHandle_damaged (s : State) (p i : Nat) (h : Handle) : (s.setHandle p i h).damaged = s.damaged := rfl
@[simp] theorem State.setHandle_weak (s : State) (p i : Nat) (h : Handle) : (s.setHandle p i h).weak = s.weak := rfl

@[simp] theorem State.modHandle_agenda (s : State) (p i : Nat) (f : Handle → Handle) : (s.modHandle p i f).agenda = s.agenda := rfl
@[simp] theorem State.modHandle_foc (s : State) (p i : Nat) (f : Handle → Handle) : (s.modHandle p i f).foc = s.foc := rfl
@[simp] theorem State.modHandle_draws (s : State) (p i : Nat) (f : Handle → Handle) : (s.modHandle p i f).draws = s.draws := rfl
@[simp] theorem State.modHandle_stamp (s : State) (p i : Nat) (f : Handle → Handle) : (s.modHandle p i f).stamp = s.stamp := rfl
@[simp] theorem State.modHandle_step (s : State) (p i : Nat) (f : Handle → Handle) : (s.modHandle p i f).step = s.step := rfl
@[simp] theorem State.modHandle_node (s : State) (p i : Nat) (f : Handle → Handle) : (s.modHandle p i f).node = s.node := rfl
@[simp] theorem State.modHandle_chain (s : State) (p i : Nat) (f : Handle → Handle) : (s.modHandle p i f).chain = s.chain := rfl
@[simp] theorem State.modHandle_accepted (s : State) (p i : Nat) (f : Handle → Handle) : (s.modHandle p i f).accepted = s.accepted := rfl
@[simp] theorem State.modHandle_failed (s : State) (p i : Nat) (f : Handle → Handle) : (s.modHandle p i f).failed = s.failed := rfl
@[simp] theorem State.modHandle_boot (s : State) (p i : Nat) (f : Handle → Handle) : (s.modHandle p i f).boot = s.boot := rfl
@[simp] theorem State.modHandle_tripped (s : State) (p i : Nat) (f : Handle → Handle) : (s.modHandle p i f).tripped = s.tripped := rfl
@[simp] theorem State.modHandle_cores (s : State) (p i : Nat) (f : Handle → Handle) : (s.modHandle p i f).cores = s.cores := rfl
@[simp] theorem State.modHandle_clusters (s : State) (p i : Nat) (f : Handle → Handle) : (s.modHandle p i f).clusters = s.clusters := rfl
@[simp] theorem State.modHandle_dies (s : State) (p i : Nat) (f : Handle → Handle) : (s.modHandle p i f).dies = s.dies := rfl
@[simp] theorem State.modHandle_launches (s : State) (p i : Nat) (f : Handle → Handle) : (s.modHandle p i f).launches = s.launches := rfl
@[simp] theorem State.modHandle_resp (s : State) (p i : Nat) (f : Handle → Handle) : (s.modHandle p i f).resp = s.resp := rfl
@[simp] theorem State.modHandle_notices (s : State) (p i : Nat) (f : Handle → Handle) : (s.modHandle p i f).notices = s.notices := rfl
@[simp] theorem State.modHandle_replays (s : State) (p i : Nat) (f : Handle → Handle) : (s.modHandle p i f).replays = s.replays := rfl
@[simp] theorem State.modHandle_gmaps (s : State) (p i : Nat) (f : Handle → Handle) : (s.modHandle p i f).gmaps = s.gmaps := rfl
@[simp] theorem State.modHandle_damaged (s : State) (p i : Nat) (f : Handle → Handle) : (s.modHandle p i f).damaged = s.damaged := rfl
@[simp] theorem State.modHandle_weak (s : State) (p i : Nat) (f : Handle → Handle) : (s.modHandle p i f).weak = s.weak := rfl

@[simp] theorem State.draw_agenda (s : State) : s.draw.agenda = s.agenda := rfl
@[simp] theorem State.draw_foc (s : State) : s.draw.foc = s.foc := rfl
@[simp] theorem State.draw_stamp (s : State) : s.draw.stamp = s.stamp := rfl
@[simp] theorem State.draw_step (s : State) : s.draw.step = s.step := rfl
@[simp] theorem State.draw_node (s : State) : s.draw.node = s.node := rfl
@[simp] theorem State.draw_chain (s : State) : s.draw.chain = s.chain := rfl
@[simp] theorem State.draw_accepted (s : State) : s.draw.accepted = s.accepted := rfl
@[simp] theorem State.draw_failed (s : State) : s.draw.failed = s.failed := rfl
@[simp] theorem State.draw_boot (s : State) : s.draw.boot = s.boot := rfl
@[simp] theorem State.draw_tripped (s : State) : s.draw.tripped = s.tripped := rfl
@[simp] theorem State.draw_cores (s : State) : s.draw.cores = s.cores := rfl
@[simp] theorem State.draw_clusters (s : State) : s.draw.clusters = s.clusters := rfl
@[simp] theorem State.draw_dies (s : State) : s.draw.dies = s.dies := rfl
@[simp] theorem State.draw_procs (s : State) : s.draw.procs = s.procs := rfl
@[simp] theorem State.draw_launches (s : State) : s.draw.launches = s.launches := rfl
@[simp] theorem State.draw_resp (s : State) : s.draw.resp = s.resp := rfl
@[simp] theorem State.draw_notices (s : State) : s.draw.notices = s.notices := rfl
@[simp] theorem State.draw_replays (s : State) : s.draw.replays = s.replays := rfl
@[simp] theorem State.draw_gmaps (s : State) : s.draw.gmaps = s.gmaps := rfl
@[simp] theorem State.draw_damaged (s : State) : s.draw.damaged = s.damaged := rfl
@[simp] theorem State.draw_weak (s : State) : s.draw.weak = s.weak := rfl

/-! ### Fields of a core -/

@[simp] theorem Core.setCtx_vrf (k : Core) (x : Nat) (v : Ctx) : (k.setCtx x v).vrf = k.vrf := rfl
@[simp] theorem Core.setCtx_tiles (k : Core) (x : Nat) (v : Ctx) : (k.setCtx x v).tiles = k.tiles := rfl
@[simp] theorem Core.setCtx_cov (k : Core) (x : Nat) (v : Ctx) : (k.setCtx x v).cov = k.cov := rfl
@[simp] theorem Core.setCtx_pages (k : Core) (x : Nat) (v : Ctx) : (k.setCtx x v).pages = k.pages := rfl
@[simp] theorem Core.setCtx_loopBuf (k : Core) (x : Nat) (v : Ctx) : (k.setCtx x v).loopBuf = k.loopBuf := rfl
@[simp] theorem Core.setCtx_hcA (k : Core) (x : Nat) (v : Ctx) : (k.setCtx x v).hcA = k.hcA := rfl
@[simp] theorem Core.setCtx_hcB (k : Core) (x : Nat) (v : Ctx) : (k.setCtx x v).hcB = k.hcB := rfl
@[simp] theorem Core.setCtx_cycle (k : Core) (x : Nat) (v : Ctx) : (k.setCtx x v).cycle = k.cycle := rfl
@[simp] theorem Core.setCtx_running (k : Core) (x : Nat) (v : Ctx) : (k.setCtx x v).running = k.running := rfl
@[simp] theorem Core.setCtx_busy (k : Core) (x : Nat) (v : Ctx) : (k.setCtx x v).busy = k.busy := rfl
@[simp] theorem Core.setCtx_runOn (k : Core) (x : Nat) (v : Ctx) : (k.setCtx x v).runOn = k.runOn := rfl
@[simp] theorem Core.setCtx_ending (k : Core) (x : Nat) (v : Ctx) : (k.setCtx x v).ending = k.ending := rfl
@[simp] theorem Core.setCtx_quieted (k : Core) (x : Nat) (v : Ctx) : (k.setCtx x v).quieted = k.quieted := rfl
@[simp] theorem Core.setCtx_qbOld (k : Core) (x : Nat) (v : Ctx) : (k.setCtx x v).qbOld = k.qbOld := rfl
@[simp] theorem Core.setCtx_runs (k : Core) (x : Nat) (v : Ctx) : (k.setCtx x v).runs = k.runs := rfl
@[simp] theorem Core.setCtx_pend (k : Core) (x : Nat) (v : Ctx) : (k.setCtx x v).pend = k.pend := rfl
@[simp] theorem Core.setCtx_tvis (k : Core) (x : Nat) (v : Ctx) : (k.setCtx x v).tvis = k.tvis := rfl
@[simp] theorem Core.setCtx_dops (k : Core) (x : Nat) (v : Ctx) : (k.setCtx x v).dops = k.dops := rfl
@[simp] theorem Core.setCtx_mxs (k : Core) (x : Nat) (v : Ctx) : (k.setCtx x v).mxs = k.mxs := rfl
@[simp] theorem Core.setCtx_names (k : Core) (x : Nat) (v : Ctx) : (k.setCtx x v).names = k.names := rfl

@[simp] theorem Core.modCtx_vrf (k : Core) (x : Nat) (f : Ctx → Ctx) : (k.modCtx x f).vrf = k.vrf := rfl
@[simp] theorem Core.modCtx_tiles (k : Core) (x : Nat) (f : Ctx → Ctx) : (k.modCtx x f).tiles = k.tiles := rfl
@[simp] theorem Core.modCtx_cov (k : Core) (x : Nat) (f : Ctx → Ctx) : (k.modCtx x f).cov = k.cov := rfl
@[simp] theorem Core.modCtx_pages (k : Core) (x : Nat) (f : Ctx → Ctx) : (k.modCtx x f).pages = k.pages := rfl
@[simp] theorem Core.modCtx_loopBuf (k : Core) (x : Nat) (f : Ctx → Ctx) : (k.modCtx x f).loopBuf = k.loopBuf := rfl
@[simp] theorem Core.modCtx_hcA (k : Core) (x : Nat) (f : Ctx → Ctx) : (k.modCtx x f).hcA = k.hcA := rfl
@[simp] theorem Core.modCtx_hcB (k : Core) (x : Nat) (f : Ctx → Ctx) : (k.modCtx x f).hcB = k.hcB := rfl
@[simp] theorem Core.modCtx_cycle (k : Core) (x : Nat) (f : Ctx → Ctx) : (k.modCtx x f).cycle = k.cycle := rfl
@[simp] theorem Core.modCtx_running (k : Core) (x : Nat) (f : Ctx → Ctx) : (k.modCtx x f).running = k.running := rfl
@[simp] theorem Core.modCtx_busy (k : Core) (x : Nat) (f : Ctx → Ctx) : (k.modCtx x f).busy = k.busy := rfl
@[simp] theorem Core.modCtx_runOn (k : Core) (x : Nat) (f : Ctx → Ctx) : (k.modCtx x f).runOn = k.runOn := rfl
@[simp] theorem Core.modCtx_ending (k : Core) (x : Nat) (f : Ctx → Ctx) : (k.modCtx x f).ending = k.ending := rfl
@[simp] theorem Core.modCtx_quieted (k : Core) (x : Nat) (f : Ctx → Ctx) : (k.modCtx x f).quieted = k.quieted := rfl
@[simp] theorem Core.modCtx_qbOld (k : Core) (x : Nat) (f : Ctx → Ctx) : (k.modCtx x f).qbOld = k.qbOld := rfl
@[simp] theorem Core.modCtx_runs (k : Core) (x : Nat) (f : Ctx → Ctx) : (k.modCtx x f).runs = k.runs := rfl
@[simp] theorem Core.modCtx_pend (k : Core) (x : Nat) (f : Ctx → Ctx) : (k.modCtx x f).pend = k.pend := rfl
@[simp] theorem Core.modCtx_tvis (k : Core) (x : Nat) (f : Ctx → Ctx) : (k.modCtx x f).tvis = k.tvis := rfl
@[simp] theorem Core.modCtx_dops (k : Core) (x : Nat) (f : Ctx → Ctx) : (k.modCtx x f).dops = k.dops := rfl
@[simp] theorem Core.modCtx_mxs (k : Core) (x : Nat) (f : Ctx → Ctx) : (k.modCtx x f).mxs = k.mxs := rfl
@[simp] theorem Core.modCtx_names (k : Core) (x : Nat) (f : Ctx → Ctx) : (k.modCtx x f).names = k.names := rfl

@[simp] theorem Core.setTile_ctxs (k : Core) (t : Nat) (v : Tile) : (k.setTile t v).ctxs = k.ctxs := rfl
@[simp] theorem Core.setTile_vrf (k : Core) (t : Nat) (v : Tile) : (k.setTile t v).vrf = k.vrf := rfl
@[simp] theorem Core.setTile_cov (k : Core) (t : Nat) (v : Tile) : (k.setTile t v).cov = k.cov := rfl
@[simp] theorem Core.setTile_pages (k : Core) (t : Nat) (v : Tile) : (k.setTile t v).pages = k.pages := rfl
@[simp] theorem Core.setTile_loopBuf (k : Core) (t : Nat) (v : Tile) : (k.setTile t v).loopBuf = k.loopBuf := rfl
@[simp] theorem Core.setTile_hcA (k : Core) (t : Nat) (v : Tile) : (k.setTile t v).hcA = k.hcA := rfl
@[simp] theorem Core.setTile_hcB (k : Core) (t : Nat) (v : Tile) : (k.setTile t v).hcB = k.hcB := rfl
@[simp] theorem Core.setTile_cycle (k : Core) (t : Nat) (v : Tile) : (k.setTile t v).cycle = k.cycle := rfl
@[simp] theorem Core.setTile_running (k : Core) (t : Nat) (v : Tile) : (k.setTile t v).running = k.running := rfl
@[simp] theorem Core.setTile_busy (k : Core) (t : Nat) (v : Tile) : (k.setTile t v).busy = k.busy := rfl
@[simp] theorem Core.setTile_runOn (k : Core) (t : Nat) (v : Tile) : (k.setTile t v).runOn = k.runOn := rfl
@[simp] theorem Core.setTile_ending (k : Core) (t : Nat) (v : Tile) : (k.setTile t v).ending = k.ending := rfl
@[simp] theorem Core.setTile_quieted (k : Core) (t : Nat) (v : Tile) : (k.setTile t v).quieted = k.quieted := rfl
@[simp] theorem Core.setTile_qbOld (k : Core) (t : Nat) (v : Tile) : (k.setTile t v).qbOld = k.qbOld := rfl
@[simp] theorem Core.setTile_runs (k : Core) (t : Nat) (v : Tile) : (k.setTile t v).runs = k.runs := rfl
@[simp] theorem Core.setTile_pend (k : Core) (t : Nat) (v : Tile) : (k.setTile t v).pend = k.pend := rfl
@[simp] theorem Core.setTile_tvis (k : Core) (t : Nat) (v : Tile) : (k.setTile t v).tvis = k.tvis := rfl
@[simp] theorem Core.setTile_dops (k : Core) (t : Nat) (v : Tile) : (k.setTile t v).dops = k.dops := rfl
@[simp] theorem Core.setTile_mxs (k : Core) (t : Nat) (v : Tile) : (k.setTile t v).mxs = k.mxs := rfl
@[simp] theorem Core.setTile_names (k : Core) (t : Nat) (v : Tile) : (k.setTile t v).names = k.names := rfl

@[simp] theorem Core.setLanes_ctxs (k : Core) (p : Nat) (m : LaneMask) (v : Vec) : (k.setLanes p m v).ctxs = k.ctxs := rfl
@[simp] theorem Core.setLanes_tiles (k : Core) (p : Nat) (m : LaneMask) (v : Vec) : (k.setLanes p m v).tiles = k.tiles := rfl
@[simp] theorem Core.setLanes_cov (k : Core) (p : Nat) (m : LaneMask) (v : Vec) : (k.setLanes p m v).cov = k.cov := rfl
@[simp] theorem Core.setLanes_pages (k : Core) (p : Nat) (m : LaneMask) (v : Vec) : (k.setLanes p m v).pages = k.pages := rfl
@[simp] theorem Core.setLanes_loopBuf (k : Core) (p : Nat) (m : LaneMask) (v : Vec) : (k.setLanes p m v).loopBuf = k.loopBuf := rfl
@[simp] theorem Core.setLanes_hcA (k : Core) (p : Nat) (m : LaneMask) (v : Vec) : (k.setLanes p m v).hcA = k.hcA := rfl
@[simp] theorem Core.setLanes_hcB (k : Core) (p : Nat) (m : LaneMask) (v : Vec) : (k.setLanes p m v).hcB = k.hcB := rfl
@[simp] theorem Core.setLanes_cycle (k : Core) (p : Nat) (m : LaneMask) (v : Vec) : (k.setLanes p m v).cycle = k.cycle := rfl
@[simp] theorem Core.setLanes_running (k : Core) (p : Nat) (m : LaneMask) (v : Vec) : (k.setLanes p m v).running = k.running := rfl
@[simp] theorem Core.setLanes_busy (k : Core) (p : Nat) (m : LaneMask) (v : Vec) : (k.setLanes p m v).busy = k.busy := rfl
@[simp] theorem Core.setLanes_runOn (k : Core) (p : Nat) (m : LaneMask) (v : Vec) : (k.setLanes p m v).runOn = k.runOn := rfl
@[simp] theorem Core.setLanes_ending (k : Core) (p : Nat) (m : LaneMask) (v : Vec) : (k.setLanes p m v).ending = k.ending := rfl
@[simp] theorem Core.setLanes_quieted (k : Core) (p : Nat) (m : LaneMask) (v : Vec) : (k.setLanes p m v).quieted = k.quieted := rfl
@[simp] theorem Core.setLanes_qbOld (k : Core) (p : Nat) (m : LaneMask) (v : Vec) : (k.setLanes p m v).qbOld = k.qbOld := rfl
@[simp] theorem Core.setLanes_runs (k : Core) (p : Nat) (m : LaneMask) (v : Vec) : (k.setLanes p m v).runs = k.runs := rfl
@[simp] theorem Core.setLanes_pend (k : Core) (p : Nat) (m : LaneMask) (v : Vec) : (k.setLanes p m v).pend = k.pend := rfl
@[simp] theorem Core.setLanes_tvis (k : Core) (p : Nat) (m : LaneMask) (v : Vec) : (k.setLanes p m v).tvis = k.tvis := rfl
@[simp] theorem Core.setLanes_dops (k : Core) (p : Nat) (m : LaneMask) (v : Vec) : (k.setLanes p m v).dops = k.dops := rfl
@[simp] theorem Core.setLanes_mxs (k : Core) (p : Nat) (m : LaneMask) (v : Vec) : (k.setLanes p m v).mxs = k.mxs := rfl
@[simp] theorem Core.setLanes_names (k : Core) (p : Nat) (m : LaneMask) (v : Vec) : (k.setLanes p m v).names = k.names := rfl

/-! ### Fields of a context -/

@[simp] theorem Ctx.setPred_st (x : Ctx) (i : Nat) (b : Bool) : (x.setPred i b).st = x.st := rfl
@[simp] theorem Ctx.setPred_launch (x : Ctx) (i : Nat) (b : Bool) : (x.setPred i b).launch = x.launch := rfl
@[simp] theorem Ctx.setPred_pc (x : Ctx) (i : Nat) (b : Bool) : (x.setPred i b).pc = x.pc := rfl
@[simp] theorem Ctx.setPred_s (x : Ctx) (i : Nat) (b : Bool) : (x.setPred i b).s = x.s := rfl
@[simp] theorem Ctx.setPred_k (x : Ctx) (i : Nat) (b : Bool) : (x.setPred i b).k = x.k := rfl
@[simp] theorem Ctx.setPred_x (x : Ctx) (i : Nat) (b : Bool) : (x.setPred i b).x = x.x := rfl
@[simp] theorem Ctx.setPred_h (x : Ctx) (i : Nat) (b : Bool) : (x.setPred i b).h = x.h := rfl
@[simp] theorem Ctx.setPred_n (x : Ctx) (i : Nat) (b : Bool) : (x.setPred i b).n = x.n := rfl
@[simp] theorem Ctx.setPred_tk (x : Ctx) (i : Nat) (b : Bool) : (x.setPred i b).tk = x.tk := rfl
@[simp] theorem Ctx.setPred_loose (x : Ctx) (i : Nat) (b : Bool) : (x.setPred i b).loose = x.loose := rfl
@[simp] theorem Ctx.setPred_loops (x : Ctx) (i : Nat) (b : Bool) : (x.setPred i b).loops = x.loops := rfl
@[simp] theorem Ctx.setPred_sc (x : Ctx) (i : Nat) (b : Bool) : (x.setPred i b).sc = x.sc := rfl
@[simp] theorem Ctx.setPred_rmode (x : Ctx) (i : Nat) (b : Bool) : (x.setPred i b).rmode = x.rmode := rfl
@[simp] theorem Ctx.setPred_qb (x : Ctx) (i : Nat) (b : Bool) : (x.setPred i b).qb = x.qb := rfl
@[simp] theorem Ctx.setPred_rb (x : Ctx) (i : Nat) (b : Bool) : (x.setPred i b).rb = x.rb := rfl
@[simp] theorem Ctx.setPred_cpat (x : Ctx) (i : Nat) (b : Bool) : (x.setPred i b).cpat = x.cpat := rfl
@[simp] theorem Ctx.setPred_ssm (x : Ctx) (i : Nat) (b : Bool) : (x.setPred i b).ssm = x.ssm := rfl
@[simp] theorem Ctx.setPred_sig (x : Ctx) (i : Nat) (b : Bool) : (x.setPred i b).sig = x.sig := rfl
@[simp] theorem Ctx.setPred_sigVis (x : Ctx) (i : Nat) (b : Bool) : (x.setPred i b).sigVis = x.sigVis := rfl
@[simp] theorem Ctx.setPred_sigref (x : Ctx) (i : Nat) (b : Bool) : (x.setPred i b).sigref = x.sigref := rfl
@[simp] theorem Ctx.setPred_vfs (x : Ctx) (i : Nat) (b : Bool) : (x.setPred i b).vfs = x.vfs := rfl
@[simp] theorem Ctx.setPred_nextA (x : Ctx) (i : Nat) (b : Bool) : (x.setPred i b).nextA = x.nextA := rfl
@[simp] theorem Ctx.setPred_nextB (x : Ctx) (i : Nat) (b : Bool) : (x.setPred i b).nextB = x.nextB := rfl
@[simp] theorem Ctx.setPred_flues (x : Ctx) (i : Nat) (b : Bool) : (x.setPred i b).flues = x.flues := rfl
@[simp] theorem Ctx.setPred_wins (x : Ctx) (i : Nat) (b : Bool) : (x.setPred i b).wins = x.wins := rfl
@[simp] theorem Ctx.setPred_fr (x : Ctx) (i : Nat) (b : Bool) : (x.setPred i b).fr = x.fr := rfl
@[simp] theorem Ctx.setPred_runCount (x : Ctx) (i : Nat) (b : Bool) : (x.setPred i b).runCount = x.runCount := rfl
@[simp] theorem Ctx.setPred_quietCount (x : Ctx) (i : Nat) (b : Bool) : (x.setPred i b).quietCount = x.quietCount := rfl
@[simp] theorem Ctx.setPred_untaken (x : Ctx) (i : Nat) (b : Bool) : (x.setPred i b).untaken = x.untaken := rfl
@[simp] theorem Ctx.setPred_vbase (x : Ctx) (i : Nat) (b : Bool) : (x.setPred i b).vbase = x.vbase := rfl
@[simp] theorem Ctx.setPred_vunits (x : Ctx) (i : Nat) (b : Bool) : (x.setPred i b).vunits = x.vunits := rfl
@[simp] theorem Ctx.setPred_tiles (x : Ctx) (i : Nat) (b : Bool) : (x.setPred i b).tiles = x.tiles := rfl
@[simp] theorem Ctx.setPred_cov (x : Ctx) (i : Nat) (b : Bool) : (x.setPred i b).cov = x.cov := rfl
@[simp] theorem Ctx.setPred_marked (x : Ctx) (i : Nat) (b : Bool) : (x.setPred i b).marked = x.marked := rfl
@[simp] theorem Ctx.setPred_nxt (x : Ctx) (i : Nat) (b : Bool) : (x.setPred i b).nxt = x.nxt := rfl
@[simp] theorem Ctx.setPred_nextBankB (x : Ctx) (i : Nat) (b : Bool) : (x.setPred i b).nextBankB = x.nextBankB := rfl
@[simp] theorem Ctx.setPred_bars (x : Ctx) (i : Nat) (b : Bool) : (x.setPred i b).bars = x.bars := rfl
@[simp] theorem Ctx.setPred_lastRun (x : Ctx) (i : Nat) (b : Bool) : (x.setPred i b).lastRun = x.lastRun := rfl
@[simp] theorem Ctx.setPred_afterHalt (x : Ctx) (i : Nat) (b : Bool) : (x.setPred i b).afterHalt = x.afterHalt := rfl
@[simp] theorem Ctx.setPred_haltWait (x : Ctx) (i : Nat) (b : Bool) : (x.setPred i b).haltWait = x.haltWait := rfl
@[simp] theorem Ctx.setPred_fills (x : Ctx) (i : Nat) (b : Bool) : (x.setPred i b).fills = x.fills := rfl
@[simp] theorem Ctx.setPred_refetch (x : Ctx) (i : Nat) (b : Bool) : (x.setPred i b).refetch = x.refetch := rfl
@[simp] theorem Ctx.setPred_stores (x : Ctx) (i : Nat) (b : Bool) : (x.setPred i b).stores = x.stores := rfl

@[simp] theorem Ctx.setLoop_st (x : Ctx) (l : Nat) (v : Loop) : (x.setLoop l v).st = x.st := rfl
@[simp] theorem Ctx.setLoop_launch (x : Ctx) (l : Nat) (v : Loop) : (x.setLoop l v).launch = x.launch := rfl
@[simp] theorem Ctx.setLoop_pc (x : Ctx) (l : Nat) (v : Loop) : (x.setLoop l v).pc = x.pc := rfl
@[simp] theorem Ctx.setLoop_s (x : Ctx) (l : Nat) (v : Loop) : (x.setLoop l v).s = x.s := rfl
@[simp] theorem Ctx.setLoop_q (x : Ctx) (l : Nat) (v : Loop) : (x.setLoop l v).q = x.q := rfl
@[simp] theorem Ctx.setLoop_k (x : Ctx) (l : Nat) (v : Loop) : (x.setLoop l v).k = x.k := rfl
@[simp] theorem Ctx.setLoop_x (x : Ctx) (l : Nat) (v : Loop) : (x.setLoop l v).x = x.x := rfl
@[simp] theorem Ctx.setLoop_h (x : Ctx) (l : Nat) (v : Loop) : (x.setLoop l v).h = x.h := rfl
@[simp] theorem Ctx.setLoop_n (x : Ctx) (l : Nat) (v : Loop) : (x.setLoop l v).n = x.n := rfl
@[simp] theorem Ctx.setLoop_tk (x : Ctx) (l : Nat) (v : Loop) : (x.setLoop l v).tk = x.tk := rfl
@[simp] theorem Ctx.setLoop_loose (x : Ctx) (l : Nat) (v : Loop) : (x.setLoop l v).loose = x.loose := rfl
@[simp] theorem Ctx.setLoop_sc (x : Ctx) (l : Nat) (v : Loop) : (x.setLoop l v).sc = x.sc := rfl
@[simp] theorem Ctx.setLoop_rmode (x : Ctx) (l : Nat) (v : Loop) : (x.setLoop l v).rmode = x.rmode := rfl
@[simp] theorem Ctx.setLoop_qb (x : Ctx) (l : Nat) (v : Loop) : (x.setLoop l v).qb = x.qb := rfl
@[simp] theorem Ctx.setLoop_rb (x : Ctx) (l : Nat) (v : Loop) : (x.setLoop l v).rb = x.rb := rfl
@[simp] theorem Ctx.setLoop_cpat (x : Ctx) (l : Nat) (v : Loop) : (x.setLoop l v).cpat = x.cpat := rfl
@[simp] theorem Ctx.setLoop_ssm (x : Ctx) (l : Nat) (v : Loop) : (x.setLoop l v).ssm = x.ssm := rfl
@[simp] theorem Ctx.setLoop_sig (x : Ctx) (l : Nat) (v : Loop) : (x.setLoop l v).sig = x.sig := rfl
@[simp] theorem Ctx.setLoop_sigVis (x : Ctx) (l : Nat) (v : Loop) : (x.setLoop l v).sigVis = x.sigVis := rfl
@[simp] theorem Ctx.setLoop_sigref (x : Ctx) (l : Nat) (v : Loop) : (x.setLoop l v).sigref = x.sigref := rfl
@[simp] theorem Ctx.setLoop_vfs (x : Ctx) (l : Nat) (v : Loop) : (x.setLoop l v).vfs = x.vfs := rfl
@[simp] theorem Ctx.setLoop_nextA (x : Ctx) (l : Nat) (v : Loop) : (x.setLoop l v).nextA = x.nextA := rfl
@[simp] theorem Ctx.setLoop_nextB (x : Ctx) (l : Nat) (v : Loop) : (x.setLoop l v).nextB = x.nextB := rfl
@[simp] theorem Ctx.setLoop_flues (x : Ctx) (l : Nat) (v : Loop) : (x.setLoop l v).flues = x.flues := rfl
@[simp] theorem Ctx.setLoop_wins (x : Ctx) (l : Nat) (v : Loop) : (x.setLoop l v).wins = x.wins := rfl
@[simp] theorem Ctx.setLoop_fr (x : Ctx) (l : Nat) (v : Loop) : (x.setLoop l v).fr = x.fr := rfl
@[simp] theorem Ctx.setLoop_runCount (x : Ctx) (l : Nat) (v : Loop) : (x.setLoop l v).runCount = x.runCount := rfl
@[simp] theorem Ctx.setLoop_quietCount (x : Ctx) (l : Nat) (v : Loop) : (x.setLoop l v).quietCount = x.quietCount := rfl
@[simp] theorem Ctx.setLoop_untaken (x : Ctx) (l : Nat) (v : Loop) : (x.setLoop l v).untaken = x.untaken := rfl
@[simp] theorem Ctx.setLoop_vbase (x : Ctx) (l : Nat) (v : Loop) : (x.setLoop l v).vbase = x.vbase := rfl
@[simp] theorem Ctx.setLoop_vunits (x : Ctx) (l : Nat) (v : Loop) : (x.setLoop l v).vunits = x.vunits := rfl
@[simp] theorem Ctx.setLoop_tiles (x : Ctx) (l : Nat) (v : Loop) : (x.setLoop l v).tiles = x.tiles := rfl
@[simp] theorem Ctx.setLoop_cov (x : Ctx) (l : Nat) (v : Loop) : (x.setLoop l v).cov = x.cov := rfl
@[simp] theorem Ctx.setLoop_marked (x : Ctx) (l : Nat) (v : Loop) : (x.setLoop l v).marked = x.marked := rfl
@[simp] theorem Ctx.setLoop_nxt (x : Ctx) (l : Nat) (v : Loop) : (x.setLoop l v).nxt = x.nxt := rfl
@[simp] theorem Ctx.setLoop_nextBankB (x : Ctx) (l : Nat) (v : Loop) : (x.setLoop l v).nextBankB = x.nextBankB := rfl
@[simp] theorem Ctx.setLoop_bars (x : Ctx) (l : Nat) (v : Loop) : (x.setLoop l v).bars = x.bars := rfl
@[simp] theorem Ctx.setLoop_lastRun (x : Ctx) (l : Nat) (v : Loop) : (x.setLoop l v).lastRun = x.lastRun := rfl
@[simp] theorem Ctx.setLoop_afterHalt (x : Ctx) (l : Nat) (v : Loop) : (x.setLoop l v).afterHalt = x.afterHalt := rfl
@[simp] theorem Ctx.setLoop_haltWait (x : Ctx) (l : Nat) (v : Loop) : (x.setLoop l v).haltWait = x.haltWait := rfl
@[simp] theorem Ctx.setLoop_fills (x : Ctx) (l : Nat) (v : Loop) : (x.setLoop l v).fills = x.fills := rfl
@[simp] theorem Ctx.setLoop_refetch (x : Ctx) (l : Nat) (v : Loop) : (x.setLoop l v).refetch = x.refetch := rfl
@[simp] theorem Ctx.setLoop_stores (x : Ctx) (l : Nat) (v : Loop) : (x.setLoop l v).stores = x.stores := rfl

@[simp] theorem Ctx.setStep_st (x : Ctx) (b : Bool) : (x.setStep b).st = x.st := rfl
@[simp] theorem Ctx.setStep_launch (x : Ctx) (b : Bool) : (x.setStep b).launch = x.launch := rfl
@[simp] theorem Ctx.setStep_pc (x : Ctx) (b : Bool) : (x.setStep b).pc = x.pc := rfl
@[simp] theorem Ctx.setStep_s (x : Ctx) (b : Bool) : (x.setStep b).s = x.s := rfl
@[simp] theorem Ctx.setStep_q (x : Ctx) (b : Bool) : (x.setStep b).q = x.q := rfl
@[simp] theorem Ctx.setStep_k (x : Ctx) (b : Bool) : (x.setStep b).k = x.k := rfl
@[simp] theorem Ctx.setStep_x (x : Ctx) (b : Bool) : (x.setStep b).x = x.x := rfl
@[simp] theorem Ctx.setStep_h (x : Ctx) (b : Bool) : (x.setStep b).h = x.h := rfl
@[simp] theorem Ctx.setStep_n (x : Ctx) (b : Bool) : (x.setStep b).n = x.n := rfl
@[simp] theorem Ctx.setStep_tk (x : Ctx) (b : Bool) : (x.setStep b).tk = x.tk := rfl
@[simp] theorem Ctx.setStep_loose (x : Ctx) (b : Bool) : (x.setStep b).loose = x.loose := rfl
@[simp] theorem Ctx.setStep_loops (x : Ctx) (b : Bool) : (x.setStep b).loops = x.loops := rfl
@[simp] theorem Ctx.setStep_sc (x : Ctx) (b : Bool) : (x.setStep b).sc = x.sc := rfl
@[simp] theorem Ctx.setStep_rmode (x : Ctx) (b : Bool) : (x.setStep b).rmode = x.rmode := rfl
@[simp] theorem Ctx.setStep_qb (x : Ctx) (b : Bool) : (x.setStep b).qb = x.qb := rfl
@[simp] theorem Ctx.setStep_rb (x : Ctx) (b : Bool) : (x.setStep b).rb = x.rb := rfl
@[simp] theorem Ctx.setStep_cpat (x : Ctx) (b : Bool) : (x.setStep b).cpat = x.cpat := rfl
@[simp] theorem Ctx.setStep_ssm (x : Ctx) (b : Bool) : (x.setStep b).ssm = x.ssm := rfl
@[simp] theorem Ctx.setStep_sig (x : Ctx) (b : Bool) : (x.setStep b).sig = x.sig := rfl
@[simp] theorem Ctx.setStep_sigVis (x : Ctx) (b : Bool) : (x.setStep b).sigVis = x.sigVis := rfl
@[simp] theorem Ctx.setStep_sigref (x : Ctx) (b : Bool) : (x.setStep b).sigref = x.sigref := rfl
@[simp] theorem Ctx.setStep_vfs (x : Ctx) (b : Bool) : (x.setStep b).vfs = x.vfs := rfl
@[simp] theorem Ctx.setStep_nextA (x : Ctx) (b : Bool) : (x.setStep b).nextA = x.nextA := rfl
@[simp] theorem Ctx.setStep_nextB (x : Ctx) (b : Bool) : (x.setStep b).nextB = x.nextB := rfl
@[simp] theorem Ctx.setStep_flues (x : Ctx) (b : Bool) : (x.setStep b).flues = x.flues := rfl
@[simp] theorem Ctx.setStep_wins (x : Ctx) (b : Bool) : (x.setStep b).wins = x.wins := rfl
@[simp] theorem Ctx.setStep_runCount (x : Ctx) (b : Bool) : (x.setStep b).runCount = x.runCount := rfl
@[simp] theorem Ctx.setStep_quietCount (x : Ctx) (b : Bool) : (x.setStep b).quietCount = x.quietCount := rfl
@[simp] theorem Ctx.setStep_untaken (x : Ctx) (b : Bool) : (x.setStep b).untaken = x.untaken := rfl
@[simp] theorem Ctx.setStep_vbase (x : Ctx) (b : Bool) : (x.setStep b).vbase = x.vbase := rfl
@[simp] theorem Ctx.setStep_vunits (x : Ctx) (b : Bool) : (x.setStep b).vunits = x.vunits := rfl
@[simp] theorem Ctx.setStep_tiles (x : Ctx) (b : Bool) : (x.setStep b).tiles = x.tiles := rfl
@[simp] theorem Ctx.setStep_cov (x : Ctx) (b : Bool) : (x.setStep b).cov = x.cov := rfl
@[simp] theorem Ctx.setStep_marked (x : Ctx) (b : Bool) : (x.setStep b).marked = x.marked := rfl
@[simp] theorem Ctx.setStep_nxt (x : Ctx) (b : Bool) : (x.setStep b).nxt = x.nxt := rfl
@[simp] theorem Ctx.setStep_nextBankB (x : Ctx) (b : Bool) : (x.setStep b).nextBankB = x.nextBankB := rfl
@[simp] theorem Ctx.setStep_bars (x : Ctx) (b : Bool) : (x.setStep b).bars = x.bars := rfl
@[simp] theorem Ctx.setStep_lastRun (x : Ctx) (b : Bool) : (x.setStep b).lastRun = x.lastRun := rfl
@[simp] theorem Ctx.setStep_afterHalt (x : Ctx) (b : Bool) : (x.setStep b).afterHalt = x.afterHalt := rfl
@[simp] theorem Ctx.setStep_haltWait (x : Ctx) (b : Bool) : (x.setStep b).haltWait = x.haltWait := rfl
@[simp] theorem Ctx.setStep_fills (x : Ctx) (b : Bool) : (x.setStep b).fills = x.fills := rfl
@[simp] theorem Ctx.setStep_refetch (x : Ctx) (b : Bool) : (x.setStep b).refetch = x.refetch := rfl
@[simp] theorem Ctx.setStep_stores (x : Ctx) (b : Bool) : (x.setStep b).stores = x.stores := rfl

@[simp] theorem Ctx.clearPoison_st (x : Ctx) (a : Nat) : (x.clearPoison a).st = x.st := rfl
@[simp] theorem Ctx.clearPoison_launch (x : Ctx) (a : Nat) : (x.clearPoison a).launch = x.launch := rfl
@[simp] theorem Ctx.clearPoison_pc (x : Ctx) (a : Nat) : (x.clearPoison a).pc = x.pc := rfl
@[simp] theorem Ctx.clearPoison_s (x : Ctx) (a : Nat) : (x.clearPoison a).s = x.s := rfl
@[simp] theorem Ctx.clearPoison_q (x : Ctx) (a : Nat) : (x.clearPoison a).q = x.q := rfl
@[simp] theorem Ctx.clearPoison_k (x : Ctx) (a : Nat) : (x.clearPoison a).k = x.k := rfl
@[simp] theorem Ctx.clearPoison_x (x : Ctx) (a : Nat) : (x.clearPoison a).x = x.x := rfl
@[simp] theorem Ctx.clearPoison_h (x : Ctx) (a : Nat) : (x.clearPoison a).h = x.h := rfl
@[simp] theorem Ctx.clearPoison_n (x : Ctx) (a : Nat) : (x.clearPoison a).n = x.n := rfl
@[simp] theorem Ctx.clearPoison_loose (x : Ctx) (a : Nat) : (x.clearPoison a).loose = x.loose := rfl
@[simp] theorem Ctx.clearPoison_loops (x : Ctx) (a : Nat) : (x.clearPoison a).loops = x.loops := rfl
@[simp] theorem Ctx.clearPoison_sc (x : Ctx) (a : Nat) : (x.clearPoison a).sc = x.sc := rfl
@[simp] theorem Ctx.clearPoison_rmode (x : Ctx) (a : Nat) : (x.clearPoison a).rmode = x.rmode := rfl
@[simp] theorem Ctx.clearPoison_qb (x : Ctx) (a : Nat) : (x.clearPoison a).qb = x.qb := rfl
@[simp] theorem Ctx.clearPoison_rb (x : Ctx) (a : Nat) : (x.clearPoison a).rb = x.rb := rfl
@[simp] theorem Ctx.clearPoison_cpat (x : Ctx) (a : Nat) : (x.clearPoison a).cpat = x.cpat := rfl
@[simp] theorem Ctx.clearPoison_ssm (x : Ctx) (a : Nat) : (x.clearPoison a).ssm = x.ssm := rfl
@[simp] theorem Ctx.clearPoison_sig (x : Ctx) (a : Nat) : (x.clearPoison a).sig = x.sig := rfl
@[simp] theorem Ctx.clearPoison_sigVis (x : Ctx) (a : Nat) : (x.clearPoison a).sigVis = x.sigVis := rfl
@[simp] theorem Ctx.clearPoison_sigref (x : Ctx) (a : Nat) : (x.clearPoison a).sigref = x.sigref := rfl
@[simp] theorem Ctx.clearPoison_vfs (x : Ctx) (a : Nat) : (x.clearPoison a).vfs = x.vfs := rfl
@[simp] theorem Ctx.clearPoison_nextA (x : Ctx) (a : Nat) : (x.clearPoison a).nextA = x.nextA := rfl
@[simp] theorem Ctx.clearPoison_nextB (x : Ctx) (a : Nat) : (x.clearPoison a).nextB = x.nextB := rfl
@[simp] theorem Ctx.clearPoison_flues (x : Ctx) (a : Nat) : (x.clearPoison a).flues = x.flues := rfl
@[simp] theorem Ctx.clearPoison_wins (x : Ctx) (a : Nat) : (x.clearPoison a).wins = x.wins := rfl
@[simp] theorem Ctx.clearPoison_fr (x : Ctx) (a : Nat) : (x.clearPoison a).fr = x.fr := rfl
@[simp] theorem Ctx.clearPoison_runCount (x : Ctx) (a : Nat) : (x.clearPoison a).runCount = x.runCount := rfl
@[simp] theorem Ctx.clearPoison_quietCount (x : Ctx) (a : Nat) : (x.clearPoison a).quietCount = x.quietCount := rfl
@[simp] theorem Ctx.clearPoison_vbase (x : Ctx) (a : Nat) : (x.clearPoison a).vbase = x.vbase := rfl
@[simp] theorem Ctx.clearPoison_vunits (x : Ctx) (a : Nat) : (x.clearPoison a).vunits = x.vunits := rfl
@[simp] theorem Ctx.clearPoison_tiles (x : Ctx) (a : Nat) : (x.clearPoison a).tiles = x.tiles := rfl
@[simp] theorem Ctx.clearPoison_cov (x : Ctx) (a : Nat) : (x.clearPoison a).cov = x.cov := rfl
@[simp] theorem Ctx.clearPoison_marked (x : Ctx) (a : Nat) : (x.clearPoison a).marked = x.marked := rfl
@[simp] theorem Ctx.clearPoison_nxt (x : Ctx) (a : Nat) : (x.clearPoison a).nxt = x.nxt := rfl
@[simp] theorem Ctx.clearPoison_nextBankB (x : Ctx) (a : Nat) : (x.clearPoison a).nextBankB = x.nextBankB := rfl
@[simp] theorem Ctx.clearPoison_bars (x : Ctx) (a : Nat) : (x.clearPoison a).bars = x.bars := rfl
@[simp] theorem Ctx.clearPoison_lastRun (x : Ctx) (a : Nat) : (x.clearPoison a).lastRun = x.lastRun := rfl
@[simp] theorem Ctx.clearPoison_afterHalt (x : Ctx) (a : Nat) : (x.clearPoison a).afterHalt = x.afterHalt := rfl
@[simp] theorem Ctx.clearPoison_haltWait (x : Ctx) (a : Nat) : (x.clearPoison a).haltWait = x.haltWait := rfl
@[simp] theorem Ctx.clearPoison_fills (x : Ctx) (a : Nat) : (x.clearPoison a).fills = x.fills := rfl
@[simp] theorem Ctx.clearPoison_refetch (x : Ctx) (a : Nat) : (x.clearPoison a).refetch = x.refetch := rfl
@[simp] theorem Ctx.clearPoison_stores (x : Ctx) (a : Nat) : (x.clearPoison a).stores = x.stores := rfl

/-! ### What a unit reads as after an update -/

@[simp] theorem State.core_setCore_same (s : State) (c : Nat) (v : Core) : (s.setCore c v).core c = v :=
  Tab.get_put_same ..

theorem State.core_setCore_ne (s : State) (c c' : Nat) (v : Core) (h : c' ≠ c) : (s.setCore c v).core c' = s.core c' :=
  Tab.get_put_ne _ _ _ _ _ h

@[simp] theorem State.core_modCore_same (s : State) (c : Nat) (f : Core → Core) : (s.modCore c f).core c = f (s.core c) :=
  Tab.get_put_same ..

theorem State.core_modCore_ne (s : State) (c c' : Nat) (f : Core → Core) (h : c' ≠ c) :
    (s.modCore c f).core c' = s.core c' := Tab.get_put_ne _ _ _ _ _ h

@[simp] theorem Core.ctx_setCtx_same (k : Core) (x : Nat) (v : Ctx) : (k.setCtx x v).ctx x = v := Tab.get_put_same ..

theorem Core.ctx_setCtx_ne (k : Core) (x x' : Nat) (v : Ctx) (h : x' ≠ x) : (k.setCtx x v).ctx x' = k.ctx x' :=
  Tab.get_put_ne _ _ _ _ _ h

@[simp] theorem State.ctx_setCtx_same (s : State) (c x : Nat) (v : Ctx) : (s.setCtx c x v).ctx c x = v := by
  simp [State.ctx, State.setCtx]

@[simp] theorem State.ctx_modCtx_same (s : State) (c x : Nat) (f : Ctx → Ctx) : (s.modCtx c x f).ctx c x = f (s.ctx c x) := by
  simp [State.modCtx]

theorem State.ctx_setCtx_ne (s : State) (c x x' : Nat) (v : Ctx) (h : x' ≠ x) : (s.setCtx c x v).ctx c x' = s.ctx c x' := by
  simp [State.ctx, State.setCtx, Core.ctx_setCtx_ne _ _ _ _ h]

theorem State.ctx_modCtx_ne (s : State) (c x x' : Nat) (f : Ctx → Ctx) (h : x' ≠ x) :
    (s.modCtx c x f).ctx c x' = s.ctx c x' := State.ctx_setCtx_ne _ _ _ _ _ h

@[simp] theorem State.core_modCtx (s : State) (c x : Nat) (f : Ctx → Ctx) :
    (s.modCtx c x f).core c = (s.core c).setCtx x (f (s.ctx c x)) := by
  simp [State.modCtx, State.setCtx]

theorem State.core_modCtx_ne (s : State) (c c' x : Nat) (f : Ctx → Ctx) (h : c' ≠ c) :
    (s.modCtx c x f).core c' = s.core c' := State.core_setCore_ne _ _ _ _ h

@[simp] theorem State.cur_modCur (s : State) (f : Ctx → Ctx) : (s.modCur f).cur = f s.cur := by
  simp only [State.cur, State.modCur, State.modCtx_foc, State.ctx_modCtx_same]

@[simp] theorem State.cluster_setCluster_same (s : State) (k : Nat) (v : Cluster) : (s.setCluster k v).cluster k = v :=
  Tab.get_put_same ..

theorem State.cluster_setCluster_ne (s : State) (k k' : Nat) (v : Cluster) (h : k' ≠ k) :
    (s.setCluster k v).cluster k' = s.cluster k' := Tab.get_put_ne _ _ _ _ _ h

@[simp] theorem State.cluster_modCluster_same (s : State) (k : Nat) (f : Cluster → Cluster) :
    (s.modCluster k f).cluster k = f (s.cluster k) := Tab.get_put_same ..

@[simp] theorem State.die_modDie_same (s : State) (d : Nat) (f : Die → Die) : (s.modDie d f).die d = f (s.die d) :=
  Tab.get_put_same ..

theorem State.die_modDie_ne (s : State) (d d' : Nat) (f : Die → Die) (h : d' ≠ d) : (s.modDie d f).die d' = s.die d' :=
  Tab.get_put_ne _ _ _ _ _ h

@[simp] theorem State.proc_setProc_same (s : State) (p : Nat) (v : Process) : (s.setProc p v).proc p = v :=
  Tab.get_put_same ..

theorem State.proc_setProc_ne (s : State) (p p' : Nat) (v : Process) (h : p' ≠ p) : (s.setProc p v).proc p' = s.proc p' :=
  Tab.get_put_ne _ _ _ _ _ h

@[simp] theorem State.handle_setHandle_same (s : State) (p i : Nat) (h : Handle) : (s.setHandle p i h).handle p i = h := by
  simp [State.handle, State.setHandle, State.modProc, Process.handle]

@[simp] theorem State.handle_modHandle_same (s : State) (p i : Nat) (f : Handle → Handle) :
    (s.modHandle p i f).handle p i = f (s.handle p i) := State.handle_setHandle_same ..

theorem State.handle_setHandle_ne (s : State) (p i j : Nat) (h : Handle) (n : j ≠ i) :
    (s.setHandle p i h).handle p j = s.handle p j := by
  simp [State.handle, State.setHandle, State.modProc, Process.handle, Tab.get_put_ne _ _ _ _ _ n]

@[simp] theorem State.core_draw (s : State) (c : Nat) : s.draw.core c = s.core c := rfl

/-! ### Registers -/

/-- R101: s0 reads as zero. -/
@[simp] theorem Ctx.rd_zero (x : Ctx) : x.rd 0 = 0 := rfl

/-- R101: a write to s0 is discarded. -/
@[simp] theorem Ctx.wr_zero (x : Ctx) (v : Word) : x.wr 0 v = x := rfl

theorem Ctx.rd_wr_same (x : Ctx) (r : Nat) (v : Word) (h : r ≠ 0) : (x.wr r v).rd r = v := by
  simp [Ctx.rd, Ctx.wr, h]

theorem Ctx.rd_wr_ne (x : Ctx) (r r' : Nat) (v : Word) (h : r' ≠ r) : (x.wr r v).rd r' = x.rd r' := by
  unfold Ctx.wr Ctx.rd
  split
  · rfl
  · split
    · rfl
    · exact Tab.get_put_ne _ _ _ _ _ h

theorem Ctx.mask_setMask_same (x : Ctx) (i : Nat) (m : LaneMask) (h : i ≠ 0) : (x.setMask i m).mask i = m := by
  simp [Ctx.mask, Ctx.setMask, h]

/-- R137: k0 is all ones whatever is written. -/
@[simp] theorem Ctx.mask_zero (x : Ctx) : x.mask 0 = allLanes := rfl

/-- R103: a written predicate reads as written. -/
theorem Ctx.pred_setPred_same (x : Ctx) (i : Nat) (b : Bool) (h : 1 ≤ i) (h' : i ≤ 13) : (x.setPred i b).pred i = b := by
  have h0 : i ≠ 0 := by omega
  have h1 : i ≠ 14 := by omega
  have h2 : i ≠ 15 := by omega
  have h3 : i < 16 := by omega
  simp only [Ctx.pred, h0, h1, h2, if_false, Ctx.setPred]
  cases b <;> simp [h3]

/-- R103: the other predicates keep their values. -/
theorem Ctx.pred_setPred_ne (x : Ctx) (i j : Nat) (b : Bool) (h : j ≠ i) : (x.setPred i b).pred j = x.pred j := by
  unfold Ctx.pred
  split
  · rfl
  · split
    · rfl
    · split
      · rfl
      · simp only [Ctx.setPred]
        have h1 : i ≠ j := fun e => h e.symm
        by_cases hj : j < 16
        · cases b <;> simp [h, hj]
        · cases b <;> simp [BitVec.getLsbD_of_ge _ _ (Nat.le_of_not_lt hj)]

end Sys2Proof.Machine
end

