-- ==== Sys2Proof/Laws/Ops.lean ====
section
/-! SUPPORT. What each shared operation can do, said once: ending a slot operation, writing and landing results, taking a
fault, resuming from one, popping flues, and joining a channel or a pipe. -/

set_option Elab.async false

namespace Sys2Proof.Machine

/-! ### The end of a slot operation -/

@[simp] theorem commit_ok (f : State → State) (s : State) : commit (.ok f) s = .next (f s) := rfl
@[simp] theorem commit_trap (r : FaultRec) (s : State) : commit (.trap r) s = .next (s.takePrecise r) := rfl
@[simp] theorem commit_early (r : FaultRec) (s : State) : commit (.early r) s = .next (s.takePrecise r) := rfl
@[simp] theorem commit_late (r : FaultRec) (s : State) : commit (.late r) s = .next (s.takePrecise r) := rfl
@[simp] theorem commit_stall (s : State) : commit .stall s = .next s := rfl
@[simp] theorem commit_hold (f : State → State) (s : State) : commit (.hold f) s = .next (f s) := rfl

/-- A slot operation alone always answers a next state. -/
theorem commit_next (r : Res) (s : State) : ∃ t, commit r s = .next t := by cases r <;> exact ⟨_, rfl⟩

/-- R64: a true guard lets the operation act. -/
theorem guarded_true {g : BitVec 5} {s : State} (k : Unit → Res) (h : s.cur.guard g = true) : guarded g s k = k () := by
  simp [guarded, h]

/-- R64: a false guard leaves it without effect. -/
theorem guarded_false {g : BitVec 5} {s : State} (k : Unit → Res) (h : s.cur.guard g = false) : guarded g s k = .ok id := by
  simp [guarded, h]

@[simp] theorem firstTrap_nil : firstTrap [] = none := rfl
@[simp] theorem firstTrap_none (xs : List (Option FaultRec)) : firstTrap (none :: xs) = firstTrap xs := rfl
@[simp] theorem firstTrap_some (r : FaultRec) (xs : List (Option FaultRec)) : firstTrap (some r :: xs) = some r := rfl

/-! ### Damaged words -/

/-- With no damaged word, reads find the state as it is. -/
theorem State.seen_undamaged {s : State} (h : s.damaged = []) : s.seen = s := by simp [State.seen, h]

theorem State.heal_undamaged {s : State} (p : Damage → Bool) (h : s.damaged = []) (hw : s.weak = []) : s.heal p = s := by
  obtain ⟨⟩ := s; simp_all [State.heal]

@[simp] theorem State.heal_core (s : State) (p : Damage → Bool) (c : Nat) : (s.heal p).core c = s.core c := rfl
@[simp] theorem State.heal_ctx (s : State) (p : Damage → Bool) (c x : Nat) : (s.heal p).ctx c x = s.ctx c x := rfl
@[simp] theorem State.heal_cluster (s : State) (p : Damage → Bool) (k : Nat) : (s.heal p).cluster k = s.cluster k := rfl

/-! ### Writing and landing results (R80–R82) -/

/-- R101: a scalar result written: its register, and no other register, context, cluster or table. -/
theorem State.write_sreg (s : State) (c x r : Nat) (v : Word) (m : PartMask) :
    let t := s.write c x (.sreg r v) m
    t.ctx c x = (s.ctx c x).wr r v ∧ (∀ y, y ≠ x → t.ctx c y = s.ctx c y) ∧ (∀ d, d ≠ c → t.core d = s.core d) ∧
      t.clusters = s.clusters ∧ t.dies = s.dies ∧ t.procs = s.procs ∧ t.launches = s.launches ∧ t.foc = s.foc := by
  refine ⟨?_, ?_, ?_, rfl, rfl, rfl, rfl, rfl⟩
  · simp [State.write]
  · intro y h; simp [State.write, State.ctx_modCtx_ne _ _ _ _ _ h]
  · intro d h; simp [State.write, State.core_modCtx_ne _ _ _ _ _ h]

/-- A vector result written: the selected parts of its physical vector, and no context. -/
theorem State.write_vreg (s : State) (c x p el : Nat) (m m' : PartMask) (v : Vec) :
    let t := s.write c x (.vreg p m' v el) m
    (t.core c).vec p = partSelect el (m' &&& m) v ((s.core c).vec p) ∧ (∀ q, q ≠ p → (t.core c).vec q = (s.core c).vec q) ∧
      (∀ y, t.ctx c y = s.ctx c y) ∧ (∀ d, d ≠ c → t.core d = s.core d) ∧ t.clusters = s.clusters ∧ t.procs = s.procs := by
  refine ⟨?_, ?_, ?_, ?_, rfl, rfl⟩
  · simp [State.write, Core.setParts, Core.vec, Tab.get_put_same]
  · intro q h; simp [State.write, Core.setParts, Core.vec, Tab.get_put_ne _ _ _ _ _ h]
  · intro y; simp [State.write, State.ctx, Core.setParts, Core.ctx]
  · intro d h; simp [State.write, State.core_modCore_ne _ _ _ _ h]

/-- R80: a result of bound one is written at once; younger writes replace older ones not yet landed (R82). -/
theorem State.land_now (s : State) (c x : Nat) (l : Land) {b : Nat} (h : b ≤ 1) :
    s.land c x l b = (s.modCore c (fun k => { k with pend := trimOlder x l l.parts b k.pend })).write c x l l.parts := by
  simp [State.land, h]

/-- R80, R355: a result of a longer bound waits, its bound is noted where a release awaits it, and nothing else changes. -/
theorem State.land_later (s : State) (c x : Nat) (l : Land) {b : Nat} (h : 1 < b) :
    s.land c x l b = s.modCore c (fun k => { k.await x l b with pend := k.pend ++ [{ ctx := x, land := l, left := b }] }) := by
  have : ¬ b ≤ 1 := by omega
  simp [State.land, this]

/-- R355: the contexts of a core when a bound is noted. -/
theorem Core.await_ctx (k : Core) (x y : Nat) (l : Land) (b : Nat) :
    (k.await x l b).ctx y =
      if l.awaited = true ∧ y = x then { k.ctx x with stores := max (k.ctx x).stores b } else k.ctx y := by
  unfold Core.await
  by_cases ha : l.awaited = true
  · by_cases hy : y = x
    · subst hy; simp [ha, Core.modCtx]
    · simp [ha, hy, Core.modCtx, Core.ctx_setCtx_ne _ _ _ _ hy]
  · simp [ha]

/-- A result that waits leaves every context as it was, but for the bound that a release of its context awaits. -/
theorem State.land_later_ctx (s : State) (c x : Nat) (l : Land) {b : Nat} (h : 1 < b) (d y : Nat) :
    (s.land c x l b).ctx d y =
      if l.awaited = true ∧ d = c ∧ y = x then { s.ctx c x with stores := max (s.ctx c x).stores b } else s.ctx d y := by
  rw [State.land_later s c x l h]
  by_cases e : d = c
  · subst e
    have : ((s.modCore d (fun k => { k.await x l b with pend := k.pend ++ [{ ctx := x, land := l, left := b }] })).ctx d y) =
        ((s.core d).await x l b).ctx y := by
      rw [State.ctx, State.core_modCore_same]; rfl
    rw [this, Core.await_ctx]; simp [State.ctx]
  · simp [State.ctx, State.core_modCore_ne _ _ _ _ e, e]

/-- R101: a result for s0 is discarded. -/
@[simp] theorem State.landS_zero (s : State) (v : Word) (b : Nat) : s.landS 0 v b = s := rfl

theorem State.landS_reg (s : State) {d : Nat} (v : Word) (b : Nat) (h : d ≠ 0) :
    s.landS d v b = s.land s.foc.core s.foc.ctx (.sreg d v) b := by simp [State.landS, h]

/-- R101, R107: a scalar result of bound one is in its register at the next bundle. -/
theorem State.landS_now (s : State) {d : Nat} (v : Word) (h : d ≠ 0) : ((s.landS d v 1).cur).rd d = v := by
  have hf : (s.landS d v 1).foc = s.foc := by simp [State.landS_reg s v 1 h, State.land, State.write]
  rw [State.cur, hf, State.landS_reg s v 1 h, State.land_now _ _ _ _ (Nat.le_refl 1)]
  rw [(State.write_sreg _ _ _ _ _ _).1, Ctx.rd_wr_same _ _ _ h]

/-! ### Faults (R209, R210, R215) -/

@[simp] theorem State.notify_core (s : State) (n : Notice) (c : Nat) : (s.notify n).core c = s.core c := rfl

@[simp] theorem Core.endRun_vrf (k : Core) : k.endRun.vrf = k.vrf := by unfold Core.endRun; split <;> rfl
@[simp] theorem Core.endRun_tiles (k : Core) : k.endRun.tiles = k.tiles := by unfold Core.endRun; split <;> rfl
@[simp] theorem Core.endRun_cov (k : Core) : k.endRun.cov = k.cov := by unfold Core.endRun; split <;> rfl
@[simp] theorem Core.endRun_pend (k : Core) : k.endRun.pend = k.pend := by unfold Core.endRun; split <;> rfl
@[simp] theorem Core.endRun_dops (k : Core) : k.endRun.dops = k.dops := by unfold Core.endRun; split <;> rfl
@[simp] theorem Core.endRun_mxs (k : Core) : k.endRun.mxs = k.mxs := by unfold Core.endRun; split <;> rfl
@[simp] theorem Core.endRun_cycle (k : Core) : k.endRun.cycle = k.cycle := by unfold Core.endRun; split <;> rfl
@[simp] theorem Core.endRun_pages (k : Core) : k.endRun.pages = k.pages := by unfold Core.endRun; split <;> rfl

/-- R15: a run that ends leaves the core free. -/
@[simp] theorem Core.endRun_running (k : Core) : k.endRun.running = none := by
  unfold Core.endRun
  split
  · assumption
  · rfl

/-- R16: a run that ends dates its context, and changes no other. -/
theorem Core.endRun_ctx (k : Core) (x y : Nat) (h : k.running = some x) :
    k.endRun.ctx y = if y = x then { k.ctx x with lastRun := k.runs + 1, runCount := 0 } else k.ctx y := by
  have e : k.endRun.ctx y = (k.modCtx x (fun z => { z with lastRun := k.runs + 1, runCount := 0 })).ctx y := by
    simp [Core.endRun, h, Core.ctx]
  rw [e]
  split
  · next hy => subst hy; simp [Core.modCtx]
  · next hy => exact Core.ctx_setCtx_ne _ _ _ _ hy

/-- R209: what taking a fault leaves alone, whichever fault. -/
theorem State.takeFault_frame (s : State) (c x : Nat) (r : FaultRec) (a w m : Bool) (tk pc : Nat) :
    let t := s.takeFault c x r a w m tk pc
    t.clusters = s.clusters ∧ t.dies = s.dies ∧ t.procs = s.procs ∧ t.launches = s.launches ∧ t.agenda = s.agenda ∧
      t.foc = s.foc ∧ t.stamp = s.stamp ∧ t.damaged = s.damaged ∧ (∀ d, d ≠ c → t.core d = s.core d) ∧
      t.notices = s.notices ++ [.fault c x (frCode r a w m tk)] := by
  unfold State.takeFault
  simp only
  split
  · exact ⟨rfl, rfl, rfl, rfl, rfl, rfl, rfl, rfl,
      fun d h => (State.notify_core _ _ _).trans ((State.core_modCore_ne _ _ _ _ h).trans (State.core_modCtx_ne _ _ _ _ _ h)), rfl⟩
  · exact ⟨rfl, rfl, rfl, rfl, rfl, rfl, rfl, rfl, fun d h => (State.notify_core _ _ _).trans (State.core_modCtx_ne _ _ _ _ _ h), rfl⟩

/-- The context of a fault as taking it leaves it. -/
def faultedCtx (k : Core) (x : Nat) (y : Ctx) (fr : Tab Word) (pc : Nat) : Ctx :=
  if k.running = some x then
    { y with st := .faulted, fr := fr, pc := BitVec.ofNat 48 pc, lastRun := k.runs + 1, runCount := 0 }
  else { y with st := .faulted, fr := fr, pc := BitVec.ofNat 48 pc }

/-- R209: the contexts of the core of a fault. -/
theorem State.takeFault_ctxs (s : State) (c x : Nat) (r : FaultRec) (a w m : Bool) (tk pc z : Nat) :
    (s.takeFault c x r a w m tk pc).ctx c z =
      if z = x then faultedCtx (s.core c) x (s.ctx c x) (frTable r (frCode r a w m tk) pc) pc else s.ctx c z := by
  unfold State.takeFault faultedCtx
  simp only [State.core_modCtx]
  have hr : ∀ v, ((s.core c).setCtx x v).running = (s.core c).running := fun _ => rfl
  by_cases h : (s.core c).running = some x
  · simp only [hr, h, if_true]
    show ((State.core _ c).ctx z) = _
    rw [State.notify_core, State.core_modCore_same, State.core_modCtx, Core.endRun_ctx _ x z (by rw [hr]; exact h)]
    split
    · rw [Core.ctx_setCtx_same]; rfl
    · next hz => exact Core.ctx_setCtx_ne _ _ _ _ hz
  · simp only [hr, h, if_false]
    show ((State.core _ c).ctx z) = _
    rw [State.notify_core, State.core_modCtx]
    split
    · next hz => subst hz; rw [Core.ctx_setCtx_same]
    · next hz => exact Core.ctx_setCtx_ne _ _ _ _ hz

/-- R209: the context of a fault stops at the address given, with its fault registers; its other registers keep their
values. -/
theorem State.takeFault_ctx (s : State) (c x : Nat) (r : FaultRec) (a w m : Bool) (tk pc : Nat) :
    let y := (s.takeFault c x r a w m tk pc).ctx c x
    y.st = .faulted ∧ y.fr = frTable r (frCode r a w m tk) pc ∧ y.pc = BitVec.ofNat 48 pc ∧ y.s = (s.ctx c x).s ∧
      y.q = (s.ctx c x).q ∧ y.k = (s.ctx c x).k ∧ y.tk = (s.ctx c x).tk ∧ y.untaken = (s.ctx c x).untaken ∧
      y.launch = (s.ctx c x).launch := by
  simp only [State.takeFault_ctxs, if_true, faultedCtx]
  split <;> exact ⟨rfl, rfl, rfl, rfl, rfl, rfl, rfl, rfl, rfl⟩

/-- R209: the other contexts of the core keep everything. -/
theorem State.takeFault_ctx_ne (s : State) (c x : Nat) (r : FaultRec) (a w m : Bool) (tk pc : Nat) {z : Nat} (h : z ≠ x) :
    (s.takeFault c x r a w m tk pc).ctx c z = s.ctx c z := by simp [State.takeFault_ctxs, h]

/-- R209, R15: a fault of the running context frees the core; the vectors, tiles, results and operations stay. -/
theorem State.takeFault_core (s : State) (c x : Nat) (r : FaultRec) (a w m : Bool) (tk pc : Nat) :
    let k := (s.takeFault c x r a w m tk pc).core c
    k.running ≠ some x ∧ k.vrf = (s.core c).vrf ∧ k.tiles = (s.core c).tiles ∧ k.cov = (s.core c).cov ∧
      k.pend = (s.core c).pend ∧ k.dops = (s.core c).dops ∧ k.mxs = (s.core c).mxs ∧ k.cycle = (s.core c).cycle := by
  unfold State.takeFault
  simp only
  split
  · simp only [State.notify_core, State.core_modCore_same, State.core_modCtx]
    simp only [Core.endRun_running, Core.endRun_vrf, Core.endRun_tiles, Core.endRun_cov, Core.endRun_pend,
      Core.endRun_dops, Core.endRun_mxs, Core.endRun_cycle]
    exact ⟨by simp, rfl, rfl, rfl, rfl, rfl, rfl, rfl⟩
  · next h => exact ⟨h, by simp only [State.notify_core, State.core_modCtx]; exact ⟨rfl, rfl, rfl, rfl, rfl, rfl, rfl⟩⟩

/-- R215: only a faulted context resumes. -/
theorem State.resume_other (s : State) (c x : Nat) (w : FwWrites) (step : Bool) (h : (s.ctx c x).st ≠ .faulted) :
    s.resume c x w step = s := by simp [State.resume, h]

/-- R215: a context that resumes and had not halted is ready at FR.PC with its quiet count at 0. -/
theorem State.resume_ready (s : State) (c x : Nat) (w : FwWrites) (step : Bool) (h : (s.ctx c x).st = .faulted)
    (h2 : ((s.ctx c x).firmware w).afterHalt = false) :
    let y := (s.resume c x w step).ctx c x
    let f := (s.ctx c x).firmware w
    let z := f.setStep ((step || f.stepMark) && f.mayStep)
    y.st = .ready ∧ y.quietCount = 0 ∧ y.runCount = 0 ∧ y.pc = (Tab.get z.fr 1 0).setWidth 48 ∧ y.s = z.s ∧ y.fr = z.fr := by
  have h3 : ∀ b, (((s.ctx c x).firmware w).setStep b).afterHalt = false := fun _ => h2
  simp only [State.resume, h, if_true, h2, h3, Bool.not_false, Bool.and_true, Bool.false_eq_true, if_false,
    State.ctx_setCtx_same, and_self]

/-! ### Flues (R71) -/

theorem popFlue_frame (pre : Ctx) (f : Nat) (t : State) :
    (popFlue pre f t).foc = t.foc ∧ (popFlue pre f t).clusters = t.clusters ∧ (popFlue pre f t).procs = t.procs ∧
      (popFlue pre f t).cur = { t.cur with flues := (popFlue pre f t).cur.flues } := by
  unfold popFlue
  split
  · exact ⟨rfl, rfl, rfl, by simp⟩
  · exact ⟨rfl, rfl, rfl, rfl⟩

/-- R71: popping flues changes nothing but flues. -/
theorem popAll_frame (pre : Ctx) (cs : List Nat) (t : State) :
    (popAll pre cs t).foc = t.foc ∧ (popAll pre cs t).clusters = t.clusters ∧ (popAll pre cs t).procs = t.procs ∧
      (popAll pre cs t).cur = { t.cur with flues := (popAll pre cs t).cur.flues } := by
  unfold popAll
  induction cs generalizing t with
  | nil => exact ⟨rfl, rfl, rfl, rfl⟩
  | cons c cs ih =>
    simp only [List.foldl_cons]
    cases e : pre.vsrc c with
    | flue f =>
      obtain ⟨h1, h2, h3, h4⟩ := ih (popFlue pre f t)
      obtain ⟨g1, g2, g3, g4⟩ := popFlue_frame pre f t
      exact ⟨h1.trans g1, h2.trans g2, h3.trans g3, by rw [h4, g4]⟩
    | _ => exact ih t

/-- With no flue among the sources, nothing is popped. -/
theorem popAll_none (pre : Ctx) (cs : List Nat) (t : State) (h : ∀ c ∈ cs, ∀ f, pre.vsrc c ≠ .flue f) :
    popAll pre cs t = t := by
  unfold popAll
  induction cs generalizing t with
  | nil => rfl
  | cons c cs ih =>
    simp only [List.foldl_cons]
    have hr := ih t (fun d hd => h d (by simp [hd]))
    cases e : pre.vsrc c with
    | flue f => exact absurd e (h c (by simp) f)
    | _ => exact hr

/-! ### D operations (R62, R64, R75) -/

/-- What a D operation can do at its issue: refuse its register fields, wait, fault by its checks, forget its token when
its guard is false, or join its channel. -/
theorem dOp_cases (c : DC) (bad st : Bool) (ch : Except FaultRec DIssue) (s : State) :
    (bad = true ∧ dOp c bad st ch s = earlyAt s fcRegister) ∨ dOp c bad st ch s = .stall ∨
    (s.cur.guard c.g = false ∧ ∃ f, dOp c bad st ch s = .ok f ∧
      ∀ t, f t = if c.tkp.toNat = 0 then t else t.modCur (fun y => { y with tk := Tab.erase y.tk c.tkp.toNat })) ∨
    (s.cur.guard c.g = true ∧ ((∃ r, ch = .error r ∧ dOp c bad st ch s = .trap r) ∨
      (∃ d, ch = .ok d ∧ (dOp c bad st ch s = trapAt s fcField ∨ dOp c bad st ch s = .ok (dIssue s c d))))) := by
  unfold dOp
  simp only
  split
  · next h => exact .inl ⟨h, rfl⟩
  split
  · exact .inr (.inl rfl)
  split
  · next h => exact .inr (.inr (.inl ⟨by simpa using h, _, rfl, fun t => rfl⟩))
  next hg =>
  have hg' : s.cur.guard c.g = true := by simpa using hg
  split
  · exact .inr (.inl rfl)
  cases ch with
  | error r => exact .inr (.inr (.inr ⟨hg', .inl ⟨r, rfl, rfl⟩⟩))
  | ok d =>
    refine .inr (.inr (.inr ⟨hg', .inr ⟨d, rfl, ?_⟩⟩))
    by_cases hx : (d.xfer && decide (2 ^ 48 ≤ (if isDb s = true then s.cur.nextB else s.cur.nextA))) = true
    · exact .inl (if_pos hx)
    · exact .inr (if_neg hx)

/-! ### Matrix operations (R163, R164) -/

/-- What an MX operation can do at its issue: refuse its register fields, have no effect under a false guard, wait, fault
by its checks, or join the matrix operations of its core. -/
theorem mxOp_cases (kind : MxKind) (f : MF) (bad : Bool) (cs : List (Option FaultRec)) (s : State) :
    (bad = true ∧ mxOp kind f bad cs s = earlyAt s fcRegister) ∨
    (s.cur.guard f.g = false ∧ mxOp kind f bad cs s = .ok id) ∨
    (s.cur.guard f.g = true ∧ (mxOp kind f bad cs s = .stall ∨
      (∃ r, firstTrap cs = some r ∧ mxOp kind f bad cs s = .trap r) ∨
      (firstTrap cs = none ∧ ∃ g, mxOp kind f bad cs s = .ok g ∧
        ∀ t, g t = { (t.modCore s.foc.core (fun k => { k with mxs := k.mxs ++ [{ mxOpOf kind f s with id := t.stamp }] })) with
          stamp := t.stamp + 1 }))) := by
  unfold mxOp
  split
  · next h => exact .inl ⟨h, rfl⟩
  by_cases hg : s.cur.guard f.g = true
  · refine .inr (.inr ⟨hg, ?_⟩)
    rw [guarded_true _ hg]
    simp only
    split
    · exact .inl rfl
    cases h : firstTrap cs with
    | none => exact .inr (.inr ⟨rfl, _, rfl, fun t => rfl⟩)
    | some r => exact .inr (.inl ⟨r, rfl, rfl⟩)
  · have hf : s.cur.guard f.g = false := by simpa using hg
    exact .inr (.inl ⟨hf, guarded_false _ hf⟩)

/-! ### Scalar results (R107) -/

theorem scRes_true {g : BitVec 5} {s : State} (d : BitVec 6) (b : Nat) (v : Word) (h : s.cur.guard g = true) :
    scRes g d b v s = .ok (fun t => t.landS d.toNat v b) := guarded_true _ h

theorem scRes_false {g : BitVec 5} {s : State} (d : BitVec 6) (b : Nat) (v : Word) (h : s.cur.guard g = false) :
    scRes g d b v s = .ok id := guarded_false _ h

/-- R83, R101, R107: a scalar operation of bound one under a true guard leaves its result in its register. -/
theorem scRes_now {g : BitVec 5} {s : State} {d : BitVec 6} (v : Word) (h : s.cur.guard g = true) (hd : d.toNat ≠ 0) :
    ∃ t, commit (scRes g d 1 v s) s = .next t ∧ t.cur.rd d.toNat = v :=
  ⟨_, by rw [scRes_true d 1 v h]; rfl, State.landS_now s v hd⟩

/-! ### Memory keeps its canonical form -/

theorem Cluster.wf_store (k : Cluster) (a : Nat) (bs : List Byte) (h : Memory.wf k.spl = true) :
    Memory.wf (k.store a bs).spl = true := Memory.wf_writeRun _ _ _ h

end Sys2Proof.Machine
end

