-- ==== Sys2Proof/Laws/Slots.lean ====
section
/-! SUPPORT. What the result of a slot operation can be: a fault that the bits of a slot alone decide is an illegal field or an
illegal register of that slot (R84 steps 4 and 5). -/

set_option Elab.async false

namespace Sys2Proof.Machine

/-- An early fault of a slot is its illegal-field or its illegal-register fault. -/
def earlyForm (slot : Nat) (r : Res) : Prop :=
  ∀ e, r = .early e → e = faultRec fcField (some slot) ∨ e = faultRec fcRegister (some slot)

theorem earlyForm_ok (n : Nat) (f : State → State) : earlyForm n (.ok f) := by intro e h; cases h
theorem earlyForm_trap (n : Nat) (r : FaultRec) : earlyForm n (.trap r) := by intro e h; cases h
theorem earlyForm_late (n : Nat) (r : FaultRec) : earlyForm n (.late r) := by intro e h; cases h
theorem earlyForm_stall (n : Nat) : earlyForm n .stall := by intro e h; cases h
theorem earlyForm_hold (n : Nat) (f : State → State) : earlyForm n (.hold f) := by intro e h; cases h

theorem earlyForm_trapAt (n : Nat) (s : State) (code : Nat) : earlyForm n (trapAt s code) := earlyForm_trap _ _
theorem earlyForm_trapOff (n : Nat) (s : State) (code off : Nat) : earlyForm n (trapOff s code off) := earlyForm_trap _ _

theorem earlyForm_field (s : State) : earlyForm s.foc.slot (earlyAt s fcField) := by
  intro e h; cases h; exact .inl rfl

theorem earlyForm_register (s : State) : earlyForm s.foc.slot (earlyAt s fcRegister) := by
  intro e h; cases h; exact .inr rfl

theorem earlyForm_guarded (n : Nat) (g : BitVec 5) (s : State) (k : Unit → Res) (h : earlyForm n (k ())) :
    earlyForm n (guarded g s k) := by
  unfold guarded; split
  · exact h
  · exact earlyForm_ok _ _

theorem earlyForm_scRes (g : BitVec 5) (d : BitVec 6) (b : Nat) (v : Word) (s : State) (n : Nat) :
    earlyForm n (scRes g d b v s) := earlyForm_guarded _ _ _ _ (earlyForm_ok _ _)

theorem earlyForm_predRes (g : BitVec 5) (q : Nat) (v : Bool) (s : State) : earlyForm s.foc.slot (predRes g q v s) := by
  unfold predRes; split
  · exact earlyForm_guarded _ _ _ _ (earlyForm_ok _ _)
  · exact earlyForm_register s

theorem earlyForm_vcheck (s : State) (srcs : List Nat) (dst : Option Nat) (k : Unit → Res)
    (h : earlyForm s.foc.slot (k ())) : earlyForm s.foc.slot (vcheck s srcs dst k) := by
  unfold vcheck
  split
  · exact earlyForm_register s
  · split
    · exact earlyForm_stall _
    · exact h

theorem earlyForm_vecOp (f : VF) (ua ub : Bool) (t : VT) (b w : Nat) (fn : Vec → Vec → Vec → Vec)
    (s : State) : earlyForm s.foc.slot (vecOp f ua ub t b w fn s) := by
  unfold vecOp
  exact earlyForm_vcheck s _ _ _ (earlyForm_ok _ _)

theorem earlyForm_vecMask (f : VF) (ub : Bool) (fn : Vec → Vec → LaneMask) (s : State) :
    earlyForm s.foc.slot (vecMask f ub fn s) := by
  unfold vecMask; simp only
  split
  · exact earlyForm_register s
  · exact earlyForm_vcheck _ _ _ _ (earlyForm_ok _ _)

theorem earlyForm_mxOp (kind : MxKind) (f : MF) (bad : Bool) (cs : List (Option FaultRec)) (s : State) :
    earlyForm s.foc.slot (mxOp kind f bad cs s) := by
  unfold mxOp
  split
  · exact earlyForm_register s
  · refine earlyForm_guarded _ _ _ _ ?_
    simp only
    split
    · exact earlyForm_stall _
    · split
      · exact earlyForm_trap _ _
      · exact earlyForm_ok _ _

theorem earlyForm_dOp (c : DC) (bad st : Bool) (ch : Except FaultRec DIssue) (s : State) :
    earlyForm s.foc.slot (dOp c bad st ch s) := by
  unfold dOp; simp only
  split
  · exact earlyForm_register s
  · split
    · exact earlyForm_stall _
    · split
      · exact earlyForm_ok _ _
      · repeat' split
        all_goals first
          | with_reducible exact earlyForm_stall _ | with_reducible exact earlyForm_trap _ _
          | with_reducible exact earlyForm_trapAt _ _ _ | with_reducible exact earlyForm_ok _ _

theorem earlyForm_sysCheck (s : State) (n : Nat) (k : Unit → Res) (h : earlyForm s.foc.slot (k ())) :
    earlyForm s.foc.slot (sysCheck s n k) := by
  unfold sysCheck
  split
  · exact earlyForm_field s
  · split
    · exact earlyForm_register s
    · exact h

theorem earlyForm_branchTo (n : Nat) (s : State) (v : Int) (f : State → State) : earlyForm n (branchTo s v f) := by
  unfold branchTo; split
  · exact earlyForm_trapOff _ _ _ _
  · exact earlyForm_ok _ _

theorem earlyForm_setsRes (m n : Nat) (v : Word) (s : State) : earlyForm m (setsRes n v s) := by
  unfold setsRes; simp only
  repeat' split
  all_goals first | with_reducible exact earlyForm_ok _ _ | with_reducible exact earlyForm_trapAt _ _ _

theorem earlyForm_barRes (n : Nat) (s : State) (die : Bool) (slot mode : Nat) : earlyForm n (barRes s die slot mode) := by
  have hw : ∀ p, earlyForm n (barWait s die slot p) := by
    intro p; unfold barWait; split
    · exact earlyForm_ok _ _
    · exact earlyForm_stall _
  unfold barRes; simp only
  repeat' split
  all_goals first
    | exact earlyForm_ok _ _ | exact earlyForm_trapAt _ _ _ | exact earlyForm_stall _ | exact earlyForm_hold _ _ | exact hw _

/-- R84: an early fault of the slot in focus is its illegal-field or its illegal-register fault. -/
theorem runSlot_early (i : Instr) (s : State) : earlyForm s.foc.slot (runSlot i s) := by
  cases i
  all_goals simp only [runSlot,
    opAdd, opSub, opAddi, opMul, opMulhi, opMulhu, opDiv, opDivu, opRem, opRemu, opAnd, opOr, opXor, opAndn,
    opShl, opShlImm, opShrl, opShrlImm, opShra, opShraImm, opMin, opMax, opMinu, opMaxu, opSethi, opCmp,
    opCmpi, opSel, opPlog, opBitc, opFadd, opFsub, opFmul, opFma, opFdiv, opFsqrt, opFminmax, opFcmp, opFcvt,
    opGets, opSets, opSld, opSst, opVadd, opVsub, opVmul, opVfma, opVfms, opVmin, opVmax, opVabs, opVneg,
    opVabd, opVmulh, opVclamp, opVand, opVor, opVxor, opVnot, opVshl, opVshr, opVcmp, opVclass, opVsel,
    opKlog, opKpop, opVcvt, opVsrnd, opVpack, opVunpk, opVexp2, opVlog2, opVrcp, opVrsq, opVsqrt, opVscale,
    opVround, opVcpsgn, opVredsum, opVredmax, opVredmin, opVmaxidx, opVprefix, opVperm, opVxgrp, opVbcast,
    opVslide, opViota, opVmov, opVext, opVins, opVmix, opVdot4, opVmadi, opVbitc, opVfin, opVlut, opMma,
    opMmab, opMzero, opMload, opMdrain, opMadd, opMscl, opMtrn, opMstat, opMscan, opMscanf, opMscanr,
    opCvInit, opCvProbe, opCvCommit, opCvRead, opSigFold, opSigCheck, opSigGet, opMred, opMgate, opMcopy,
    opCpy, opStrm, opRing, opWdef, opWadv, opWrel, opStow, opPatchOpen, opPatchSeal, opPatchApply,
    opPatchInvert, opPatchCommute, opPatchTransplant, opPatchSquash, opPatchDiscard, opRayFork, opPatchQuery,
    opScat, opGath, opSyncAdd, opSyncMax, opSyncOr, opSyncCas, opSyncSwap, opSyncLda, opSyncStl, opQpush,
    opQpop, opSend, opRecv, opTjoin, opLnch, opBtree, opJump, opCall, opRet, opLoop, opLeave, opImx, opNxt,
    opWait, opFence, opVjoin, opBar, opEstAdd, opTrap, opBkpt, opHalt, opSclSetImm, opSclSetReg, opSclLdv,
    opBfmt, opShape, opXset, opXstepReg, opXstepImm, opCpat, opQbndImm, opQbndReg, opRmodeImm, opRmodeReg,
    opSsmCfgImm, opSsmCfgReg, opSigSet, opTkclr,
    scInt, scFp, vecBin, vecUn, syncOp, queueOp, scanRes]
  all_goals first
    | with_reducible exact earlyForm_ok _ _ | with_reducible exact earlyForm_scRes _ _ _ _ _ _
    | with_reducible exact earlyForm_predRes _ _ _ _ | with_reducible exact earlyForm_vecOp _ _ _ _ _ _ _ _
    | with_reducible exact earlyForm_vecMask _ _ _ _ | with_reducible exact earlyForm_mxOp _ _ _ _ _
    | with_reducible exact earlyForm_dOp _ _ _ _ _ | skip
  all_goals repeat' first
    | with_reducible exact earlyForm_ok _ _ | with_reducible exact earlyForm_scRes _ _ _ _ _ _
    | with_reducible exact earlyForm_mxOp _ _ _ _ _ | with_reducible exact earlyForm_dOp _ _ _ _ _
    | with_reducible exact earlyForm_trap _ _ | with_reducible exact earlyForm_late _ _
    | with_reducible exact earlyForm_stall _ | with_reducible exact earlyForm_trapAt _ _ _
    | with_reducible exact earlyForm_field _ | with_reducible exact earlyForm_register _
    | with_reducible exact earlyForm_setsRes _ _ _ _ | with_reducible exact earlyForm_barRes _ _ _ _ _
    | with_reducible exact earlyForm_branchTo _ _ _ _ | with_reducible exact earlyForm_vecOp _ _ _ _ _ _ _ _
    | with_reducible apply earlyForm_guarded | with_reducible apply earlyForm_sysCheck
    | with_reducible apply earlyForm_vcheck | split

end Sys2Proof.Machine
end

