-- ==== Sys2Proof/Tests/Slice0.lean ====
section
/-! SUPPORT. Tests: words of every instruction, ill-formed terms, single steps, and for each statement that has hypotheses a
state and operands that meet them. The expected values come from the spec. -/

set_option Elab.async false

namespace Sys2Proof.Tests

open Sys2Proof Sys2Proof.Machine

/-! ### Words

Each instruction of a slot from its word, with the fields at the bits that R67, R69, R74, R75 and R76 give, the opcodes of
R87 to R92 and the fields of the operations' own rules. -/

/-- Fields laid at their lowest bits. -/
def laid (fs : List (Nat × Nat)) : Nat := fs.foldl (fun w p => w + p.2 * 2 ^ p.1) 0

/-- R67: SC-R and SC-I. -/
def wR (op g d a b md : Nat) : Nat := laid [(25, op), (20, g), (14, d), (8, a), (2, b), (0, md)]
def wI (op g d a imm : Nat) : Nat := laid [(25, op), (20, g), (14, d), (8, a), (0, imm)]

/-- R69. -/
def wV (op : Nat) (f : VF) : Nat :=
  laid [(48, op), (47, f.z.toNat), (44, f.mask.toNat), (41, f.ty.toNat), (38, f.md.toNat), (26, f.vd.toNat),
    (14, f.va.toNat), (2, f.vb.toNat), (0, f.bs.toNat)]

/-- R74. -/
def wM (op : Nat) (f : MF) : Nat :=
  laid [(58, op), (53, f.g.toNat), (49, f.acc.toNat), (45, f.xa.toNat), (41, f.xb.toNat), (38, f.cell.toNat),
    (30, f.kb.toNat), (23, f.m.toNat), (16, f.n.toNat), (14, f.mode.toNat), (13, f.t.toNat), (12, f.bs.toNat), (0, f.low.toNat)]

/-- R75: the common fields of every D word below: guard 18, token 5, tokens 1, 2 and 12. -/
def wD (op : Nat) (fs : List (Nat × Nat)) : Nat := laid ([(58, op), (53, 18), (49, 5), (45, 1), (41, 2), (37, 12)] ++ fs)
def dc : DC := ⟨18, 5, 1, 2, 12⟩

/-- R76. -/
def wT (op g : Nat) (fs : List (Nat × Nat)) : Nat := laid ([(59, op), (54, g)] ++ fs)
def wF (op : Nat) (fs : List (Nat × Nat)) : Nat := laid ((28, op) :: fs)

/-- Every word of a list decodes, in a slot, to the instruction beside it. -/
def decodes (sl : Slot) (ws : List (Nat × Instr)) : Bool :=
  ws.all (fun p =>
    match decodeSlot sl p.1 with
    | .ok i => decide (i = p.2)
    | .error _ => false)

/-- Vector fields for the words below: type, modifier, vb and b-select as given. -/
def vf (ty md : Nat) (vb bs : Nat) : VF := ⟨true, 5, .ofNat 3 ty, .ofNat 3 md, 0x9A3, 0x456, .ofNat 12 vb, .ofNat 2 bs⟩

/-- Matrix fields for the words below: region 100 by 77, accumulator 10, guard 19. -/
def mf (xa xb cell kb mode : Nat) (t bs : Bool) (low : Nat) : MF :=
  ⟨19, 10, .ofNat 4 xa, .ofNat 4 xb, .ofNat 3 cell, .ofNat 8 kb, 99, 76, .ofNat 2 mode, t, bs, .ofNat 12 low⟩

theorem test_words_integer : decodes .sc
    [(wR 0x00 17 33 9 44 0, .add 17 33 9 44), (wR 0x01 2 34 10 43 0, .sub 2 34 10 43), (wI 0x02 5 50 21 0x93, .addi 5 50 21 0x93),
     (wR 0x03 3 35 11 42 0, .mul 3 35 11 42), (wR 0x04 4 36 12 41 0, .mulhi 4 36 12 41),
     (wR 0x05 5 37 13 40 0, .mulhu 5 37 13 40), (wR 0x06 6 38 14 39 0, .div 6 38 14 39), (wR 0x07 7 39 15 38 0, .divu 7 39 15 38),
     (wR 0x08 8 40 16 37 0, .rem 8 40 16 37), (wR 0x09 9 41 17 36 0, .remu 9 41 17 36), (wR 0x0A 10 42 18 35 0, .and 10 42 18 35),
     (wR 0x0B 11 43 19 34 0, .or 11 43 19 34), (wR 0x0C 12 44 20 33 0, .xor 12 44 20 33), (wR 0x0D 13 45 21 32 0, .andn 13 45 21 32),
     (wR 0x0E 14 46 22 31 0, .shl 14 46 22 31), (wR 0x0E 14 46 22 37 1, .shlImm 14 46 22 37),
     (wR 0x0F 15 47 23 30 0, .shrl 15 47 23 30), (wR 0x0F 15 47 23 37 1, .shrlImm 15 47 23 37),
     (wR 0x10 16 48 24 29 0, .shra 16 48 24 29), (wR 0x10 16 48 24 37 1, .shraImm 16 48 24 37),
     (wR 0x11 17 49 25 28 0, .min 17 49 25 28), (wR 0x12 18 50 26 27 0, .max 18 50 26 27), (wR 0x13 19 51 27 26 0, .minu 19 51 27 26),
     (wR 0x14 20 52 28 25 0, .maxu 20 52 28 25), (wI 0x15 5 50 21 0x93, .sethi 5 50 21 0x93)] = true := by decide +kernel

theorem test_words_scalar : decodes .sc
    [(wR 0x16 21 0x1D 30 23 1, .cmp 21 5 13 30 23), (wI 0x17 22 0x2C 31 0x85, .cmpi 22 2 12 31 0x85),
     (wR 0x18 23 53 32 22 1, .sel 23 true 53 32 22), (wR 0x19 24 11 9 4 3, .plog 24 3 11 9 4), (wR 0x1A 25 54 33 0 2, .bitc 25 2 54 33),
     (wR 0x1B 26 55 34 20 1, .fadd 26 true 55 34 20), (wR 0x1C 27 56 35 19 0, .fsub 27 false 56 35 19),
     (wR 0x1D 28 57 36 18 1, .fmul 28 true 57 36 18), (wR 0x1E 29 58 37 17 0, .fma 29 false 58 37 17),
     (wR 0x1F 30 59 38 16 1, .fdiv 30 true 59 38 16), (wR 0x20 31 60 39 0 1, .fsqrt 31 true 60 39),
     (wR 0x21 1 61 40 14 2, .fminmax 1 true false 61 40 14), (wR 0x22 2 0x37 41 13 2, .fcmp 2 7 false 7 41 13),
     (wR 0x23 3 62 42 11 0, .fcvt 3 11 62 42), (wI 0x24 4 63 0 0x4F, .gets 4 63 0x4F), (wI 0x25 5 0 43 0x0D, .sets 5 43 0x0D),
     (wI 0x26 5 50 21 0x93, .sld 5 50 21 0x93), (wI 0x27 6 51 22 0x7F, .sst 6 51 22 0x7F)] = true := by decide +kernel

/-- The same words decode alike in VX and in VY (R69). -/
def decodesV (ws : List (Nat × (VF → Instr) × VF)) : Bool :=
  decodes .vx (ws.map (fun p => (wV p.1 p.2.2, p.2.1 p.2.2))) && decodes .vy (ws.map (fun p => (wV p.1 p.2.2, p.2.1 p.2.2)))

theorem test_words_vector : decodesV
    [(0x00, .vadd, vf 5 1 0xF85 2), (0x01, .vsub, vf 3 1 0x7FF 0), (0x02, .vmul, vf 7 0 0x0FF 2), (0x03, .vfma, vf 0 0 0x021 1),
     (0x04, .vfms, vf 1 0 0xABC 0), (0x05, .vmin, vf 2 0 0xABC 0), (0x06, .vmax, vf 6 0 0x03F 1), (0x07, .vabs, vf 4 1 0 0),
     (0x08, .vneg, vf 5 0 0 0), (0x09, .vabd, vf 4 1 0xABC 0), (0x0A, .vmulh, vf 7 0 0xABC 0), (0x0B, .vclamp, vf 0 0 0xABC 0),
     (0x0C, .vand, vf 6 0 0xABC 0), (0x0D, .vor, vf 6 0 0xABC 0), (0x0E, .vxor, vf 6 0 0xABC 0), (0x0F, .vnot, vf 6 0 0 0),
     (0x10, .vshl, vf 3 0 0x00F 2), (0x11, .vshr, vf 6 0 0x00F 2), (0x12, .vcmp, { vf 0 7 0xABC 0 with vd := 6 }),
     (0x13, .vclass, { vf 0 0 0x3A5 2 with vd := 5 }), (0x14, .vsel, vf 1 6 0xABC 0),
     (0x15, .klog, ⟨false, 0, 0, 3, 7, 6, 5, 0⟩), (0x16, .kpop, ⟨true, 0, 0, 2, 0x2A, 6, 0, 0⟩), (0x17, .vcvt, vf 2 4 0 0),
     (0x18, .vsrnd, vf 0 4 0xABC 0)] = true := by decide +kernel

theorem test_words_more_vector : decodesV
    [(0x19, .vpack, vf 5 4 0xABC 0), (0x1A, .vunpk, vf 6 4 3 2), (0x1B, .vexp2, vf 2 0 0 0), (0x1C, .vlog2, vf 1 0 0 0),
     (0x1D, .vrcp, vf 0 0 0 0), (0x1E, .vrsq, vf 1 0 0 0), (0x1F, .vsqrt, vf 2 0 0 0), (0x20, .vscale, vf 0 0 0xABC 0),
     (0x21, .vround, vf 0 0 0 0), (0x22, .vcpsgn, vf 1 2 0xABC 0), (0x23, .vredsum, { vf 3 0 0 0 with z := false }),
     (0x24, .vredmax, { vf 0 0 0 0 with z := false }), (0x25, .vredmin, { vf 6 0 0 0 with z := false }),
     (0x26, .vmaxidx, { vf 6 0 0xABC 0 with z := false }), (0x27, .vprefix, vf 3 0 0 0), (0x28, .vperm, vf 6 0 0xABC 0),
     (0x29, .vxgrp, vf 6 2 7 2), (0x2A, .vbcast, vf 6 0 15 2), (0x2B, .vslide, vf 6 2 0x5 2),
     (0x2C, .viota, { vf 3 7 0 0 with va := 0 }), (0x2D, .vmov, { vf 6 0 0xABC 0 with va := 0 }),
     (0x2E, .vext, { vf 5 0 511 2 with mask := 0, vd := 0x3F }), (0x2F, .vins, { vf 4 0 255 2 with mask := 0, va := 0x2E }),
     (0x30, .vmix, vf 6 0 0xABC 0), (0x31, .vdot4, vf 5 1 0xABC 0), (0x32, .vmadi, vf 4 1 0xABC 0), (0x33, .vbitc, vf 6 3 0 0),
     (0x34, .vfin, vf 0 1 0 0), (0x35, .vlut, vf 7 1 0xABC 0)] = true := by decide +kernel

theorem test_words_matrix : decodes .mx (([(0x00, .mma, mf 13 6 7 201 2 true false 0), (0x01, .mmab, mf 13 5 2 201 1 false false 0xABC),
     (0x02, .mzero, mf 1 2 3 4 1 true true 3), (0x03, .mload, mf 13 0 0 0 0 false false 0),
     (0x03, .mload, mf 0 10 0 0 0 false true 0xABC), (0x04, .mdrain, mf 13 0 0 0 0 false false 1), (0x05, .madd, mf 13 0 0 0 2 false false 0),
     (0x06, .mscl, mf 13 0 0 0 0 false false 0), (0x07, .mtrn, mf 13 0 0 0 0 false false 0),
     (0x08, .mstat, { mf 0 0 0 0 0 false false 31 with m := 0, n := 0 }), (0x09, .mscan, mf 13 6 0 127 1 true false 0xABC),
     (0x0A, .mscanf, mf 13 6 0 127 0 false false 0xABC), (0x0B, .mscanr, mf 13 6 0 126 1 true false 0xABC),
     (0x0C, .cvInit, { mf 13 6 0 201 0 false false 2 with acc := 0, m := 0, n := 0 }),
     (0x0D, .cvProbe, { mf 13 6 0 201 1 false false 0 with n := 0 }),
     (0x0E, .cvCommit, { mf 13 6 0 201 0 false false 0 with acc := 0, m := 0, n := 0 }),
     (0x0F, .cvRead, { mf 0 6 0 203 0 false false 0xABC with m := 0, n := 0 }), (0x10, .sigFold, mf 0 0 0 0 0 false false 0),
     (0x11, .sigCheck, { mf 0 0 0 0 0 false false 63 with m := 0, n := 0 }),
     (0x12, .sigGet, { mf 0 0 0 0 0 false false 62 with m := 0, n := 0 }), (0x13, .mred, mf 13 0 0 0 0 false false 6),
     (0x14, .mgate, mf 13 0 0 0 0 false false 1), (0x15, .mcopy, mf 13 0 0 0 0 false false 0)] :
    List (Nat × (MF → Instr) × MF)).map (fun p => (wM p.1 p.2.2, p.2.1 p.2.2))) = true := by decide +kernel

/-- The words of the D slots. -/
def dWords : List (Nat × Instr) :=
  [(wD 0x00 [(34, 3), (31, 4), (27, 13), (23, 9), (19, 6), (13, 0x2D), (10, 5)], .cpy dc ⟨3, 4, 13, 9, 6, 0x2D, 5⟩),
   (wD 0x01 [(34, 4), (31, 7), (27, 13), (23, 9), (10, 5)], .strm dc ⟨4, 7, 13, 9, 0, 0, 5⟩),
   (wD 0x02 [(33, 13), (29, 9), (25, 6), (17, 0xA5)], .ring dc ⟨13, 9, 6, 0xA5⟩), (wD 0x03 [(33, 11), (21, 0x9A3)], .wdef dc ⟨11, 0x9A3⟩),
   (wD 0x04 [(33, 11), (16, 0x5A3C)], .wadv dc ⟨11, false, 0x5A3C⟩), (wD 0x05 [(33, 13)], .wrel dc ⟨13⟩),
   (wD 0x06 [(34, 4), (30, 13), (26, 9), (22, 6), (19, 5), (12, 0x47)], .stow dc ⟨4, 13, 9, 6, 5, 0x47⟩),
   (wD 0x07 [(31, 0x2D), (28, 6), (27, 1), (25, 2), (24, 1), (12, 0x9A3)], .patchOpen dc ⟨0x2D, 6, true, 2, true, 0x9A3⟩),
   (wD 0x08 [(30, 0x5B), (27, 4)], .patchSeal dc ⟨0x5B, 4⟩), (wD 0x09 [(30, 5), (18, 0x9A3)], .patchApply dc ⟨5, 0x9A3⟩),
   (wD 0x0A [(30, 6), (18, 0xFF0)], .patchInvert dc ⟨6, 0xFF0⟩),
   (wD 0x0B [(30, 0x5B), (23, 6), (22, 1), (10, 0x9A3)], .patchCommute dc ⟨0x5B, 6, true, 0x9A3⟩),
   (wD 0x0C [(30, 7), (24, 0x2D), (23, 1), (11, 0x9A3), (5, 0x36)], .patchTransplant dc ⟨7, 0x2D, true, 0x9A3, 0x36⟩),
   (wD 0x0D [(30, 0x5B), (23, 3), (11, 0x9A3)], .patchSquash dc ⟨0x5B, 3, 0x9A3⟩), (wD 0x0E [(30, 0x6E), (18, 0x123)], .patchDiscard dc ⟨0x6E, 0x123⟩),
   (wD 0x0F [(31, 0x2D), (25, 0x3E), (13, 0x9A3), (0, 0x5A7)], .rayFork dc ⟨0x2D, 0x3E, 0x9A3, false, 0x5A7⟩)]

/-- The D words from SYNC on, with the opcodes in the order of R90. -/
def moreDWords : List (Nat × Instr) :=
  [(wD 0x10 [(30, 0x5B), (23, 4), (11, 0x9A3)], .patchQuery dc ⟨0x5B, 4, 0x9A3⟩),
   (wD 0x11 [(25, 0x123), (13, 0x456), (9, 13), (7, 2), (4, 6), (3, 1), (0, 5)], .scat dc ⟨0x123, 0x456, 13, 2, 6, true, 5⟩),
   (wD 0x12 [(25, 0x123), (13, 0x456), (9, 13), (8, 1), (0, 5)], .gath dc ⟨0x123, 0x456, 13, true, 5⟩),
   (wD 0x13 [(31, 33), (25, 34), (19, 35), (7, 36), (4, 3), (2, 2), (1, 1), (0, 1)], .syncAdd dc ⟨33, 34, 35, 0, 36, 3, 2, true, true⟩),
   (wD 0x14 [(31, 37), (25, 38), (19, 39), (7, 40), (2, 1)], .syncMax dc ⟨37, 38, 39, 0, 40, 0, 1, false, false⟩),
   (wD 0x15 [(31, 41), (25, 42), (19, 43), (7, 44), (2, 3)], .syncOr dc ⟨41, 42, 43, 0, 44, 0, 3, false, false⟩),
   (wD 0x16 [(31, 45), (25, 46), (19, 47), (13, 48), (7, 49), (4, 4), (2, 2), (1, 1)], .syncCas dc ⟨45, 46, 47, 48, 49, 4, 2, true, false⟩),
   (wD 0x17 [(31, 50), (25, 51), (19, 52), (7, 53), (2, 2), (0, 1)], .syncSwap dc ⟨50, 51, 52, 0, 53, 0, 2, false, true⟩),
   (wD 0x18 [(31, 54), (25, 55), (7, 56), (2, 1), (0, 1)], .syncLda dc ⟨54, 55, 0, 0, 56, 0, 1, false, true⟩),
   (wD 0x19 [(31, 57), (25, 58), (19, 59), (4, 2), (2, 3), (1, 1)], .syncStl dc ⟨57, 58, 59, 0, 0, 2, 3, true, false⟩),
   (wD 0x1A [(31, 33), (19, 0x9A3), (13, 34)], .qpush dc ⟨33, 0x9A3, 34⟩), (wD 0x1B [(31, 35), (19, 0x456), (13, 36)], .qpop dc ⟨35, 0x456, 36⟩),
   (wD 0x1C [(36, 1), (32, 13), (28, 9), (22, 0x2D)], .send dc ⟨true, 13, 9, 0x2D⟩),
   (wD 0x1D [(36, 1), (32, 13), (28, 9), (22, 0x2D), (16, 0x36), (10, 0x3B)], .recv dc ⟨true, 13, 9, 0x2D, 0x36, 0x3B⟩),
   (wD 0x1E [(33, 3), (29, 4), (25, 5), (21, 6), (17, 7), (13, 8), (9, 9), (5, 10), (1, 11)], .tjoin dc ⟨3, 4, 5, 6, 7, 8, 9, 10, 11⟩),
   (wD 0x1F [(25, 0x9A3), (19, 34)], .lnch dc ⟨0x9A3, 34⟩)]

theorem test_words_d : (decodes .da dWords && decodes .db dWords && decodes .da moreDWords && decodes .db moreDWords) = true := by decide +kernel

theorem test_words_control : decodes .ct
    [(laid [(59, 0), (56, 5), (51, 17), (46, 2), (41, 19), (36, 4), (27, 0x1FF), (18, 0x0AB), (9, 0x155), (0, 0x0CD)],
      .btree 5 17 2 19 4 0x1FF 0x0AB 0x155 0x0CD),
     (wT 0x01 18 [(0, 0xA5A5A5A5A5)], .jump 18 0xA5A5A5A5A5), (wT 0x02 19 [(48, 63), (0, 0x5A5A5A5A5A)], .call 19 63 0x5A5A5A5A5A),
     (wT 0x03 20 [(48, 62)], .ret 20 62), (wT 0x04 21 [(51, 4), (43, 0xC3), (18, 0xABCDEF)], .loop 21 4 0xC3 false 0xABCDEF),
     (wT 0x05 22 [(51, 5)], .leave 22 5), (laid [(59, 6), (0, 0x8123456789AB)], .imx 0x8123456789AB), (wT 0x07 23 [], .nxt 23),
     (wT 0x08 24 [(51, 3), (45, 0x28)], .wait 24 3 0x28), (wT 0x09 25 [(51, 4), (49, 2)], .fence 25 4 2), (wT 0x0A 26 [], .vjoin 26),
     (wT 0x0B 27 [(51, 2), (47, 7), (45, 1)], .bar 27 2 7 1), (wT 0x0C 28 [(48, 61), (47, 1)], .estAdd 28 61 true),
     (wT 0x0D 29 [(38, 0xBEEF)], .trap 29 0xBEEF), (wT 0x0E 30 [(38, 0xCAFE)], .bkpt 30 0xCAFE), (wT 0x0F 31 [], .halt 31)] = true := by
  decide +kernel

theorem test_words_configuration : decodes .cf
    [(wF 0x0 [(24, 9), (23, 1), (0, 0x3E81)], .sclSetImm 9 0x3E81), (wF 0x0 [(24, 9), (17, 45)], .sclSetReg 9 45),
     (wF 0x1 [(16, 0x9A3)], .sclLdv 0x9A3), (wF 0x2 [(22, 45), (21, 1), (17, 5)], .bfmt 45 true 5),
     (wF 0x3 [(24, 9), (18, 45), (12, 54)], .shape 9 45 54), (wF 0x4 [(24, 9), (18, 45)], .xset 9 45),
     (wF 0x5 [(24, 9), (21, 5), (14, 45)], .xstepReg 9 5 45), (wF 0x5 [(24, 9), (21, 5), (20, 1), (0, 0x81234)], .xstepImm 9 5 0x81234),
     (wF 0x6 [(22, 45)], .cpat 45), (wF 0x7 [(27, 1), (0, 0xABCDEF)], .qbndImm 0xABCDEF), (wF 0x7 [(18, 45)], .qbndReg 45),
     (wF 0x8 [(25, 3)], .rmodeImm 3), (wF 0x8 [(24, 1), (18, 45)], .rmodeReg 45), (wF 0x9 [(27, 1), (0, 0x17F)], .ssmCfgImm 0x17F),
     (wF 0x9 [(21, 45)], .ssmCfgReg 45), (wF 0xA [(27, 1), (21, 45)], .sigSet true 45), (wF 0xB [(13, 0x5A5B)], .tkclr 0x5A5B)] = true := by
  decide +kernel

/-- The numbering of the opcode table (assumption log 5): a word that no SC operation has is read in the CF slot. -/
theorem test_table_words : decodeTableWord 32 (wR 0x03 10 3 21 36 0) = some (.mul 10 3 21 36) ∧
    decodeTableWord 32 (wF 0xB [(13, 0x5A5B)]) = some (.tkclr 0x5A5B) ∧ decodeTableWord 32 (wR 0x68 0 0 0 0 0) = none := by
  decide +kernel

/-! ### Ill-formed terms: one for each check of WellFormed.lean -/

/-- None of the instructions is well formed. -/
def illFormed (is : List Instr) : Bool := is.all (fun i => !wellFormed i)

/-- CMP's and FCVT's codes. -/
theorem test_ill_formed_scalar : illFormed
    [.cmp 0 8 1 2 3, .fcvt 0 12 1 2] = true := by
  decide +kernel

/-- Modifiers, types, second sources and destinations of the vector operations. -/
theorem test_ill_formed_vector : illFormed
    [.vadd (vf 0 1 0 0), .vadd (vf 3 2 0 0), .vsub (vf 3 0 0 3), .vmul (vf 3 0 64 1), .vadd (vf 5 0 0x080 2), .vadd (vf 7 0 0x100 2),
     .vfma (vf 3 0 0 0), .vfms (vf 0 1 0 0), .vmin (vf 0 1 0 0), .vmax (vf 0 0 0 3), .vabs (vf 6 0 0 0), .vneg (vf 3 0 1 0),
     .vabd (vf 1 1 0 0), .vmulh (vf 2 0 0 0), .vclamp (vf 3 4 0 0), .vand (vf 0 1 0 0), .vor (vf 0 0 0 3), .vxor (vf 0 2 0 0),
     .vnot (vf 0 0 0 2), .vshl (vf 0 0 0 0), .vshr (vf 3 1 0 0), .vcmp (vf 0 0 0 0), .vcmp { vf 4 0 0 0 with vd := 1 },
     .vcmp { vf 3 6 0 0 with vd := 1 }, .vclass { vf 0 0 0x400 2 with vd := 1 }, .vclass { vf 0 0 1 0 with vd := 1 },
     .vsel (vf 0 0 0 3), .klog ⟨false, 1, 0, 0, 1, 2, 3, 0⟩, .klog ⟨false, 0, 0, 5, 1, 2, 0, 0⟩, .klog ⟨false, 0, 0, 4, 1, 2, 3, 0⟩,
     .klog ⟨false, 0, 0, 0, 8, 2, 3, 0⟩, .kpop ⟨false, 0, 0, 3, 1, 2, 0, 0⟩, .kpop ⟨false, 0, 0, 0, 64, 2, 0, 0⟩,
     .kpop ⟨false, 0, 0, 0, 1, 8, 0, 0⟩, .vcvt (vf 0 0 0 0), .vcvt (vf 0 4 0 0), .vsrnd (vf 0 5 0 0), .vsrnd (vf 1 0 0 0)] = true := by
  decide +kernel

theorem test_ill_formed_more_vector : illFormed
    [.vpack (vf 0 0 0 0), .vpack (vf 5 1 0 0), .vunpk (vf 0 0 2 2), .vunpk (vf 3 0 0 2), .vunpk (vf 6 5 0 2), .vunpk (vf 0 3 4 2),
     .vunpk (vf 0 3 0 0), .vexp2 (vf 3 0 0 0), .vlog2 (vf 0 1 0 0), .vrcp (vf 0 0 1 0), .vrsq (vf 6 0 0 0), .vsqrt (vf 5 0 0 0),
     .vscale (vf 3 0 0 0), .vround (vf 3 0 0 0), .vcpsgn (vf 0 3 0 0), .vredsum (vf 0 0 0 0), .vredmax { vf 0 1 0 0 with z := false },
     .vredmin (vf 0 0 0 0), .vmaxidx { vf 1 0 0 0 with z := false }, .vprefix (vf 0 1 0 0), .vperm (vf 3 0 0 0), .vxgrp (vf 6 3 0 2),
     .vxgrp (vf 6 0 8 2), .vxgrp (vf 6 0 0 0), .vbcast (vf 6 0 16 2), .vslide (vf 6 3 0 2), .viota (vf 3 0 0 0),
     .viota { vf 6 0 0 0 with va := 0 }, .vmov (vf 0 0 0 0), .vext { vf 0 0 0 2 with vd := 1 }, .vext { vf 0 0 0 2 with mask := 0 },
     .vext { vf 0 0 128 2 with mask := 0, vd := 1 }, .vins { vf 0 0 0 2 with mask := 0, va := 64 }, .vmix (vf 3 0 0 0),
     .vdot4 (vf 0 0 0 0), .vdot4 (vf 2 1 0 0), .vmadi (vf 0 0 0 0), .vbitc (vf 3 4 0 0), .vbitc (vf 0 0 0 0), .vfin (vf 0 2 0 0),
     .vlut (vf 5 0 0 1), .vlut (vf 3 0 0 0)] = true := by decide +kernel

theorem test_ill_formed_matrix : illFormed
    [.mma (mf 1 2 4 0 0 false false 0), .mma (mf 1 2 0 0 3 false false 0), .mma (mf 1 2 2 0 2 false false 0),
     .mma (mf 1 2 0 0 0 false false 1), .mma (mf 1 2 0 4 0 false true 0), .mmab (mf 1 6 0 0 0 false false 0),
     .mmab (mf 1 0 0 0 0 true false 0), .mzero (mf 0 0 0 0 0 false false 4), .mload (mf 1 1 0 0 0 false false 0),
     .mload (mf 0 11 0 0 0 false true 0), .mload (mf 1 0 0 0 1 false false 0), .mdrain (mf 1 0 0 0 0 false false 2),
     .madd (mf 1 0 0 0 0 false false 0), .mscl (mf 1 0 0 1 0 false false 0), .mtrn (mf 1 1 0 0 0 false false 0),
     .mstat (mf 0 0 0 0 0 false false 0), .mstat { mf 0 0 0 0 0 false false 32 with m := 0, n := 0 },
     .mscan { mf 1 2 0 0 0 false false 0 with acc := 3 }, .mscanf (mf 1 2 0 128 0 false false 0), .mscanr (mf 1 2 0 0 2 false false 0),
     .cvInit { mf 1 2 0 0 0 false false 1 with acc := 0, m := 0, n := 0 }, .cvInit { mf 0 2 0 0 0 false false 3 with acc := 0, m := 0, n := 0 },
     .cvProbe (mf 1 2 0 0 0 false false 0), .cvProbe { mf 1 2 0 0 2 false false 0 with n := 0 }, .cvCommit (mf 1 2 0 0 0 false false 0),
     .cvRead { mf 0 2 0 2 0 false false 0 with m := 0, n := 0 }, .sigFold (mf 1 0 0 0 0 false false 0),
     .sigCheck { mf 0 0 0 0 0 false false 64 with m := 0, n := 0 }, .sigGet (mf 0 0 0 0 0 false false 1), .mred (mf 1 0 0 0 0 false false 3),
     .mred (mf 1 0 0 0 0 false false 8), .mgate (mf 1 0 0 0 0 false false 2), .mcopy (mf 1 0 0 0 0 false true 0)] = true := by
  decide +kernel

theorem test_ill_formed_d : illFormed
    [.cpy dc ⟨5, 0, 0, 0, 0, 0, 0⟩, .cpy dc ⟨0, 3, 0, 0, 0, 0, 0⟩, .cpy dc ⟨0, 1, 0, 0, 0, 1, 0⟩, .cpy dc ⟨0, 1, 0, 0, 0, 0, 1⟩,
     .strm dc ⟨0, 0, 0, 0, 0, 0, 0⟩, .strm dc ⟨5, 0, 0, 0, 0, 0, 0⟩, .strm dc ⟨1, 0, 0, 0, 0, 1, 0⟩, .strm dc ⟨1, 0, 0, 0, 1, 0, 0⟩, .strm dc ⟨1, 0, 0, 0, 0, 0, 1⟩,
     .ring dc ⟨0, 0, 0, 0x80⟩, .wadv dc ⟨0, true, 1⟩, .wadv dc ⟨0, false, 0⟩, .stow dc ⟨3, 0, 0, 0, 0, 0⟩, .stow dc ⟨0, 0, 0, 0, 1, 0⟩, .stow dc ⟨0, 0, 0, 0, 0, 8⟩,
     .patchOpen dc ⟨0, 0, false, 1, false, 0⟩, .patchSeal dc ⟨8, 0⟩, .patchSeal dc ⟨0, 5⟩, .patchApply dc ⟨0x38, 0⟩, .patchInvert dc ⟨9, 0⟩,
     .patchCommute dc ⟨0, 8, false, 0⟩, .patchTransplant dc ⟨8, 0, false, 0, 0⟩, .patchSquash dc ⟨8, 0, 0⟩, .patchDiscard dc ⟨8, 0⟩,
     .rayFork dc ⟨0, 0, 0, false, 0⟩, .rayFork dc ⟨0, 1, 0, true, 1⟩, .patchQuery dc ⟨0, 1, 0xFF0⟩, .patchQuery dc ⟨0, 8, 0⟩,
     .scat dc ⟨0, 0, 0, 0, 1, false, 0⟩, .syncAdd dc ⟨0, 0, 0, 0, 0, 5, 0, true, false⟩, .syncAdd dc ⟨0, 0, 0, 0, 0, 1, 0, false, false⟩,
     .syncMax dc ⟨0, 0, 0, 1, 0, 0, 0, false, false⟩, .syncOr dc ⟨0, 0, 0, 1, 0, 0, 0, false, false⟩,
     .syncCas dc ⟨0, 0, 0, 0, 0, 6, 0, true, false⟩, .syncSwap dc ⟨0, 0, 0, 1, 0, 0, 0, false, false⟩,
     .syncLda dc ⟨0, 0, 1, 0, 0, 0, 0, false, false⟩, .syncStl dc ⟨0, 0, 0, 0, 1, 0, 0, false, false⟩,
     .syncStl dc ⟨0, 0, 0, 0, 0, 0, 0, false, true⟩] = true := by decide +kernel

theorem test_ill_formed_control : illFormed
    [.btree 6 0 0 0 0 0 0 0 0, .loop 0 6 0 false 0, .loop 0 0 0 true 1, .leave 0 7, .wait 0 0 0, .wait 0 0 5, .wait 0 3 4, .wait 0 4 1,
     .wait 0 5 1, .wait 0 6 0, .fence 0 5 0, .fence 0 0 3, .bar 0 0 0 0, .bar 0 3 0 0, .bar 0 1 0 3, .bfmt 0 false 13, .bfmt 0 true 0,
     .xstepReg 0 6 0, .xstepImm 0 7 0, .rmodeImm 4, .ssmCfgImm 0x81] = true := by decide +kernel

/-! ### States for the tests and the witnesses -/

/-- What an outcome that goes on holds. -/
theorem runs {o : Host.Outcome State Fault Refusal} (h : (match o with | .next _ => true | _ => false) = true) :
    ∃ t, o = .next t := by
  cases o with
  | next t => exact ⟨t, rfl⟩
  | fault => cases h
  | refused => cases h

/-- A ready context of launch 1 with four scalar registers written, every tile, a partition of 256 vectors and the cover store. -/
def x0 : Ctx :=
  { Ctx.reset with st := .ready, launch := 1, s := [(1, 5), (2, 0x8000000000000000), (3, 0xFFFFFFFFFFFFFFFF), (4, 2)],
                   qb := 1000, rb := 4000, vunits := 4, tiles := 0xFFFF, cov := true }

/-- A device past bring-up whose core 0 runs a context; slot 1 of the bundle at 0x100 is in focus. -/
def dev (x : Ctx) (f : Core → Core) : State :=
  { State.reset with step := 7, stamp := 9, foc := ⟨0, 0, 1, 0x100, 0x106, none⟩,
                     cores := [(0, f { Core.reset with ctxs := [(0, x)], running := some 0 })] }

def s0 : State := dev x0 id
def on (f : Ctx → Ctx) : State := dev (f x0) id

/-- The same with an operand in s5. -/
def onReg (v : Word) : State := on (fun x => { x with s := x.s ++ [(5, v)] })

/-- A context with two vectors in flue 0. -/
def sFlue : State := on (fun x => { x with flues := [(0, [1, 2])] })

/-- Guard q0, token 1 produced, tokens 2, 3 and 4 consumed. -/
def c0 : DC := ⟨0, 1, 2, 3, 4⟩

/-- One row of 512 bytes, by strides of 512 (R222). -/
def shape1 : BitVec 128 := 0x00000200000002000000000002000001#128

/-- A window descriptor (R230): one row of 32 elements from the first row of a tensor, into the first home bank. -/
def desc1 : List Lane := [1, 0, 0, 0, 0x00010001, 32, 0, 128, 1]

/-- A context with a shape in h1, a window, patches in its name registers and a register that names peer 1, channel 1. -/
def xD : Ctx :=
  { x0 with
    h := [(1, shape1)]
    wins := [(2, ⟨desc1, 1, 0, 0, 0⟩)]
    n := [(3, ⟨7, ⟨false, .sealed, true, true, 1, some (0, false)⟩⟩), (4, ⟨8, ⟨false, .opened, true, true, 1, some (0, false)⟩⟩),
      (5, ⟨9, ⟨false, .applied, true, true, 1, some (0, false)⟩⟩)]
    s := [(1, 8), (6, 0x10001)]
    x := [(1, ⟨0x800000, []⟩), (2, ⟨0x100000, []⟩)] }

/-- Names in its core's reserve, and a window descriptor in vector 5. -/
def sD : State :=
  dev xD (fun k => { k with names := [(0, [12, 13])], vrf := [(5, vecOfLanes (fun l => (desc1.getD l 0).toNat))] })

/-- A launch record (R297) of one context on core 0, with a kind and the words of its generator. -/
def recordOf (kind : Nat) (gen : List Nat) : List Byte :=
  [1, .ofNat 8 (16 * kind)] ++ (loadRecord.take 0x88).drop 2 ++ gen.flatMap (fun w => leBytes w 4) ++
    List.replicate (0x78 - 4 * gen.length) 0

/-- A launch of process 1. -/
def launchOf (bytes : List Byte) (step : Nat) : Launch :=
  { proc := 1, bytes := bytes, src := .intake, die := 0, st := .live, step := step, est := DevEst.reset, batches := [], blocks := [],
    stops := [], relaunched := false, once := false, rollback := false, seq := 1, saved := [], rings := [] }

/-- A D operation in flight, the ninth, which produced into token 1; started, or not. -/
def op (k : DKind) : DOp := ⟨9, 0, false, 0x100, 1, [], some 0, k, ⟨shape1, 0, [], []⟩, true, false, false, false, 0, 0, none, none⟩
def opNew (k : DKind) : DOp := { op k with started := false }

/-- A tensor of 4 rows of 32 FP32 elements, a ray with a record, a patch of one element, and a queue. -/
def ray0 : Ray := { Ray.reset with alive := true, recs := [7] }
def tensor1 : Handle :=
  { Handle.region clTensor 0 with rows := 4, cols := 32, base := [(3, 77)], rays := [(0, ray0)] }
def patch1 : Patch :=
  { isAdd := false, dfmt := 0, st := .sealed, keep := true, dev := 0, launch := 1, core := 0, ctx := 0, home := 1, homeGen := 0,
    ray := 0, scope := 1, vals := [(5, 99)], idxs := [], undo := [], locs := [], masks := [], undoLocs := [], imgs := [],
    born := 0, bad := [], undoBad := [], due := false }
def queue1 : Queue := ⟨false, 0, true, true, 0, true, 3, 2, 0, 8, [], []⟩

/-- Process 1: a tensor, SYNC cells, a QBODY region, a code image and a save area; a patch, queues and a channel. -/
def proc1 : Process :=
  { alive := true
    handles := [(1, tensor1), (2, Handle.region clSync 4096), (3, Handle.region clQbody 4096),
      (4, { Handle.region clCode 4096 with present := [0, 1] }), (8, Handle.region clSave 4096), (6, { tensor1 with st := .migrating, plan := some ⟨5, [], 0, []⟩ })]
    patches := [(7, patch1)]
    queues := [(0, queue1), (1, { queue1 with draining := true }), (2, { queue1 with resident := false }),
      (3, { queue1 with push := false, work := false }), (4, { queue1 with c := 1 })]
    chans := [⟨1, 2, [], [], [], ⟨0, 0, 0⟩, 0⟩] }

/-- Core 0 with operations in flight, of a context of launch 1 of process 1. -/
def busyWith (x : Ctx) (p : Process) (os : List DOp) : State :=
  { dev { x with tk := [(1, .pending 9)] } (fun k => { k with dops := os }) with
    procs := [(1, p)], launches := [(1, launchOf (recordOf 0 []) 0)] }
def ops (os : List DOp) : State := busyWith x0 proc1 os

/-- A record whose code is handle 4 and whose save area is handle 8, with bytes replaced. -/
def recBytes (sets : List (Nat × Byte)) : List Byte := sets.foldl (fun bs p => bs.set p.1 p.2) (((recordOf 0 []).set 0x20 4).set 0x30 8)

/-- A launch that holds context 0 of core 0. -/
def holding (f : Ctx → Ctx) (g : Launch → Launch) : State :=
  { busyWith (f x0) { proc1 with patches := [] } [] with
    launches := [(1, g (launchOf (recBytes [(0x80, 2), (0x85, 0x0F)]) 0))] }

/-- The same once its context has halted and its run is over. -/
def haltedWith (g : Launch → Launch) : State :=
  (holding (fun x => { x with st := .halted }) g).modCore 0 (fun k => { k with running := none })

/-! ### Witnesses: encodings, steps and scalar operations -/

theorem witness_decode_of_encode :
    standsIn (.vadd ⟨true, 5, 5, 1, 255, 0xC00, 0xF85, 2⟩) .vy = true ∧ wellFormed (.vadd ⟨true, 5, 5, 1, 255, 0xC00, 0xF85, 2⟩) = true ∧
      standsIn (.tjoin ⟨0, 1, 2, 3, 4⟩ ⟨1, 2, 3, 4, 5, 6, 7, 8, 9⟩) .db = true ∧
      wellFormed (.tjoin ⟨0, 1, 2, 3, 4⟩ ⟨1, 2, 3, 4, 5, 6, 7, 8, 9⟩) = true := by decide +kernel

theorem witness_encode_of_decode : 0x0001410C < 2 ^ slotBits .sc ∧ decodeSlot .sc 0x0001410C = .ok (.add 0#5 5#6 1#6 3#6) := by
  decide +kernel

/-- The first opcode of each slot that no operation has. -/
theorem witness_decoded_words : 0x28 ≤ ((0x50000000 : BitVec 32).extractLsb' 25 7).toNat ∧
    0x36 ≤ ((0x36000000000000 : BitVec 56).extractLsb' 48 8).toNat ∧ 0x16 ≤ ((0x5800000000000000 : BitVec 64).extractLsb' 58 6).toNat ∧
    0x20 ≤ ((0x8000000000000000 : BitVec 64).extractLsb' 58 6).toNat ∧
    0x10 ≤ ((0x8000000000000000 : BitVec 64).extractLsb' 59 5).toNat ∧ 0xC ≤ ((0xC0000000 : BitVec 32).extractLsb' 28 4).toNat := by
  decide +kernel

theorem witness_step_runs_agenda : { s0 with agenda := [.coreCycle 0] }.agenda = [.coreCycle 0] ∧
    s0.agenda = [] ∧ s0.round ≠ [] ∧ State.reset.agenda = [] ∧ State.reset.round = [] := by decide +kernel

/-- A machine whose next event issues a bundle with one slot. -/
def lone (sl : Slot) (w : Nat) : State := { State.reset.load (loadBundle sl w) with agenda := [.bundleIssue 0] }

/-- The conditions of StepIssuesLoneSlot on that machine, and the kind of result that the slot has. -/
def loneOk (sl : Slot) (w : Nat) (kind : Res → Bool) : Bool :=
  let s := { lone sl w with agenda := [] }
  let s1 := s.landSteps 0 0
  match s1.fetch 0 0, decodeSlot sl w with
  | .got pc next b, .ok i =>
    let u := atSlot s1 0 0 pc next (slotBit sl)
    decide ((s.core 0).running = some 0) && decide ((s.core 0).busy = 0) && !(s.core 0).ending && decide ((s.ctx 0 0).st = .ready) &&
      !s.rolling (s.ctx 0 0) && !(s.ctx 0 0).runOver (s.core 0) && !(s.ctx 0 0).quietOver && decide (b.slots = [(sl, w)]) &&
      decide (b.pad = 0) && decide (((s1.core 0).buffered 0 (s1.ctx 0 0)).map Prod.fst = none) && decide (s1.damaged = [] ∧ s1.weak = []) &&
      decide (u.cur.untaken = []) && !u.cur.stepMark && kind (runSlot i u)
  | _, _ => false

/-- An addition that writes, a system register that does not exist to read, and a wait for an empty flue. -/
theorem witness_step_issues_lone_slot :
    loneOk .sc (wR 0x00 0 5 1 3 0) (fun r => match r with | .ok _ => true | _ => false) = true ∧
      loneOk .ct (wT 0x0D 0 [(38, 7)]) (fun r => match r with | .late _ => true | _ => false) = true ∧
      loneOk .ct (wT 0x08 0 [(51, 3)]) (fun r => match r with | .stall => true | _ => false) = true := by decide +kernel

/-- A bundle of a loop body that the loop buffer holds. -/
theorem witness_step_issues_from_loop_buffer :
    let raw : RawBundle := { hdr := 1, slots := [(.sc, wR 0x00 0 5 1 3 0)], pad := 0 }
    let s := { (State.reset.load []).modCtx 0 0 (fun x => { x with loops := [(0, ⟨4, 1, true, 0, 6⟩)] }) with agenda := [] }
    let t := s.modCore 0 (fun k => { k with loopBuf := ⟨some 0, 0, 6, [(0, (6, raw))]⟩ })
    bundleDue t 0 0 ∧ fetched (t.landSteps 0 0) 0 0 0 6 raw ∧ intact (t.landSteps 0 0) ∧
      (match decodeSlot .sc (wR 0x00 0 5 1 3 0) with | .ok i => decide (i = .add 0 5 1 3) | .error _ => false) = true := by
  refine ⟨by unfold bundleDue; decide +kernel, ⟨rfl, rfl⟩, by unfold intact; decide +kernel, by decide +kernel⟩

theorem witness_exec_commits_slot : (slotOf (.wait 0 0 4)).isSome = true ∧ s0.cur.untaken = [] ∧ s0.cur.guard 0 = true := by
  decide +kernel

theorem witness_add_beside_xset :
    let bs := leBytes 0x81 2 ++ leBytes (wR 0x00 0 5 1 3 0) 4 ++ leBytes (wF 0x4 [(24, 2), (18, 5)]) 4
    let s := State.reset.load bs
    bundleDue s 0 0 ∧ (s.ctx 0 0).nxt = [] ∧ intact s ∧ (s.core 0).buffered 0 (s.ctx 0 0) = none ∧
      s.fetch 0 0 = .got 0 10 { hdr := 0x81, slots := [(.sc, wR 0x00 0 5 1 3 0), (.cf, wF 0x4 [(24, 2), (18, 5)])], pad := 0 } ∧
      (s.ctx 0 0).untaken = [] ∧ (s.ctx 0 0).stepMark = false ∧ (s.ctx 0 0).guard 0 = true ∧
      decodeSlot .sc (wR 0x00 0 5 1 3 0) = .ok (.add 0 5 1 3) ∧ decodeSlot .cf (wF 0x4 [(24, 2), (18, 5)]) = .ok (.xset 2 5) := by
  unfold bundleDue intact; decide +kernel

/-! ### Witnesses: the SC slot -/

theorem witness_scalar_results : (∃ r, integerRule s0 (.mulhi 0 63 2 3) = some r ∧ s0.cur.guard r.guard = true) ∧
    ∃ r, floatRule s0 (.fsqrt 15 true 1 3) = some r ∧ s0.cur.guard r.guard = true :=
  ⟨⟨_, rfl, by decide +kernel⟩, ⟨_, rfl, by decide +kernel⟩⟩

/-- The operations that the scalar rules give a result. -/
theorem witness_scalar_results_each :
    ([.add 0 1 2 3, .sub 0 1 2 3, .addi 0 1 2 3, .mul 0 1 2 3, .mulhi 0 1 2 3, .mulhu 0 1 2 3, .div 0 1 2 3, .divu 0 1
     2 3, .rem 0 1 2 3, .remu 0 1 2 3, .and 0 1 2 3, .or 0 1 2 3, .xor 0 1 2 3, .andn 0 1 2 3, .shl 0 1 2 3, .shlImm 0
     1 2 3, .shrl 0 1 2 3, .shrlImm 0 1 2 3, .shra 0 1 2 3, .shraImm 0 1 2 3, .min 0 1 2 3, .max 0 1 2 3, .minu 0 1 2
     3, .maxu 0 1 2 3, .sethi 0 1 2 3, .sel 0 false 1 2 3, .bitc 0 0 1 2] : List Instr).all
      (fun i => match integerRule s0 i with | some r => s0.cur.guard r.guard | none => false) = true ∧
    ([.fadd 0 true 1 2 3, .fsub 0 true 1 2 3, .fmul 0 true 1 2 3, .fma 0 true 1 2 3, .fdiv 0 true 1 2 3, .fsqrt 0 true
     1 2, .fminmax 0 true true 1 2 3, .fcvt 0 11 1 2] : List Instr).all
      (fun i => match floatRule s0 i with | some r => s0.cur.guard r.guard | none => false) = true := by decide +kernel

/-- A divisor of zero, the quotient that overflows, and another. -/
theorem witness_division : s0.cur.guard 0 = true ∧ s0.cur.rd 0 = 0 ∧ (s0.cur.rd 2).toInt = -2 ^ 63 ∧ (s0.cur.rd 3).toInt = -1 ∧
    s0.cur.rd 4 ≠ 0 ∧ ¬ ((s0.cur.rd 2).toInt = -2 ^ 63 ∧ (s0.cur.rd 4).toInt = -1) ∧ (1 : BitVec 2) ≠ 0 := by decide +kernel

theorem witness_select : s0.cur.guard 0 = true ∧ s0.cur.rd 1 ≠ 0 ∧ (s0.cur.rd 2).toInt < 0 ∧ s0.cur.rd 9 = 0 := by decide +kernel

/-- The first and the last predicate that an operation writes, and those that it may not. -/
theorem witness_predicate_results : (∃ v, predicateRule s0 (.cmp 0 7 1 1 2) = some (0, 1, v)) ∧
    (∃ v, predicateRule s0 (.plog 0 3 13 1 2) = some (0, 13, v)) ∧ s0.cur.guard 0 = true ∧
    (∃ v, predicateRule s0 (.fcmp 16 6 false 0 1 2) = some (16, 0, v)) ∧ ∃ v, predicateRule s0 (.cmpi 0 3 14 1 2) = some (0, 14, v) :=
  ⟨⟨_, rfl⟩, ⟨_, rfl⟩, by decide +kernel, ⟨_, rfl⟩, ⟨_, rfl⟩⟩

theorem witness_results_land :
    let s := fun (n : Nat) => dev x0 (fun k => { k with pend := [⟨0, .sreg 63 7, n⟩] })
    ((s 3).core 0).pend[0]? = some ⟨0, .sreg 63 7, 3⟩ ∧ ((s 1).core 0).pend = [⟨0, .sreg 63 7, 1⟩] ∧
      ((s 20).core 0).pend = [⟨0, .sreg 63 7, 18 + 2⟩] ∧ 4 ≤ (s 1).step ∧ (s 1).tripped = false ∧ (s 1).cycleHeld 0 = false ∧
      (s 20).cycleHeld 0 = false ∧
      (let u := dev { x0 with stores := 4 } (fun k => { k with pend := [⟨0, .mem 0x800 (BitVec.ofNat _ 7), 3⟩] })
       (u.core 0).pend[0]? = some ⟨0, .mem 0x800 (BitVec.ofNat _ 7), 3⟩ ∧ u.cur.stores = 4) := by decide +kernel

/-- The last number of the table, the first that is not in it, and the TSTAT of a tile not assigned. -/
theorem witness_gets_reads : sysNumOk (sysNum s0 0x4F) = true ∧ isTstat (sysNum s0 0x1F) = true ∧
    s0.cur.hasTile (sysNum s0 0x1F - 0x10) = true ∧ s0.cur.guard 0 = true ∧ sysNumOk (sysNum s0 0x0E) = false ∧
    (let s := on (fun x => { x with tiles := 0x7FFF })
     isTstat (sysNum s 0x1F) = true ∧ s.cur.hasTile (sysNum s 0x1F - 0x10) = false) ∧
    s0.foc.ctx < 8 ∧ s0.foc.core < 128 ∧ s0.node < 1024 ∧ s0.cur.nextB ≤ 2 ^ 48 ∧ (on (fun x => { x with nextA := 2 ^ 48 })).cur.nextA ≤ 2 ^ 48 ∧
    (let s := dev { x0 with nextA := 2 ^ 48 } (fun k => { k with dops := [op .join] })
     op .join ∈ (s.core s.foc.core).dops ∧ (op .join).ctx = s.foc.ctx ∧ (op .join).chanB = false ∧ (op .join).xfer = some 0) := by
  decide +kernel

/-- RMODE, QB, SSMCFG, CPAT, PRED and VFSTAT at the ends of their ranges; a loop count inside its body and outside it; a
value too wide for CTXID, and one that is not. -/
theorem witness_sets_writes : sysNum s0 0x21 = 0x21 ∧ s0.cur.guard 0 = true ∧ (∀ n ∈ [0x00, 0x01, 0x03, 0x04, 0x06, 0x07, 0x0A, 0x0D, 0x21],
      sysNumOk n = true ∧ isTstat n = false) ∧
    (3 : Word).toNat ≤ 3 ∧ 3 < (4 : Word).toNat ∧ (1000 : Word).toNat ≤ s0.cur.qb.toNat ∧
    s0.cur.qb.toNat < (1001 : Word).toNat ∧ ssmBad 0x180 = false ∧ ssmBad 0x181 = true ∧ cpatBad 0 = false ∧
    cpatBad 0xFFFFFFFFFFFF = true ∧ (0xFFFF : Word).toNat < 2 ^ 16 ∧ (7 : Word).toNat < 2 ^ 3 ∧ isLc 0x21 = true ∧
    (let s := on (fun x => { x with loops := [(1, ⟨4, 1, true, 0x100, 0x120⟩)] })
     ((s.cur.loop (0x21 - 0x20)).active = true ∧ s.foc.pc = (s.cur.loop (0x21 - 0x20)).first)) ∧
    ¬ ((s0.cur.loop (0x21 - 0x20)).active = true ∧ s0.foc.pc = (s0.cur.loop (0x21 - 0x20)).first) ∧ isLc 0x0A = false ∧
    2 ^ sysWidth 0x0A ≤ (BitVec.ofNat 64 (2 ^ sysWidth 0x0A)).toNat ∧ (BitVec.ofNat 64 (2 ^ sysWidth 0x0A - 1)).toNat < 2 ^ sysWidth 0x0A ∧
    0x0A ∉ [0x00, 0x01, 0x03, 0x04, 0x06, 0x07, 0x0D] := by decide +kernel

/-- The last word of the last bank; then an address below zero, one past the end, one in a hole, and one not aligned. -/
theorem witness_scalar_memory :
    let ea := fun (v : Word) => ((onReg v).cur.rd 5).toInt + (immOf (onReg v) 0xFF).toInt
    memoriesOk s0 ∧ intact s0 ∧ s0.cur.guard 0 = true ∧ ea 0x1FDFFF9 = 0x1FDFFF8 ∧ (0x1FDFFF8 : Nat) < 2 ^ 25 ∧
      0x1FDFFF8 % 2 ^ 19 < 393216 ∧ 0x1FDFFF8 % 8 = 0 ∧ ea 0 < 0 ∧ (2 ^ 25 : Int) ≤ ea 0x2000001 ∧ 393216 ≤ ea 0x60001 % 2 ^ 19 ∧
      0 ≤ ea 0x60000 ∧ ea 0x60000 % 2 ^ 19 < 393216 ∧ ea 0x60000 % 8 ≠ 0 := by unfold memoriesOk intact; decide +kernel

theorem witness_scalar_frame :
    (∃ r t, integerRule s0 (.add 0 63 1 2) = some r ∧ exec (.add 0 63 1 2) s0 = .next t) ∧
    (∃ r, floatRule s0 (.fma 16 false 1 2 3) = some r ∧ s0.cur.guard r.guard = false) ∧
    (∃ v, predicateRule s0 (.cmp 16 0 13 1 1) = some (16, 13, v)) ∧ s0.cur.guard 16 = false ∧ sysNumOk (sysNum s0 0x09) = true ∧
    isTstat (sysNum s0 0x09) = false :=
  ⟨⟨_, _, rfl, (runs (by decide +kernel)).choose_spec⟩, ⟨_, rfl, by decide +kernel⟩, ⟨_, rfl⟩, by decide +kernel, by decide +kernel,
    by decide +kernel⟩

/-! ### Witnesses: the vector slots -/

/-- An addition of an element with an immediate, under a mask, into the last vector of the partition. -/
def vop : VF := ⟨true, 5, 5, 1, 255, 0xFF8, 0xF85, 2⟩

theorem witness_vector_results :
    (∃ r, vectorRule sFlue (.vadd vop) = some r ∧ readable sFlue r.srcs ∧ sFlue.cur.vdst r.f.vd.toNat = true) ∧
    ∃ r, vectorRule s0 (.vfin ⟨false, 0, 0, 1, 0, 1, 0, 0⟩) = some r ∧ readable s0 r.srcs ∧ s0.cur.vdst r.f.vd.toNat = true :=
  ⟨⟨_, rfl, by unfold readable; decide +kernel, by decide +kernel⟩, ⟨_, rfl, by unfold readable; decide +kernel, by decide +kernel⟩⟩

/-- The conditions of VectorResults on every operation that writes a vector. -/
theorem witness_vector_results_each :
    ([.vadd, .vsub, .vmul, .vfma, .vfms, .vmin, .vmax, .vabs, .vneg, .vabd, .vmulh, .vclamp, .vand, .vor, .vxor, .vnot,
     .vshl, .vshr, .vsel, .vcvt, .vsrnd, .vpack, .vunpk, .vexp2, .vlog2, .vrcp, .vrsq, .vsqrt, .vscale, .vround,
     .vcpsgn, .vredsum, .vredmax, .vredmin, .vmaxidx, .vprefix, .vperm, .vxgrp, .vbcast, .vslide, .viota, .vmov,
     .vmix, .vdot4, .vmadi, .vbitc, .vfin, .vlut] : List (VF → Instr)).all (fun op =>
      match vectorRule s0 (op ⟨false, 0, 0, 0, 3, 1, 2, 0⟩) with
      | some r => r.srcs.all (fun c => decide (s0.cur.vsrc c ≠ .bad) && !s0.cur.srcEmpty (s0.cur.vsrc c)) && s0.cur.vdst r.f.vd.toNat
      | none => false) = true := by decide +kernel

/-- VINS of the last element of a type, of the one after it, and into a vector outside the partition. -/
theorem witness_vins :
    let f : VF := ⟨true, 0, 5, 0, 255, 4, 511, 2⟩
    let g : VF := { f with bs := 1, vb := 5 }
    let s := onReg 512
    s.cur.vdst f.vd.toNat = true ∧ indexOf s f = 511 ∧ 511 < 128 * (vtOfCode f.ty).k ∧ indexOf s g = 512 ∧
      128 * (vtOfCode g.ty).k ≤ 512 ∧ s.cur.vdst ({ f with vd := 256 } : VF).vd.toNat = false := by decide +kernel

/-- The last element of 8 bits; an element type that is not floating-point; the last index, and the one after it. -/
theorem witness_vector_elements : 511 < 4096 / (vtOfCode 5).w ∧ (vtOfCode 5).isF = false ∧ 255 < 2 ^ (vtOfCode 5).w ∧ 127 < 128 ∧
    511 < 128 * (vtOfCode 5).k ∧ 128 * (vtOfCode 5).k ≤ 512 ∧ 510 ≠ 511 := by decide +kernel

theorem witness_masks_and_lanes :
    let f : VF := ⟨true, 5, 0, 3, 7, 0xFF8, 0xFF9, 0⟩
    let s := on (fun x => { x with flues := [(0, [1]), (1, [2])] })
    f.vd.toNat % 8 ≠ 0 ∧ f.vd.toNat ≠ 0 ∧ readable s (vecSrcs f true true) ∧ readable s (vecSrcs f true false) ∧
      readable s [f.va.toNat] ∧ 2 ≤ 4 := by
  unfold readable; decide +kernel

/-- A vector addition; then a destination outside the partition, a source outside it, an empty flue, and k0. -/
theorem witness_vector_frame :
    (∃ r t, vectorRule sFlue (.vadd vop) = some r ∧ readable sFlue r.srcs ∧ sFlue.cur.vdst r.f.vd.toNat = true ∧
      exec (.vadd vop) sFlue = .next t) ∧
    (∃ r, vectorRule s0 (.vadd { vop with vd := 256 }) = some r ∧ s0.cur.vdst r.f.vd.toNat = false) ∧
    (∃ r, vectorRule s0 (.vnot { vop with va := 256 }) = some r ∧ ∃ c ∈ r.srcs, s0.cur.vsrc c = .bad) ∧
    (∃ r, vectorRule s0 (.vadd vop) = some r ∧ s0.cur.vdst r.f.vd.toNat = true ∧ (∀ c ∈ r.srcs, s0.cur.vsrc c ≠ .bad) ∧
      ∃ c ∈ r.srcs, s0.cur.srcEmpty (s0.cur.vsrc c) = true) ∧
    (⟨false, 0, 0, 0, 8, 1, 2, 0⟩ : VF).vd.toNat % 8 = 0 ∧ (⟨false, 0, 0, 0, 0, 1, 2, 0⟩ : VF).vd.toNat = 0 := by
  refine ⟨⟨_, _, rfl, by unfold readable; decide +kernel, by decide +kernel, (runs (by decide +kernel)).choose_spec⟩,
    ⟨_, rfl, by decide +kernel⟩, ⟨_, rfl, by decide +kernel⟩, ⟨_, rfl, by decide +kernel, by decide +kernel, by decide +kernel⟩,
    by decide, by decide⟩

/-! ### Witnesses: the MX slot -/

/-- Address registers at the first home bank of core 0 and at its first in another subarray. -/
def sMat : State := on (fun x => { x with x := [(1, ⟨0x800000, []⟩)] })

/-- One of M, N and KB, accumulator a1, xA = x0, xB = x1. -/
def mm : MF := ⟨0, 1, 0, 1, 0, 0, 0, 0, 0, false, false, 0⟩

/-- The conditions under which an operation issues hold. -/
def mxMeets (s : State) (i : Instr) : Prop :=
  ∃ kind f ready, mxReady s i = some (kind, f, ready) ∧ ready ∧ mxRoom s kind f

theorem witness_matrix_issues_tiles : mxMeets s0 (.mzero mm) ∧ mxMeets s0 (.mtrn mm) ∧ mxMeets s0 (.sigFold mm) ∧
    mxMeets s0 (.cvInit mm) ∧ mxMeets s0 (.cvRead { mm with kb := 3, low := 255 }) ∧ mxMeets s0 (.mload { mm with bs := true, low := 255 }) := by
  and_intros
  all_goals
    refine ⟨_, _, _, rfl, ?_, by unfold mxRoom; decide +kernel⟩
    first
      | decide +kernel
      | (unfold areaPlaced rowsFmt; decide +kernel)
      | (unfold groundOk; decide +kernel)
      | (unfold groundOk areaPlaced rowsFmt; decide +kernel)

theorem witness_matrix_issues_others : mxMeets sMat (.mma mm) ∧ mxMeets sMat (.madd mm) ∧ mxMeets sMat (.mscl mm) ∧ mxMeets sMat (.mstat mm) ∧
    mxMeets sMat (.sigCheck mm) ∧ mxMeets sMat (.sigGet mm) ∧ mxMeets sMat (.mred mm) ∧ mxMeets sMat (.mgate mm) ∧ mxMeets sMat (.mcopy mm) ∧
    mxMeets sMat (.mmab { mm with low := 224 }) ∧ mxMeets sMat (.mload mm) ∧ mxMeets sMat (.mdrain { mm with low := 1 }) ∧
    mxMeets sMat (.mscan { mm with acc := 14, low := 0xFF0 }) ∧ mxMeets sMat (.mscanf { mm with acc := 14, low := 0xFF0 }) ∧
    mxMeets sMat (.mscanr { mm with acc := 14, low := 0xFF0 }) ∧ mxMeets s0 (.cvProbe mm) ∧ mxMeets s0 (.cvCommit mm) := by
  and_intros
  all_goals
    refine ⟨_, _, _, rfl, ?_, by unfold mxRoom; decide +kernel⟩
    first
      | decide +kernel
      | (unfold areaPlaced rowsFmt; decide +kernel)
      | (unfold groundOk areaPlaced rowsFmt; decide +kernel)

/-- An operation in flight, and an MZERO of tile 1 in flight. -/
def inPipe (kind : MxKind) (started : Bool) (occ : Nat) : MxOp := { mxOpOf kind mm s0 with started := started, occ := occ }
def zeroing (started : Bool) (occ : Nat) : MxOp := inPipe .mzero started occ
def zeroed (os : List MxOp) : State := dev x0 (fun k => { k with mxs := os })

/-- A false guard; 16 operations in flight; a tile that another operation holds; a tile not assigned. -/
theorem witness_matrix_waits :
    (∃ kind f ready, mxReady s0 (.mzero { mm with g := 16 }) = some (kind, f, ready) ∧ ready ∧ s0.cur.guard f.g = false) ∧
    (let s := zeroed (List.replicate 16 (zeroing true 1))
     ∃ kind f ready, mxReady s (.mzero mm) = some (kind, f, ready) ∧ ready ∧ s.cur.guard f.g = true ∧
       16 ≤ (s.core s.foc.core).mxs.length ∧ mxBusy s (mxOpOf kind f s) = true) ∧
    (let s := on (fun x => { x with tiles := 0xFFFD })
     ∃ kind f ready, mxReady s (.mzero mm) = some (kind, f, ready) ∧ s.cur.hasTile f.acc.toNat = false ∧ kind ≠ .cvInit ∧ kind ≠ .cvCommit) :=
  ⟨⟨_, _, _, rfl, by decide +kernel, by decide +kernel⟩, ⟨_, _, _, rfl, by decide +kernel, by decide +kernel, by decide +kernel, by decide +kernel⟩,
    ⟨_, _, _, rfl, by decide +kernel, by decide +kernel, by decide +kernel⟩⟩

/-- A core's only operation, to be started, and to be completed. -/
theorem starts {s : State} {o : MxOp} (h : (s.core 0).mxs = [o]) (h1 : o.started = false) (h2 : o.occ = 0) :
    mxToStart s 0 0 o.kind.onArray o := by
  refine ⟨fun p hp _ hs => ?_, by rw [h]; rfl, rfl, h1, h2, fun j _ hj => by omega⟩
  rw [h, List.mem_singleton] at hp
  rw [hp, h1] at hs
  cases hs

theorem finishes {s : State} {o : MxOp} (h : (s.core 0).mxs = [o]) (h1 : o.started = true) (h2 : o.occ = 0) (h3 : o.deep = 0) :
    mxFinished s 0 0 o := ⟨by rw [h]; rfl, h1, h2, h3, fun _ j _ hj => by omega⟩

/-- An operation of each pipe that starts and one of each that completes; no operation. -/
theorem witness_matrix_issues_events :
    mxToStart (zeroed [inPipe .mma false 0]) 0 0 true (inPipe .mma false 0) ∧
      mxToStart (zeroed [inPipe .mzero false 0]) 0 0 false (inPipe .mzero false 0) ∧
      mxFinished (zeroed [inPipe .mscan true 0]) 0 0 (inPipe .mscan true 0) ∧
      mxFinished (zeroed [inPipe .mdrain true 0]) 0 0 (inPipe .mdrain true 0) ∧
      (∀ array j o, ¬ mxToStart (zeroed []) 0 j array o) ∧ ∀ o, ¬ mxFinished (zeroed []) 0 0 o :=
  ⟨starts (o := inPipe .mma false 0) rfl rfl rfl, starts (o := inPipe .mzero false 0) rfl rfl rfl, finishes rfl rfl rfl rfl, finishes rfl rfl rfl rfl,
    (fun _ _ _ h => nomatch h.2.1), (fun _ h => nomatch h.1)⟩

/-- Starts: an MMA; the accesses to the cover store of a CV.READ, of each CV.INIT and of a CV.COMMIT. -/
theorem witness_matrix_runs_starts :
    (∀ kind, mxToStart (zeroed [inPipe kind false 0]) 0 0 (inPipe kind false 0).kind.onArray (inPipe kind false 0)) ∧ (∀ kind, intact (zeroed [inPipe kind false 0])) ∧
      (∀ kind, (inPipe kind false 0).xb % 32 = 0) ∧
      ∀ code ∈ [0, 1, 2], ({ mm with low := BitVec.ofNat 12 code } : MF).low.toNat % 4 = code :=
  ⟨fun _ => starts rfl rfl rfl, fun _ => ⟨rfl, rfl⟩, fun _ => rfl, by decide⟩

/-- Completions: of every kind that writes tiles, and of the others. -/
theorem witness_matrix_runs_completions :
    (∀ kind ∈ [MxKind.mma, .mmab, .mzero, .mload, .madd, .mscl, .mtrn, .mgate, .mcopy, .mred, .cvProbe, .mscan, .mscanf, .mscanr],
      (mxTiles (zeroed [inPipe kind true 0]) 0 (inPipe kind true 0)).isSome = true) ∧
    ∀ kind ∈ [MxKind.mma, .mmab, .mzero, .mload, .madd, .mscl, .mtrn, .mgate, .mcopy, .mred, .cvProbe, .mscan, .mscanf, .mscanr,
        .mstat, .cvInit, .cvCommit, .cvRead, .sigGet, .sigCheck, .sigFold, .mdrain],
      mxFinished (zeroed [inPipe kind true 0]) 0 0 (inPipe kind true 0) ∧ intact (zeroed [inPipe kind true 0]) ∧
        memoriesOk (zeroed [inPipe kind true 0]) :=
  ⟨by decide +kernel, fun _ _ => ⟨finishes rfl rfl rfl rfl, ⟨rfl, rfl⟩, by simp [memoriesOk, zeroed, dev, State.reset]⟩⟩

/-- Two rows of an MDRAIN in the scratchpad that do not overlap, and one to a vector. -/
theorem witness_matrix_runs_mdrain :
    let o := { inPipe .mdrain true 0 with f := { mm with m := 1 }, xa := 0x800000, smp := ⟨128#128 <<< 64, 0, [], []⟩ }
    let v := { inPipe .mdrain true 0 with f := { mm with bs := true, xb := 10 } }
    mxFinished (zeroed [o]) 0 0 o ∧ o.f.bs = false ∧
      (∀ a, a < 2 → bankFmt o.smp.bfmt (bankOf (o.rowAddr false a)) = bankFmt o.smp.bfmt (bankOf o.xa)) ∧
      (∀ b, b < 2 → ∀ a, a < b → o.rowAddr false a + rowBytes .fp32 1 ≤ o.rowAddr false b) ∧ mxFinished (zeroed [v]) 0 0 v ∧
      v.f.bs = true ∧ ((Sfmt.ofCode v.f.xb.toNat).getD .fp32).code = 10 :=
  ⟨finishes rfl rfl rfl rfl, rfl, by decide +kernel, by decide +kernel, finishes rfl rfl rfl rfl, rfl, by decide +kernel⟩

/-- Products of integers and of others, sums, and roundings: scaled and plain terms, a cell that is no product over LNS6, a
fill, and a NaN, an infinity and a number. -/
theorem witness_matrix_values :
    let x : El := ⟨.e4m3, 0x38, some 0x3F80, false⟩
    let l : El := ⟨.lns6, 0x38, some 0x3F80, false⟩
    (x.sc = some 0x3F80 ∧ l.sc = some 0x3F80 ∧ (0x3F80 : BitVec 16) ≠ 0 ∧ scaleBad 0x3F80 = false ∧ fvFinite x.dec ∧ fvFinite l.dec ∧
      ¬ (x.fmt = .lns6 ∧ x.fmt = .lns6)) ∧ fvFinite (v32 0x3F800000) ∧ (∀ v, some v ∈ [some (v32 0x3F800000), none] → fvFinite v) ∧
      (v32 0x7FC00000).isNan = true ∧ v32 0xFF800000 = .inf true ∧ mm.cell ≠ 2 ∧ ({ mm with cell := 2 } : MF).cell = 2 := by
  have h : fvFinite (v32 0x3F800000) := ⟨false, _, _, rfl⟩
  refine ⟨⟨rfl, rfl, by decide, by decide, ⟨false, _, _, rfl⟩, ⟨true, _, _, rfl⟩, by decide⟩, h, ?_, by decide +kernel, by decide +kernel,
    by decide, rfl⟩
  intro v hv
  simp only [List.mem_cons, Option.some.injEq, List.not_mem_nil, or_false, reduceCtorEq] at hv
  exact hv ▸ h

/-! ### Witnesses: the D slots -/

/-- The conditions under which a D operation issues hold. -/
def dMeets (s : State) (i : Instr) : Prop := ∃ r, dRule s i = some r ∧ r.regs ∧ r.ready ∧ dRoom s r.c r.src r.moves

theorem witness_d_issues_copies : dMeets sD (.cpy c0 ⟨1, 1, 1, 0, 1, 0, 0⟩) ∧ dMeets sD (.strm c0 ⟨1, 0, 1, 0, 0, 0, 0⟩) ∧
    dMeets sD (.ring c0 ⟨1, 0, 2, 3⟩) ∧ dMeets sD (.wdef c0 ⟨3, 5⟩) ∧ dMeets sD (.wadv c0 ⟨2, false, 1⟩) ∧
    dMeets sD (.wrel c0 ⟨2⟩) ∧ dMeets sD (.stow c0 ⟨1, 1, 0, 0, 0, 4⟩) ∧ dMeets sD (.scat c0 ⟨1, 2, 0, 0, 0, false, 0⟩) ∧
    dMeets sD (.gath c0 ⟨1, 2, 0, false, 7⟩) := by
  and_intros
  all_goals
    refine ⟨_, rfl, by decide +kernel, ?_, by unfold dRoom; decide +kernel⟩
    first
      | decide +kernel
      | (unfold baseOk; decide +kernel)

/-- An operand that names a register with a patch. -/
theorem namedReg {s : State} {p : BitVec 7} {r : NameReg} (h1 : pScalar p = false) (h2 : Tab.find s.cur.n (p.toNat % 8) = some r)
    (h3 : r.sum.st ≠ .discarded) : patchNamed s p := by
  unfold patchNamed
  rw [if_neg (by simp [h1])]
  exact ⟨r, h2, h3⟩

theorem witness_d_issues_patches : dMeets sD (.patchOpen c0 ⟨0, 6, true, 2, true, 5⟩) ∧ dMeets sD (.patchSeal c0 ⟨4, 4⟩) ∧
    dMeets sD (.patchApply c0 ⟨3, 5⟩) ∧ dMeets sD (.patchInvert c0 ⟨5, 0xFF0⟩) ∧ dMeets sD (.patchCommute c0 ⟨3, 4, true, 5⟩) ∧
    dMeets sD (.patchTransplant c0 ⟨3, 0, true, 5, 0⟩) ∧ dMeets sD (.patchSquash c0 ⟨3, 4, 5⟩) ∧ dMeets sD (.patchDiscard c0 ⟨3, 5⟩) ∧
    dMeets sD (.rayFork c0 ⟨0, 63, 5, false, 0xFFF⟩) ∧ dMeets sD (.patchQuery c0 ⟨3, 4, 5⟩) := by
  have p3 : patchNamed sD 3 := namedReg (by decide) rfl (by decide)
  have p4 : patchNamed sD 4 := namedReg (by decide) rfl (by decide)
  have p5 : patchNamed sD 5 := namedReg (by decide) rfl (by decide)
  and_intros
  all_goals
    refine ⟨_, rfl, by decide +kernel, ?_, by unfold dRoom; decide +kernel⟩
    first
      | decide +kernel
      | with_reducible exact p3
      | with_reducible exact p4
      | with_reducible exact ⟨p3, p4⟩
      | exact ⟨p5, by decide +kernel⟩
      | exact ⟨by decide +kernel, by decide +kernel, by decide +kernel, p3⟩

/-- A SYNC operation on 8 bytes at offset 8, of the handle in s0. -/
def sy : SyncF := ⟨0, 1, 1, 0, 2, 4, 3, true, false⟩

theorem witness_d_issues_units : dMeets sD (.syncAdd c0 sy) ∧ dMeets sD (.syncMax c0 sy) ∧ dMeets sD (.syncOr c0 sy) ∧
    dMeets sD (.syncCas c0 sy) ∧ dMeets sD (.syncSwap c0 sy) ∧ dMeets sD (.syncLda c0 sy) ∧ dMeets sD (.syncStl c0 sy) ∧
    dMeets sD (.qpush c0 ⟨1, 255, 2⟩) ∧ dMeets sD (.qpop c0 ⟨1, 255, 2⟩) ∧ dMeets sD (.send c0 ⟨false, 1, 1, 6⟩) ∧
    dMeets sD (.recv c0 ⟨false, 1, 1, 6, 2, 1⟩) ∧ dMeets sD (.tjoin c0 ⟨1, 5, 6, 7, 8, 9, 10, 11, 12⟩) ∧ dMeets sD (.lnch c0 ⟨255, 2⟩) := by
  and_intros
  all_goals
    refine ⟨_, rfl, ?_, ?_, by unfold dRoom; decide +kernel⟩
  all_goals
    first
      | exact trivial
      | decide +kernel
      | (unfold syncRule; decide +kernel)
      | (unfold blockOk; decide +kernel)

/-- Registers that may not be named; a token in flight; a false guard; a full channel; then the values that an operation
refuses, each at the end of its range. -/
theorem witness_d_waits :
    (∃ r, dRule sD (.qpush c0 ⟨1, 256, 2⟩) = some r ∧ ¬ r.regs) ∧
    (let s := on (fun x => { x with tk := [(1, .pending 4)] })
     ∃ r, dRule s (.syncLda c0 sy) = some r ∧ r.regs ∧ r.c.tkp.toNat ≠ 0 ∧ s.cur.tokPending r.c.tkp.toNat = true) ∧
    (∃ r, dRule sD (.syncLda { c0 with g := 16 } sy) = some r ∧ r.regs ∧ sD.cur.tokPending r.c.tkp.toNat = false ∧ sD.cur.guard r.c.g = false) ∧
    (let o : DOp := ⟨1, 0, false, 0, 0, [], none, .join, ⟨0, 0, [], []⟩, false, false, false, false, 0, 0, none, none⟩
     let s := dev x0 (fun k => { k with dops := List.replicate 32 o })
     ∃ r, dRule s (.tjoin c0 ⟨0, 0, 0, 0, 0, 0, 0, 0, 0⟩) = some r ∧ r.regs ∧ s.cur.guard r.c.g = true ∧
       32 ≤ (s.core s.foc.core).chanLoad (isDb s)) ∧
    (∃ r v, dRule s0 (.lnch c0 ⟨0xFF8, 2⟩) = some r ∧ r.regs ∧ s0.cur.tokPending r.c.tkp.toNat = false ∧ s0.cur.guard r.c.g = true ∧
      r.src = some v ∧ s0.cur.srcEmpty (s0.cur.vsrc v) = true) ∧
    (sD.cur.guard c0.g = true ∧ sD.cur.tokPending 1 = false ∧ (sD.core sD.foc.core).chanLoad (isDb sD) < 32 ∧
    2 ^ 32 ≤ ((onReg 0x100000000).cur.rd 5).toNat ∧ 2 ^ 48 ≤ ((onReg 0x1000000000000).cur.rd 5).toNat ∧
    (sD.cur.rd 1).toNat % 2 ^ 3 = 0 ∧ ((onReg 0xFFFFFFFFFFFF).cur.rd 5).toNat < 2 ^ 48 ∧ ((onReg 9).cur.rd 5).toNat % 2 ^ 3 ≠ 0 ∧
    2 ^ 12 ≤ ((onReg 0x1000).cur.rd 5).toNat ∧ sD.cur.vdst 255 = true ∧ Tab.find sD.cur.wins 15 = none ∧ pScalar 0 = false ∧
    Tab.find sD.cur.n 0 = none) ∧
    (let s := on (fun x => { x with nextA := 2 ^ 48, wins := [(2, ⟨desc1, 1, 0, 0, 0⟩)] })
     ∃ r, dRule s (.wadv c0 ⟨2, false, 1⟩) = some r ∧ r.c = c0 ∧ r.regs ∧ r.ready ∧ r.moves = true ∧ r.src = none ∧
       2 ^ 48 ≤ (if isDb s then s.cur.nextB else s.cur.nextA)) :=
  ⟨⟨_, rfl, by decide +kernel⟩, ⟨_, rfl, trivial, by decide +kernel, by decide +kernel⟩,
    ⟨_, rfl, trivial, by decide +kernel, by decide +kernel⟩, ⟨_, rfl, trivial, by decide +kernel, by decide +kernel⟩,
    ⟨_, _, rfl, by decide +kernel, by decide +kernel, by decide +kernel, rfl, by decide +kernel⟩, by decide +kernel,
    ⟨_, rfl, rfl, trivial, by decide +kernel, rfl, rfl, by decide +kernel⟩⟩

theorem witness_d_frame : (∃ r t, dRule sD (.cpy c0 ⟨1, 1, 1, 0, 1, 0, 0⟩) = some r ∧ r.regs ∧ r.ready ∧ dRoom sD r.c r.src r.moves ∧
      exec (.cpy c0 ⟨1, 1, 1, 0, 1, 0, 0⟩) sD = .next t) ∧
    (∃ r t, dRule sD (.wdef c0 ⟨15, 5⟩) = some r ∧ r.c = c0 ∧ r.regs ∧ r.ready ∧ dRoom sD c0 r.src r.moves ∧ exec (.wdef c0 ⟨15, 5⟩) sD = .next t) ∧
    (∃ r t, Tab.find sD.cur.wins 2 = some ⟨desc1, 1, 0, 0, 0⟩ ∧ dRule sD (.wadv c0 ⟨2, false, 1⟩) = some r ∧ r.ready ∧
      exec (.wadv c0 ⟨2, false, 1⟩) sD = .next t) ∧
    (∃ r t, dRule sFlue (.lnch c0 ⟨0xFF8, 2⟩) = some r ∧ r.regs ∧ dRoom sFlue r.c r.src r.moves ∧ r.src = some 0xFF8 ∧
      sFlue.cur.vsrc 0xFF8 = .flue 0 ∧ exec (.lnch c0 ⟨0xFF8, 2⟩) sFlue = .next t) ∧
    ∃ r t, dRule sD (.wrel c0 ⟨2⟩) = some r ∧ r.ready ∧ exec (.wrel c0 ⟨2⟩) sD = .next t :=
  ⟨⟨_, _, rfl, by decide +kernel, by decide +kernel, by unfold dRoom; decide +kernel, (runs (by decide +kernel)).choose_spec⟩,
    ⟨_, _, rfl, rfl, by decide +kernel, by decide +kernel, by unfold dRoom; decide +kernel, (runs (by decide +kernel)).choose_spec⟩,
    ⟨_, _, by decide +kernel, rfl, by decide +kernel, (runs (by decide +kernel)).choose_spec⟩,
    ⟨_, _, rfl, by decide +kernel, by unfold dRoom; decide +kernel, rfl, by decide +kernel, (runs (by decide +kernel)).choose_spec⟩,
    ⟨_, _, rfl, by decide +kernel, (runs (by decide +kernel)).choose_spec⟩⟩

/-! ### Witnesses: the CT slot -/

/-- A context in a loop at level 2, whose body is the bundles from 0x100 to 0x120. -/
def inLoop (lc li : BitVec 32) (f : Ctx → Ctx) : State := on (fun x => f { x with loops := [(2, ⟨lc, li, true, 0x100, 0x120⟩)] })

/-- A tree that takes its last target and one that takes none; the first and the last address, and those beyond them. -/
theorem witness_branches :
    let far := { s0 with foc := { s0.foc with pc := 2 ^ 48 - 2 } }
    (3 : BitVec 3).toNat < 6 ∧ s0.cur.guard 1 = false ∧ s0.cur.guard 0 = true ∧ s0.cur.guard 16 = false ∧
      0 ≤ ((s0.foc.pc / 16 * 16 : Nat) : Int) + 16 * (0x1F0 : BitVec 9).toInt ∧
      ((s0.foc.pc / 16 * 16 : Nat) : Int) + 16 * (0x100 : BitVec 9).toInt < 0 ∧ s0.foc.pc + 2 * (0xFFFFFFFF80 : BitVec 40).toInt = 0 ∧
      s0.foc.pc + 2 * (0xFFFFFFFF7F : BitVec 40).toInt < 0 ∧ far.foc.pc + 2 * (0 : BitVec 40).toInt < (2 : Int) ^ 48 ∧
      (2 : Int) ^ 48 ≤ far.foc.pc + 2 * (1 : BitVec 40).toInt ∧ ((onReg 0xFFFFFFFFFFFE).cur.rd 5).getLsbD 0 = false ∧
      ((onReg 1).cur.rd 5).getLsbD 0 = true ∧ (2 : Int) ^ 48 ≤ (((onReg 0x1000000000000).cur.rd 5).toNat : Int) := by decide +kernel

/-- The condition on a LOOP of a level with a body that ends at `stop` (R124). -/
def nestedIn (s : State) (lvl stop : Nat) : Prop :=
  ∀ m, m < 6 → (s.cur.loop m).active = true →
    m < lvl ∧ ((∀ n, n < 6 → (s.cur.loop n).active = true → n ≤ m) → stop ≤ (s.cur.loop m).stop)

/-- A LOOP of no iteration and one of 2^24 − 1 outside every loop, one inside a level below it, and one inside a level above. -/
theorem witness_loops :
    (5 : BitVec 3).toNat < 6 ∧ s0.cur.guard 0 = true ∧ nestedIn s0 5 0 ∧ (0 : BitVec 24).toNat = 0 ∧ (0xFFFFFF : BitVec 24).toNat ≠ 0 ∧
      nestedIn (inLoop 3 0 id) 3 (bodyBounds ((inLoop 3 0 id).imageByte 0 0) 0x106 1).2 ∧
      ¬ nestedIn (inLoop 3 0 id) 1 (bodyBounds ((inLoop 3 0 id).imageByte 0 0) 0x106 1).2 :=
  ⟨by decide, by decide +kernel, by unfold nestedIn; decide +kernel, rfl, by decide, by unfold nestedIn; decide +kernel,
    by unfold nestedIn; decide +kernel⟩

/-- A body with iterations left and one without; the same inside which a level with another end is still active; and a bundle that
is the last of no body. -/
theorem witness_body_ends :
    let inner := fun (lc li : BitVec 32) => on (fun x => { x with loops := [(2, ⟨lc, li, true, 0x100, 0x120⟩), (3, ⟨9, 1, true, 0x100, 0x110⟩)] })
    (∀ s ∈ [inLoop 3 1 id, inLoop 3 2 id, inner 3 1, inner 3 2], 2 < 6 ∧ (s.cur.loop 2).active = true ∧ (s.cur.loop 2).stop = 0x120 ∧
      ∀ m, m < 6 → 2 < m → (s.cur.loop m).active = true → (s.cur.loop m).stop ≠ 0x120) ∧
    (∀ s ∈ [inLoop 3 1 id, inner 3 1], (s.cur.loop 2).li.toNat + 1 < (s.cur.loop 2).lc.toNat) ∧
    (∀ s ∈ [inLoop 3 2 id, inner 3 2], (s.cur.loop 2).lc.toNat ≤ (s.cur.loop 2).li.toNat + 1) ∧
    ((inner 3 1).cur.loop 3).active = true ∧
    ∀ l, l < 6 → ((inner 3 1).cur.loop l).active = true → ((inner 3 1).cur.loop l).stop ≠ 0x11E := by decide +kernel

theorem witness_leave : (2 : BitVec 3).toNat < 6 ∧ (1 : BitVec 51) ≠ 0 ∧ s0.cur.guard 0 = true ∧
    ((inLoop 3 1 id).cur.loop 2).active = true ∧ ((inLoop 3 1 id).cur.loop 5).active = false := by decide +kernel

theorem witness_loop_predicates : 2 < 6 ∧ ((inLoop 3 2 id).cur.loop 2).active = true ∧
    (∀ m, m < 6 → 2 < m → ((inLoop 3 2 id).cur.loop m).active = false) ∧
    ((inLoop 3 2 id).cur.loop 2).li.toNat < ((inLoop 3 2 id).cur.loop 2).lc.toNat := by decide +kernel

/-- Every kind met and not met; a tile not assigned; a poisoned token and the fault behind it; faults without a token. -/
theorem witness_waits :
    let o : DOp := ⟨1, 0, false, 0, 0, [], some 0, .join, ⟨0, 0, [], []⟩, false, false, false, false, 0, 0, none, none⟩
    let busy := dev { x0 with tk := [(1, .pending 1)], nextA := 1 } (fun k => { k with dops := [o], mxs := [mxOpOf .mzero ⟨0, 1, 0, 1, 0, 0, 0, 0, 0, false, false, 0⟩ s0] })
    let met := dev { x0 with nextA := 3, nextB := 3, flues := [(7, [5])] } id
    let a : AFault := ⟨4, faultRec fcInvalid (some 4), 1, false⟩
    let bad := on (fun x => { x with untaken := [a], tk := [(1, .poisoned 4)] })
    let late := on (fun x => { x with untaken := [⟨3, faultRec fcMemory none, 0, true⟩, ⟨5, faultRec fcMemory (some 3), 0, true⟩, a], loose := [4] })
    s0.cur.guard 0 = true ∧ (∀ k, k < 6 → waitFault met.cur k 4 = none ∧ waitFault busy.cur k 4 = none) ∧
      Tab.find busy.cur.tk 1 = some (.pending 1) ∧ Tab.find met.cur.tk 1 = none ∧
      (met.cur.rd 4).toNat % 2 ^ 48 < (met.core 0).xdone 0 false ∧ (met.cur.rd 4).toNat % 2 ^ 48 < (met.core 0).xdone 0 true ∧
      (busy.core 0).xdone 0 false ≤ (busy.cur.rd 4).toNat % 2 ^ 48 ∧ met.cur.flue 7 ≠ [] ∧ busy.cur.flue 7 = [] ∧
      met.cur.hasTile 1 = true ∧ (met.core 0).mxs = [] ∧ (∃ p ∈ (busy.core 0).mxs, 1 ∈ p.tiles) ∧ (met.core 0).dops = [] ∧
      (∃ p ∈ (busy.core 0).dops, p.ctx = 0) ∧ (on (fun x => { x with tiles := 0 })).cur.hasTile 15 = false ∧
      Tab.find bad.cur.tk 1 = some (.poisoned 4) ∧ bad.cur.untaken.find? (fun u => decide (u.id = 4)) = some a ∧
      firstUntaken bad.cur.untaken = some a ∧
      firstUntaken (bad.cur.untaken.filter bad.cur.carries) = some a ∧
      (∀ u ∈ late.cur.untaken, u.bare = true ∨ (u.id ∈ late.cur.loose ∧ late.cur.tk = [])) ∧ a ∈ bad.cur.untaken ∧ ∀ b ∈ bad.cur.untaken, a.id ≤ b.id := by decide +kernel

/-- A fence met and not met; the barrier slots of a cluster and of a die: owned by the launch and by no one, an arrival that
is counted, the last arrival, a wait that ends and one that does not. -/
theorem witness_fences_and_barriers :
    let o : DOp := ⟨1, 0, false, 0, 0, [], some 0, .release 2 [], ⟨0, 0, [], []⟩, false, false, false, false, 0, 0, none, none⟩
    let busy := dev x0 (fun k => { k with dops := [o] })
    let far := dev x0 (fun k => { k with dops := [{ o with started := true, remote := true, performed := true }] })
    let bar := fun (arrived : Nat) (phase : Bool) (b : List BarPend) =>
      { on (fun x => { x with bars := b }) with dies := [(0, { Die.reset with bars := [(7, ⟨1, 4, arrived, phase⟩)] })] }
    s0.cur.guard 0 = true ∧ (∀ o ∈ (s0.core 0).dops, o.ctx = 0 → o.kind = .join) ∧ s0.cur.stores = 0 ∧ (on (fun x => { x with stores := 3 })).cur.stores ≠ 0 ∧
      (∃ p ∈ (busy.core 0).dops, p.ctx = 0 ∧ p.kind ≠ .join ∧ p.performed = false) ∧
      (∃ p ∈ (far.core 0).dops, p.ctx = 0 ∧ p.kind ≠ .join ∧ p.performed = true) ∧ (2 : BitVec 3) = 2 ∧ (7 : BitVec 4).toNat < 8 ∧ (2 : BitVec 2).toNat < 3 ∧
      ((bar 3 true []).cur.launch ≠ 0 ∧ ((bar 3 true []).barSlot 0 true 7).owner = (bar 3 true []).cur.launch) ∧
      ¬ (s0.cur.launch ≠ 0 ∧ (s0.barSlot 0 true 7).owner = s0.cur.launch) ∧
      ((bar 3 true [⟨true, 7, true⟩]).cur.barPend true 7).isSome = true ∧ (bar 3 true []).cur.barPend true 7 = none ∧
      ((bar 3 true []).core 0).quietMem 0 3 = true ∧ ((bar 3 true []).barSlot 0 true 7).arrived + 1 = ((bar 3 true []).barSlot 0 true 7).count ∧
      ((bar 2 true []).barSlot 0 true 7).arrived + 1 ≠ ((bar 2 true []).barSlot 0 true 7).count ∧
      ((bar 0 false [⟨true, 7, true⟩]).barSlot 0 true 7).phase ≠ true ∧ ((bar 3 true [⟨true, 7, true⟩]).barSlot 0 true 7).phase = true := by
  decide +kernel

theorem witness_traps_and_halt : s0.cur.guard 0 = true ∧ s0.cur.guard 16 = false ∧ s0.cur.untaken = [] := by decide +kernel

/-- A raster launch of 4 by 4 tiles at its last step, and with none left; the same dispatched by another die, whose only die it is;
a launch of two dies, with its block at its first step, empty, and empty at the end; an ESTIMATE launch. -/
theorem witness_launch_services :
    let s := fun (b : List Byte) (n : Nat) => { s0 with launches := [(1, launchOf b n)] }
    let raster := recordOf 1 [4, 4, 1]
    let away := fun (n : Nat) => { launchOf raster n with die := 1 }
    let wide := fun (a b : Nat) => { launchOf (raster.set 20 1) 16 with die := 1, blocks := [(0, (a, b))] }
    let with_ := fun (v : Launch) => { s0 with launches := [(1, v)] }
    (∀ n ∈ [15, 16], (with_ (away n)).launchOf s0.cur = some (away n) ∧ (away n).die ≠ dieOf s0.foc.core ∧ (recDies (away n).bytes).length = 1 ∧
      (away n).est.stopped = false ∧ recKind (away n).bytes = 1) ∧
    (∀ q ∈ [(15, 16), (5, 5), (16, 16)], (with_ (wide q.1 q.2)).launchOf s0.cur = some (wide q.1 q.2) ∧ (wide q.1 q.2).die ≠ dieOf s0.foc.core ∧
      (recDies (wide q.1 q.2).bytes).length ≠ 1 ∧ dieOf s0.foc.core ∉ (wide q.1 q.2).stops ∧ recKind (wide q.1 q.2).bytes = 1 ∧
      Tab.find (wide q.1 q.2).blocks (dieOf s0.foc.core) = some q ∧ recSteps (wide q.1 q.2).bytes = 16) ∧
    s0.cur.guard 0 = true ∧ s0.cur.guard 16 = false ∧ s0.cur.nxt.length < 2 ∧ (s raster 15).launchOf s0.cur = some (launchOf raster 15) ∧
      recKind raster = 1 ∧ (launchOf raster 15).die = dieOf s0.foc.core ∧ (launchOf raster 15).est.stopped = false ∧
      (launchOf raster 15).step < recSteps raster ∧ recSteps raster = 16 ∧
      2 ≤ (on (fun x => { x with nxt := [⟨false, 1, 0, 0, 0, 0⟩, ⟨true, 2, 0, 0, 0, 0⟩] })).cur.nxt.length ∧
      (s (recordOf 3 []) 0).launchOf s0.cur = some (launchOf (recordOf 3 []) 0) ∧ recKind (recordOf 3 []) = 3 ∧ recKind raster ≠ 3 := by
  decide +kernel

/-! ### Witnesses: the CF slot, address registers and faults -/

/-- The values at the ends of the ranges that the CF operations take, and those beyond them. -/
theorem witness_configuration : (3 : Word).toNat ≤ 3 ∧ 3 < (4 : Word).toNat ∧ (0xFFFF : Word).toNat < 2 ^ 16 ∧ 2 ^ 16 ≤ (0x10000 : Word).toNat ∧
    s0.cur.vdst 255 = true ∧ s0.cur.vdst 256 = false ∧ shapeBad shape1 = false ∧ shSstr shape1 % 16 = 0 ∧ shDstr shape1 % 16 = 0 ∧
    shapeBad 0 = true ∧ shapeBad (shape1 + 8#128 <<< 96) = false ∧ shDstr (shape1 + 8#128 <<< 96) % 16 ≠ 0 ∧
    (0xFFFFFFFFFFFF : Word).toNat < 2 ^ 48 ∧ cpatBad 0 = false ∧ cpatBad 0xFFFFFFFFFFFF = true ∧ 2 ^ 48 ≤ (0x1000000000000 : Word).toNat ∧
    (0xFFFFFF : Word).toNat < 2 ^ 24 ∧ 2 ^ 24 ≤ (0x1000000 : Word).toNat ∧ (0x180 : BitVec 9).toNat % 256 ≤ 128 ∧
    (0x180 : Word).toNat < 2 ^ 9 ∧ 128 < (0x81 : Word).toNat % 256 ∧ 2 ^ 9 ≤ (0x200 : Word).toNat ∧ (s0.core 0).sigBusy 0 = false ∧
    ((dev x0 (fun k => { k with mxs := [mxOpOf .sigFold ⟨0, 1, 0, 1, 0, 0, 0, 0, 0, false, false, 0⟩ s0] })).core 0).sigBusy 0 = true := by
  decide +kernel

/-- Whether an outcome is a next state that has the property. -/
def nextIs (o : Host.Outcome State Fault Refusal) (p : State → Bool) : Bool :=
  match o with
  | .next t => p t
  | _ => false

/-- The first and the last token of a mask, and one that it does not hold. -/
theorem witness_tkclr : 1 ≤ 1 ∧ 15 ≤ 15 ∧ (0x4001 : BitVec 15).getLsbD (1 - 1) = true ∧ (0x4001 : BitVec 15).getLsbD (15 - 1) = true ∧
    (0x4001 : BitVec 15).getLsbD (2 - 1) = false ∧ Tab.find (on (fun x => { x with tk := [(15, .pending 4)] })).cur.tk 15 = some (.pending 4) ∧
    (let s := dev { x0 with tk := [(15, .pending 4)] } (fun k => { k with dops := [⟨4, 0, false, 0, 15, [], some 0, .join, ⟨0, 0, [], []⟩, false, false, false, false, 0, 0, none, none⟩] })
     (s.core 0).inFlight 4 = true ∧ nextIs (exec (.tkclr 0x4000) s) (fun t => t.cur.loose = [4] ∧ t.cur.tk = [])) ∧
    (let s := on (fun x => { x with tk := [(1, .poisoned 4)], untaken := [⟨4, faultRec fcInvalid (some 4), 1, false⟩] })
     nextIs (exec (.tkclr 1) s) (fun t => t.cur.loose = [4] ∧ waitFault t.cur 5 0 = none)) := by
  decide +kernel

theorem witness_address_registers : 5 < 6 ∧ 15 ≠ 0 := by decide

/-- A fault with a slot and one without; contexts that are faulted, faulted after a HALT, and ready. -/
theorem witness_faults : (faultRec 255 (some 7)).code < 256 ∧ 15 < 16 ∧ (∀ k, (faultRec 255 (some 7)).slot = some k → k < 8) ∧
    (faultRec 255 none).slot = none ∧ (s0.core 0).running = some 0 ∧
    (let y := (on (fun x => { x with st := .faulted, fr := [(0, 0x10), (1, 0x200)] })).ctx 0 0
     y.st = .faulted ∧ y.afterHalt = false ∧ (Tab.get y.fr 0 0).toNat % 256 ≠ 0x05) ∧
    (let y := (on (fun x => { x with st := .faulted, fr := [(0, 0x805), (1, 0x200)] })).ctx 0 0
     y.st = .faulted ∧ y.afterHalt = false ∧ (Tab.get y.fr 0 0).toNat % 256 = 0x05) ∧
    (let y := (on (fun x => { x with st := .faulted, afterHalt := true })).ctx 0 0
     y.st = .faulted ∧ y.afterHalt = true ∧ (y.firmware ⟨[], [], [], [], []⟩).untaken = []) ∧ (s0.ctx 0 0).st ≠ .faulted := by
  refine ⟨by decide, by decide, fun k h => ?_, rfl, ?_⟩
  · cases h; decide
  · decide +kernel

/-- Three ready contexts, one of them marked, and an idle core; no ready context; a run at RB, and one at QB. -/
theorem witness_core_schedules :
    (let a : Nat × Ctx := (1, { x0 with marked := true })
     let s := { s0 with cores := [(0, { Core.reset with ctxs := [(0, x0), a, (2, { x0 with lastRun := 3 })] })] }
     (s.core 0).running = none ∧ a ∈ (s.core 0).ctxs ∧ a.2.st = .ready ∧ a.2.fills = [] ∧ s.rolling a.2 = false ∧
       ∀ q ∈ (s.core 0).ctxs, q.2.st = .ready → q.2.fills = [] → s.rolling q.2 = false → q ≠ a → goesFirst s a q) ∧
    ((s0.core 0).running.isSome = true ∧ (s0.core 0).busy = 0) ∧
    (let s := { s0 with cores := [(0, { Core.reset with ctxs := [(0, { x0 with fills := [1] })] })] }
     ∀ q ∈ (s.core 0).ctxs, q.2.st ≠ .ready ∨ q.2.fills ≠ [] ∨ s.rolling q.2 = true) ∧
    (let s := dev { x0 with runCount := 4000, quietCount := 999 } (fun k => { k with runOn := true })
     (s.core 0).runOn = true ∧ s.cur.rb.toNat ≤ s.cur.runCount ∧ s.cur.quietCount < s.cur.qb.toNat) ∧
    (on (fun x => { x with quietCount := 1000 })).cur.qb.toNat ≤ (on (fun x => { x with quietCount := 1000 })).cur.quietCount := by
  refine ⟨by unfold goesFirst; decide +kernel, by decide +kernel⟩

/-! ### Witnesses: floating-point values -/

/-- In FP32: 1 and −1, the zeros, a signalling NaN, the infinities; 1 + 2^−9 between two neighbours of BF16, and 2^16 beyond the
largest FP16. -/
theorem witness_float_values :
    (fp32 ∈ [fp32, fp64, fp16, bf16] ∧ isNanRaw fp32 0x7F800001 = true ∧ isNanRaw fp32 0x3F800000 = false ∧ isNanRaw fp32 0x7F800000 = false) ∧
    (bitsIn fp32 0x7F800001 ∧ finiteBits fp32 0x3F800000 ∧ finiteBits fp32 0xBF800000 ∧ finiteBits fp32 0 ∧ finiteBits fp32 0x80000000 ∧
      infinite fp32 0xFF800000 ∧ infinite fp32 0x7F800000) ∧
    (isNanRaw fp32 0xFF800000 = false ∧ isNanRaw fp32 0 = false ∧ isNanRaw fp32 0xBF800000 = false) ∧
    (ratOf fp32 0x3F800000 = 1 ∧ ratOf fp32 0xBF800000 = -1 ∧ ratOf fp32 0x80000000 = 0) ∧
    (vlane (vecOfLanes (fun _ => 0x3F804000)) 127 = 0x3F804000 ∧ vlane (vecOfLanes (fun _ => 0x47800000)) 0 = 0x47800000 ∧
      0x3F80 < SrTarget.bf16.maxCode ∧ SrTarget.fp16.maxCode = 0x7BFF) ∧
    finiteBits fp32 0x3F804000 ∧ finiteBits fp32 0x47800000 ∧
    ratOf bf16 0x3F80 ≤ |ratOf fp32 0x3F804000| ∧ |ratOf fp32 0x3F804000| < ratOf bf16 0x3F81 ∧
    ratOf fp16 0x7BFF ≤ |ratOf fp32 0x47800000| := by
  refine ⟨by decide +kernel, ?_, by decide +kernel, ?_, by decide +kernel, ?_, ?_, ?_, ?_, ?_⟩
  · unfold finiteBits infinite bitsIn; decide +kernel
  · norm_num [ratOf, fp32, Ffmt.bias, Nat.testBit, Nat.shiftRight_eq_div_pow]
  · unfold finiteBits bitsIn; decide +kernel
  · unfold finiteBits bitsIn; decide +kernel
  all_goals norm_num [ratOf, fp32, bf16, fp16, Ffmt.bias, Nat.testBit, Nat.shiftRight_eq_div_pow]

/-! ### Witnesses: engines and copies -/

/-- An operation that has started; one that enters the replay queue of a migrating handle; a handle that does not exist; a
RECV; a poison; a join; an access acknowledged; names to give. -/
theorem witness_engine_starts :
    let c := opNew (.copy (.ten ⟨6, 0⟩ 0 0) (.spl 0 false))
    let b := opNew (.sync 0x13 5 8 8 true false 4 1 0 2 [])
    let r := opNew (.recv false 0 1 2 0 0)
    let a : AFault := ⟨4, faultRec fcInvalid none, 2, false⟩
    let q := { opNew .join with poison := some a }
    let w := { op (.copy (.ten ⟨6, 0⟩ 0 0) (.spl 0 false)) with remote := true, performed := true }
    ((ops [op .join]).core 0).dops[0]? = some (op .join) ∧ (op .join).started = true ∧
      ((ops [c]).core 0).dops[0]? = some c ∧ c.started = false ∧ c.waits = [] ∧ c.poison = none ∧ (ops [c]).opUnits 0 c ≠ [] ∧
      (∀ u ∈ (ops [c]).opUnits 0 c, u.1 = 6 ∧ (((ops [c]).handle 1 6).locOf u.2).node = (ops [c]).node) ∧
      (let s := busyWith x0 { proc1 with handles := [(6, { tensor1 with place := ⟨5, [], 0, []⟩ })] } [c]
       ∃ u ∈ s.opUnits 0 c, ((s.handle 1 u.1).locOf u.2).node ≠ s.node) ∧
      (ops [c]).target 0 c = some (6, clTensor, 0) ∧ (ops [c]).lookup 1 6 clTensor = .wait ∧ (ops [c]).procOf ((ops [c]).ctx 0 0) = 1 ∧
      ((ops [b]).ctx 0 0).st ≠ .halted ∧ (ops [b]).target 0 b = some (5, clSync, 8) ∧ (ops [b]).lookup 1 5 clSync = .bad fcInvalid ∧
      linkBlocked ((ops [r]).core 0) 0 r = false ∧ ((ops [r]).proc 1).chan 1 2 = some ⟨1, 2, [], [], [], ⟨0, 0, 0⟩, 0⟩ ∧
      q.poison = some a ∧ a.id ≠ q.id ∧ q.tkp ≠ 0 ∧
      (let s := busyWith { x0 with untaken := [a] } proc1 [q]
       a ∈ (s.ctx 0 0).untaken ∧ Tab.find (s.ctx 0 0).tk q.tkp = some (.pending q.id)) ∧
      (op .join).kind = .join ∧ (op .join).poison = none ∧ ((ops [op .join]).ctx 0 0).untaken = [] ∧ w.performed = true ∧ (op .join).performed = false ∧
      ((ops []).proc 1).alive = true ∧ ((ops []).namesTaken 1).length + 1 < 2 ^ 24 := by decide +kernel

theorem witness_copies_complete :
    let o := op (.copy (.spl 0x800 false) (.spl 0x1000 false))
    let g := op (.gath 1 2 8 0 false)
    memoriesOk (ops [o]) ∧ engineAt (ops [o]) 0 0 o ∧ (ops [o]).srcTen 0 o (.spl 0x800 false) 0 = .ok (some none) ∧
      (match srcRows (ops [o]) 0 o (.spl 0x800 false) none 1 with | .ok r => decide (r.length = 1) | .error _ => false) = true ∧
      shRows o.smp.shape = 1 ∧ shRowb o.smp.shape = 512 ∧ bankFmt o.smp.bfmt (bankOf 0x800) = (.fp32, false) ∧
      bankFmt o.smp.bfmt (bankOf 0x1000) = (.fp32, false) ∧ Sfmt.fp32.bits * (8 * 512 / Sfmt.fp32.bits) = 8 * 512 ∧
      engineAt (ops [g]) 0 0 g := by unfold memoriesOk engineAt intact; decide +kernel

/-- A stream with its last vector to come; one whose flue is full. -/
theorem witness_streams :
    let o := op (.strm (.spl 0x800 false) 7 0)
    let full := busyWith { x0 with flues := [(7, [1, 2, 3, 4])] } proc1 [o]
    engineAt (ops [o]) 0 0 o ∧ engineAt full 0 0 o ∧ memoriesOk (ops [o]) ∧ strmBlocked ((ops [o]).core 0) 0 o 7 = false ∧ (((ops [o]).ctx 0 0).flue 7).length < 4 ∧
      shRowb o.smp.shape % 512 = 0 ∧ 0 < shRows o.smp.shape * (shRowb o.smp.shape / 512) ∧ shVfmt o.smp.shape = 0 ∧
      (∀ r, r < shRows o.smp.shape → bankFmt o.smp.bfmt (bankOf ((0x800 : Int) + r * shSstr o.smp.shape).toNat) = (.fp32, false)) ∧
      0 + 1 = shRows o.smp.shape * (shRowb o.smp.shape / 512) ∧ 4 ≤ ((full.ctx 0 0).flue 7).length ∧
      (full.ctx 0 0).st = .ready := by
  refine ⟨?_, ?_, by unfold memoriesOk; decide +kernel⟩ <;> (unfold engineAt intact; decide +kernel)

/-- A stream of a row of two vectors: before its first vector, and with the row that it keeps before its second. -/
theorem witness_streams_keep_rows :
    let two : Sample := ⟨0x00000200000002000000000004000001, 0, [], []⟩
    let o := { op (.strm (.spl 0x800 false) 7 0) with smp := two }
    let p := { op (.strm (.spl 0x800 false) 7 1) with smp := two, line := some (0, List.replicate 256 7) }
    (shRowb two.shape = 1024 ∧ shRows two.shape = 1 ∧ 0 + 1 < 1 * (1024 / 512) ∧ o.line = none ∧ p.line = some (1 / 2, List.replicate 256 7) ∧
      strmBlocked ((ops [p]).core 0) 0 p 7 = false ∧ shVfmt two.shape = 0) ∧
    engineAt (ops [o]) 0 0 o ∧ engineAt (ops [p]) 0 0 p := by
  refine ⟨by decide +kernel, by unfold engineAt intact; decide +kernel, by unfold engineAt intact; decide +kernel⟩

/-- A ring of cores 0 and 1 that may move, and one that waits for core 1. -/
def ringOf (both : Bool) : State :=
  let o := fun (a b : Nat) => op (.ring 3 0 a b false)
  let core := fun (l : List DOp) => { Core.reset with ctxs := [(0, { x0 with tk := [(1, .pending 9)] })], dops := l }
  { ops [] with cores := [(0, core [o 0 0x100000]), (1, core (if both then [o 0x101000 0x1000] else []))] }

theorem witness_ring_shifts :
    memoriesOk (ringOf true) ∧ intact (ringOf true) ∧ (op (.ring 3 0 0x101000 0x1000 false)).remote = false ∧ ((ringOf true).core 0).dops[0]? = some (op (.ring 3 0 0 0x100000 false)) ∧
      (∀ q, q < 8 → 3 / 2 ^ (q % 8) % 2 = 1 → (((ringOf true).core q).ringAt 1 3 0).isSome = true) ∧
      ((ringOf true).ctx 0 0).launch = 1 ∧ shRows shape1 = 1 ∧ shRowb shape1 = 512 ∧ 0x100000 + 512 ≤ 0x100200 ∧
      ((ringOf true).core 0).ringAt 1 3 0 = some (0, op (.ring 3 0 0 0x100000 false)) ∧ ((ringOf true).core 0).ringAt 2 3 0 = none ∧
      ((ringOf true).core 1).ringAt 1 3 0 = some (0, op (.ring 3 0 0x101000 0x1000 false)) ∧ 0x1000 + 512 ≤ 0x100000 ∧
      ((ringOf false).core 1).ringAt 1 3 0 = none := by unfold memoriesOk intact; decide +kernel

theorem witness_window_rows :
    let o := op (.fetch 2 0 1 desc1)
    let r := op (.release 2 [8])
    memoriesOk (ops [o]) ∧ engineAt (ops [o]) 0 0 o ∧ winBlocked ((ops [o]).core 0) 0 2 desc1 0 = false ∧
      (let s := busyWith x0 { proc1 with handles := [(1, { tensor1 with rays := [(0, { Ray.reset with alive := true })] })] } [o]
       let h := s.handle 1 1
       engineAt s 0 0 o ∧ s.lookup 1 (wHandle desc1) clTensor = .ok h ∧ (h.ray (wRay desc1)).alive = true ∧ (h.ray (wRay desc1)).recs = [] ∧
       h.poison = [] ∧ 0 ≤ wInt desc1 2 + 0 * wInt desc1 8 ∧ wInt desc1 2 + 0 * wInt desc1 8 < h.rows ∧ 0 ≤ wInt desc1 3 ∧
       wInt desc1 3 + wElems desc1 ≤ h.cols ∧ h.scl = false ∧ h.sfmt.bits % 8 = 0 ∧
       bankFmt o.smp.bfmt (bankOf (wBase desc1 + 0 % wDepth desc1 * wPitch desc1)) = (h.sfmt, false)) ∧
      engineAt (ops [r]) 0 0 r ∧ ((ops [r]).core 0).inFlight 8 = false ∧ ((ops [r, { op .join with id := 8 }]).core 0).inFlight 8 = true := by
  refine ⟨by unfold memoriesOk; decide +kernel, by unfold engineAt intact; decide +kernel, by decide +kernel,
    by unfold engineAt intact; decide +kernel, by unfold engineAt intact; decide +kernel⟩

theorem witness_scatters_add : let o := op (.scat 1 2 8 0 false 0 3)
    memoriesOk (ops [o]) ∧ engineAt (ops [o]) 0 0 o ∧ (vtOfCode (BitVec.ofNat 3 3)).isF = false ∧ 0x5FFFC % 4 = 0 % 4 := by
  unfold memoriesOk engineAt intact; decide +kernel

/-! ### Witnesses: cells, hosts, the patch engine and queues -/

/-- A cell free to step, an operation that waits for an earlier access, and a range that leaves the region. -/
theorem witness_cells_step :
    let o := op (.sync 0x16 2 4088 8 true true 4 1 2 3 [])
    let w := op (.sync 0x19 2 8 8 true false 4 1 2 0 [8])
    let e := op (.sync 0x13 2 4096 1 false false 0 1 2 0 [])
    memoriesOk (ops [o]) ∧ engineAt (ops [o]) 0 0 o ∧ (ops [o]).lookup 1 2 clSync = .ok (Handle.region clSync 4096) ∧
      o.bound = 0 ∧ cellBlocked ((ops [o]).core 0) 0 o 2 4088 = false ∧
      4088 + 8 ≤ (Handle.region clSync 4096).len ∧ ((ops [w, { op .join with id := 8 }]).core 0).unseen 4 8 = true ∧
      engineAt (ops [w, { op .join with id := 8 }]) 0 0 w ∧ engineAt (ops [e]) 0 0 e ∧ (Handle.region clSync 4096).len < 4096 + 1 ∧
      ((ops [e]).ctx 0 0).st ≠ .halted := by unfold memoriesOk engineAt intact; decide +kernel

/-- A host's access to its cells: allowed at the last cell, out of its region, refused by the lookup, not the host's, of process 0
without one of its handles, and held; another device's on cells. -/
theorem witness_cells_of_hosts :
    let h := { Handle.region clSync 4096 with host := some 63 }
    let away := { h with st := .migrating, plan := some ⟨0, [(3, 1)], 0, []⟩ }
    let s := { ops [] with procs := [(1, { proc1 with handles := [(2, h), (3, Handle.region clQbody 4096), (4, tensor1), (6, away)] })] }
    let a : HostAccess := ⟨63, 1, 2, 4088⟩
    let b : HostAccess := ⟨63, 1, 6, 4088⟩
    memoriesOk s ∧ intact s ∧ s.noneHeld 1 2 = true ∧ hostMay { a with host := 62 } h 8 = false ∧ (0x1000001 : BitVec 32).toNat > 3 ∧
      (s.lookup 1 6 clSync = .wait ∧ s.noneHeld 1 6 = true ∧ hostMay b (s.handle 1 6) 8 = true ∧
        (s.replay ((s.handle 1 6).locOf (4088 / 2 ^ 21)).stack).length < 4096) ∧
      s.portsUp 1 = true ∧ a.host < 64 ∧ s.lookup 1 2 clSync = .ok h ∧ hostMay a h 8 = true ∧ 4088 % 8 = 0 ∧
      4088 + 8 ≤ h.len ∧ h.len < 4096 + 8 ∧ 4092 % 8 ≠ 0 ∧ s.lookup 1 9 (s.handle 1 (hIndex 9)).cls = .bad fcInvalid ∧ 1023 < 1024 ∧
      1023 ≠ s.node := by unfold memoriesOk intact; decide +kernel

/-- Another device's accesses: a write to a queue and to a save area; a read of a region of each class, of code in a mapped page too;
an element of a ray without records, and of one whose only record adds INT32 and may be read there; a write of an element. -/
theorem witness_cells_of_devices :
    let q : Patch := { patch1 with isAdd := true, dfmt := 6, scope := 4, vals := [(127, 5)] }
    let bare := { tensor1 with rays := [(0, { ray0 with recs := [] })] }
    let int := { tensor1 with fmt := 6, base := [(127, 0x80000000)] }
    let s := { ops [] with procs := [(1, { proc1 with handles := proc1.handles ++ [(5, Handle.region clList 4096), (9, bare), (10, int)], patches := [(7, q)] })] }
    let who : FarCtx := ⟨3, 127, 7⟩
    memoriesOk s ∧ intact s ∧ s.portsUp 1 = true ∧ 1023 < 1024 ∧ 1023 ≠ s.node ∧ (∀ i ∈ [2, 3, 4, 5, 8, 9, 10], s.noneHeld 1 i = true) ∧
      (∀ c ∈ [(3, clQbody), (2, clSync), (8, clSave), (5, clList)], s.lookup 1 c.1 c.2 = .ok (Handle.region c.2 4096) ∧
        4096 - 8 + [1, 2, 3, 4, 5, 6, 7, 8].length ≤ (Handle.region c.2 4096).len) ∧
      (s.lookup 1 4 clCode = .ok (s.handle 1 4) ∧ 1024 + 1024 ≤ (s.handle 1 4).len ∧ ∀ k, k < 1024 → (1024 + k) / 1024 ∈ (s.handle 1 4).present) ∧
      (∀ c ∈ [(9, bare), (10, int)], s.lookup 1 c.1 clTensor = .ok c.2 ∧ (c.2.ray 0).alive = true ∧ 0 ≤ (3 : Int) ∧ (3 : Int) < c.2.rows ∧
        (31 : Int) < c.2.cols ∧ c.2.poison = [] ∧ Tab.wf c.2.base = true) ∧
      (bare.ray 0).recs = [] ∧ Tab.get bare.base 127 0 < 2 ^ 64 ∧ (int.ray 0).recs = [7] ∧ (s.proc 1).patch 7 = some q ∧
      q.visible (farReader 1023 who) = true ∧ q.isAdd = true ∧ q.bad = [] ∧ int.sfmt = .int32 ∧ q.dfmt = 6 ∧
      Tab.find q.vals (3 * int.cols + 31) = some 5 := by unfold memoriesOk intact; decide +kernel

/-- Spans of 8, of 12 and of 256 bytes at the end of a region, one that leaves its slot, a region that is not the host's, and one
that migrates. -/
theorem witness_host_spans :
    let h := { Handle.region clQbody 4096 with host := some 63 }
    let s := { ops [] with procs := [(1, { proc1 with handles := [(3, h), (6, { h with st := .migrating })] })] }
    let a := fun (host off : Nat) => (⟨host, 1, 3, off⟩ : HostAccess)
    memoriesOk s ∧ intact s ∧ s.noneHeld 1 3 = true ∧ s.noneHeld 1 6 = true ∧
      (s.lookup 1 6 clQbody = .wait ∧ hostMay ⟨63, 1, 6, 3840⟩ (s.handle 1 6) 256 = true ∧
        (s.replay ((s.handle 1 6).locOf (3840 / 2 ^ 21)).stack).length < 4096) ∧ s.portsUp 1 = true ∧ s.lookup 1 3 clQbody = .ok h ∧ hostMay (a 63 3840) h 256 = true ∧
      (8 ≤ 256 ∧ 256 ≤ 256 ∧ 3840 % 8 = 0 ∧ 3840 + 256 ≤ h.len) ∧ (8 ≤ 12 ∧ 4080 + 12 ≤ h.len) ∧ 3840 / 256 = (3840 + 256 - 1) / 256 ∧
      (8 ≤ 8 ∧ 4088 % 8 = 0 ∧ 4088 + 8 ≤ h.len) ∧ 248 / 256 ≠ (248 + 16 - 1) / 256 ∧ ¬ 4096 + 8 ≤ h.len ∧ s.lookup 1 3 h.cls = .ok h ∧
      hostMay (a 62 0) h 8 = false := by unfold memoriesOk intact; decide +kernel

/-- An operation of the patch engine whose turn has come. -/
theorem turn {s : State} {o : DOp} {p : PatchOp} {st : Nat} (h1 : engineAt s 0 0 o) (h2 : o.kind = .patch p st) (h3 : o.bound = 0)
    (h4 : patchBlocked (s.core 0) 0 o = false) (h5 : ∀ a scope after, p = .seal a scope after → after = []) : patchAt s 0 0 o p st :=
  ⟨h1, h2, h3, h4, fun a scope after e j hj => by rw [h5 a scope after e] at hj; cases hj⟩

/-- Process 1 with the given patches and rays. -/
def withPatches (ps : Tab Patch) (rays : Tab Ray) (p : PatchOp) : State :=
  busyWith x0 { proc1 with handles := [(1, { tensor1 with rays := rays })], patches := ps } [op (.patch p 5)]
def arg (n : Nat) : PArg := ⟨n, none⟩

theorem patch_turn (ps : Tab Patch) (rays : Tab Ray) (p : PatchOp) (h : ∀ a scope after, p = .seal a scope after → after = []) :
    patchAt (withPatches ps rays p) 0 0 (op (.patch p 5)) p 5 :=
  turn ⟨by simp [withPatches, busyWith, dev, State.core, Tab.get], rfl, rfl, ⟨rfl, rfl⟩, rfl⟩ rfl rfl rfl h

/-- An OPEN; a SEAL of an opened record; a DISCARD and an INVERT of a record that no other ray holds, and of one that another holds. -/
theorem witness_patch_records :
    (let s := withPatches [(7, patch1)] [(0, ray0)] (.openRec 12 3 ⟨1, 0⟩ false 0 true)
     s.procOf (s.ctx 0 0) = 1 ∧ s.lookup 1 1 clTensor = .ok (s.handle 1 1) ∧ ((s.handle 1 1).ray 0).alive = true ∧
       (s.proc 1).patches.length < 2 ^ 24 - 1) ∧
    (let q := { patch1 with st := .opened }
     let s := withPatches [(7, q)] [(0, ray0)] (.seal (arg 7) 4 [])
     (s.proc 1).patch 7 = some q ∧ q.ownedBy (s.reader 0 0) = true ∧ s.lookup 1 q.homeWord clTensor = .ok (s.handle 1 1)) ∧
    (∀ op ∈ [PatchOp.discard (arg 7), .invert (arg 7)],
     let s := withPatches [(7, patch1)] [(0, ray0)] op
     (s.proc 1).patch 7 = some patch1 ∧ patch1.st = .sealed ∧ patch1.home < 2 ^ 24 ∧
       s.lookup 1 patch1.homeWord clTensor = .ok (s.handle 1 1) ∧ s.refs 1 7 patch1 = 0 ∧ Tab.wf (s.proc 1).patches = true) ∧
    (withPatches [(7, patch1)] [(0, ray0), (1, ray0)] (.discard (arg 7))).refs 1 7 patch1 ≠ 0 ∧
    (let q := { patch1 with st := .applied }
     let s := withPatches [(7, q)] [(0, ray0)] (.apply (arg 7))
     (s.proc 1).patch 7 = some q ∧ s.lookup 1 q.homeWord clTensor = .ok (s.handle 1 1)) := by decide +kernel

/-- A STOW of one row of the scratchpad, of the tensor's format and of another, into the granule that its record covers. -/
def stowing (add : Bool) : Patch := { patch1 with st := .opened, isAdd := add, dfmt := if add then 6 else 0 }
def stowOp : PatchOp := .stow (arg 7) (.spl 0x800 false) 3 0

theorem witness_patch_stows : ∀ add : Bool,
    let q := stowing add
    let s := withPatches [(7, q)] [(0, ray0)] stowOp
    let h := s.handle 1 1
    ((s.core 0).dops = [op (.patch stowOp 5)] ∧ (s.proc 1).patch 7 = some q ∧ q.st = .opened ∧ q.ownedBy (s.reader 0 0) = true ∧
      s.lookup 1 q.homeWord clTensor = .ok h ∧ (Sfmt.ofCode q.dfmt).isSome = true ∧ (s.ctx 0 0).st ≠ .halted) ∧
    (sideFmt (op .join).smp (.spl 0x800 false) (shSstr shape1) 0 = (.fp32, false) ∧ shRows shape1 = 1 ∧ (op .join).smp.shape = shape1 ∧
      elemsIn .fp32 (shRowb shape1) = 128 ∧ stowTensor (h.sfmt, h.scl) [128] (shRowb shape1) 0 = none ∧ h.inside 3 31 = true ∧
      h.inside 3 32 = false ∧ (∀ j : Nat, j < 32 → h.granule 5 = h.granule (h.elem 3 j)) ∧ q.vals = [(5, 99)] ∧ s.fits = true ∧
      Tab.wf s.procs = true ∧ Tab.wf (s.proc 1).patches = true) := by
  intro add
  refine ⟨?_, ?_⟩ <;> (revert add; decide +kernel)

/-- A STOW of the VRF, of a peer and of a row that holds indices, into a tensor without a scale plane and into one of E4M3 that has
one: FP32 128 elements wide, and E4M3 and E5M2 with indices in a bank. -/
def scaled1 : Handle := { tensor1 with fmt := 3, scl := true, cols := 128 }
def stowFrom (src : Side) (h : Handle) (q : Patch) (bank : BitVec 16) : State :=
  busyWith x0 { proc1 with handles := [(1, h)], patches := [(7, q)] }
    [{ op (.patch (.stow (arg 7) src 3 0) 5) with smp := ⟨shape1, 0, [(0, 0x3E80)], [(0, bank)]⟩ }]

theorem witness_patch_stows_more : ∀ v ∈ [(Side.vrf 512, tensor1, 0, (0 : BitVec 16), Sfmt.fp32, false, 128), (.peer 7 0x800, tensor1, 0, 0, .fp32, false, 128),
      (.spl 0x800 false, tensor1, 0, 0x13, .e4m3, true, 512), (.spl 0x800 false, scaled1, 3, 0x13, .e4m3, true, 512),
      (.spl 0x800 false, scaled1, 3, 0x14, .e5m2, true, 512), (.vrf 512, scaled1, 3, 0, .fp32, false, 128)],
    let q := { stowing false with dfmt := v.2.2.1 }
    let s := stowFrom v.1 v.2.1 q v.2.2.2.1
    let h := s.handle 1 1
    let o := { op (.patch (.stow (arg 7) v.1 3 0) 5) with smp := ⟨shape1, 0, [(0, 0x3E80)], [(0, v.2.2.2.1)]⟩ }
    patchAt s 0 0 o (.stow (arg 7) v.1 3 0) 5 ∧ (s.proc 1).patch 7 = some q ∧ q.st = .opened ∧ q.ownedBy (s.reader 0 0) = true ∧
      s.lookup 1 q.homeWord clTensor = .ok h ∧ Sfmt.ofCode q.dfmt = some h.sfmt ∧ (s.ctx 0 0).st ≠ .halted ∧
      sideFmt o.smp v.1 (shSstr shape1) 0 = (v.2.2.2.2.1, v.2.2.2.2.2.1) ∧ elemsIn v.2.2.2.2.1 (shRowb shape1) = v.2.2.2.2.2.2 ∧
      stowTensor (h.sfmt, h.scl) [v.2.2.2.2.2.2] (shRowb shape1) 0 = none ∧ h.inside 3 31 = true ∧ s.fits = true := by
  intro v hv
  fin_cases hv <;>
    refine ⟨turn (by unfold engineAt intact; decide +kernel) rfl rfl (by decide +kernel) (fun a k l e => by cases e), by decide +kernel⟩

/-- A QUERY of two records that do not meet and of two that do; a FORK; a name that nothing holds. -/
theorem witness_patch_queries :
    let both := fun (vals : Tab Nat) => withPatches [(7, patch1), (8, { patch1 with vals := vals })] [(0, ray0)] (.query (arg 7) (arg 8))
    (both [(6, 1)]).queried 1 ((both [(6, 1)]).reader 0 0) 7 = some patch1 ∧
      (both [(6, 1)]).queried 1 ((both [(6, 1)]).reader 0 0) 8 = some { patch1 with vals := [(6, 1)] } ∧
      (∀ v ∈ patch1.vals, (Patch.covers { patch1 with vals := [(6, 1)] } v.1) = false) ∧
      (both [(5, 1)]).queried 1 ((both [(5, 1)]).reader 0 0) 8 = some { patch1 with vals := [(5, 1)] } ∧
      (let q : Patch := { patch1 with vals := [(5, 1)] }
       Tab.wf patch1.vals = true ∧ patch1.covers 5 = true ∧ q.covers 5 = true ∧ patch1.home = q.home ∧
         ∀ m, m < 5 → patch1.covers m = false ∨ q.covers m = false) ∧
      (let s := withPatches [(7, patch1)] [(0, ray0)] (.fork ⟨1, 0⟩ 63 1)
       s.lookup 1 1 clTensor = .ok (s.handle 1 1) ∧ ((s.handle 1 1).ray 63).alive = false ∧ ((s.handle 1 1).ray 0).alive = true ∧
         1 ≤ ((s.handle 1 1).ray 0).recs.length ∧ ∀ n ∈ ((s.handle 1 1).ray 0).recs, n = 7) ∧
      ((both [(5, 1)]).proc 1).patch 9 = none ∧ ((both [(5, 1)]).ctx 0 0).st ≠ .halted := by decide +kernel

/-- A REPLACE and an ADD over INT32 to apply, and one whose launch is gone. -/
theorem witness_patches_apply :
    let s := withPatches [(7, patch1)] [(0, ray0)] (.apply (arg 7))
    let h := s.handle 1 1
    (s.proc 1).patch 7 = some patch1 ∧ patch1.st = .sealed ∧ patch1.home < 2 ^ 24 ∧ s.lookup 1 patch1.homeWord clTensor = .ok h ∧
      Tab.wf h.base = true ∧ Tab.wf patch1.vals = true ∧
      (((s.proc 1).records (h.ray 0)).find? (fun r => decide (r.2.st ≠ .applied))).map Prod.fst = some 7 ∧
      (∀ r ∈ h.rays, r.2.alive = true → 7 ∈ r.2.recs) ∧
      h.poison = [] ∧ patch1.bad = [] ∧ (s.applyRec 1 7 patch1 h).isSome = true ∧ s.procOf (s.ctx 0 0) = 1 ∧ intact s ∧
      (let q := { patch1 with due := true, vals := (List.range 128).map (fun e => (e, 1)), locs := [(0, ⟨0x80000, 0, 3⟩)] }
       q.due = true ∧ Tab.wf q.locs = true ∧ 0 ∈ q.fullGranules tensor1 ∧ Tab.find q.locs 0 = some ⟨0x80000, 0, 3⟩) ∧ patch1.isAdd = false ∧ ({ tensor1 with fmt := 6 } : Handle).sfmt = .int32 ∧ ({ patch1 with isAdd := true, dfmt := 6 } : Patch).dfmt = 6 ∧
      ({ tensor1 with auto := true } : Handle).auto = true := by
  unfold intact; decide +kernel

/-- An INVERT that restores, one that subtracts an ADD over INT32, without its image and below a record that overlaps it, and
two REPLACEs that are not invertible. -/
theorem witness_patch_inverts :
    (let q := { patch1 with st := .applied, undo := [(5, 3, 0)], undoLocs := [(0, ⟨0x80000, 0, 3⟩)] }
     let s := withPatches [(7, q)] [(0, ray0)] (.invert (arg 7))
     let h := s.handle 1 1
     (s.proc 1).patch 7 = some q ∧ q.home < 2 ^ 24 ∧ s.lookup 1 q.homeWord clTensor = .ok h ∧ q.undoHeld = true ∧
       appliedAbove (s.proc 1) h 7 q = [] ∧ Tab.wf q.undoLocs = true ∧ Tab.wf h.place.moved = true ∧ h.cls = clTensor ∧
       Tab.find q.undoLocs 0 = some ⟨0x80000, 0, 3⟩ ∧ Tab.wf h.base = true ∧ Tab.wf q.undo = true ∧ Tab.wf (s.proc 1).patches = true ∧
       q.undoBad = [] ∧ Tab.find s.launches (s.ctx 0 0).launch = some (launchOf (recordOf 0 []) 0)) ∧
    (let q := { patch1 with st := .applied, isAdd := true, dfmt := 6 }
     let s := withPatches [(7, q)] [(0, ray0)] (.invert (arg 7))
     (s.proc 1).patch 7 = some q ∧ s.lookup 1 q.homeWord clTensor = .ok (s.handle 1 1) ∧ q.undoHeld = false ∧ q.bad = [] ∧
       (s.handle 1 1).poison = [] ∧ Tab.wf (s.handle 1 1).base = true ∧ Tab.wf q.vals = true ∧ Tab.wf (s.proc 1).patches = true ∧
       ({ tensor1 with fmt := 6 } : Handle).sfmt = .int32) ∧
    ∀ add : Bool,
      let q := { patch1 with st := .applied, isAdd := add, dfmt := 6, undo := [(5, 3, 0)], undoLocs := [(0, ⟨0x80000, 0, 3⟩)] }
      let r := { ray0 with recs := [7, 8] }
      let s := withPatches [(7, q), (8, q)] [(0, r)] (.invert (arg 7))
      (s.proc 1).patch 7 = some q ∧ q.undoHeld = true ∧ appliedAbove (s.proc 1) (s.handle 1 1) 7 q ≠ [] ∧ (s.ctx 0 0).st ≠ .halted := by
  decide +kernel

/-- Tensor 1 with a record, two others above it, and the same records in one order or the other on a second ray. -/
def editing (b c : Patch) (r1 : List Nat) (o : PatchOp) : State :=
  withPatches [(7, patch1), (8, b), (9, c)] [(0, { ray0 with recs := [7, 8, 9] }), (1, { ray0 with recs := r1 })] o

/-- A COMMUTE on two rays of two records that may cross, and of two that may not. -/
theorem witness_patch_commutes : ∀ e ∈ [5, 6], ∀ r1 ∈ [[7, 8, 9], [8, 7], [9]],
    let b := { patch1 with vals := [(e, 1)] }
    let s := editing b patch1 r1 (.commute (arg 7) (arg 8) true)
    let h := s.handle 1 1
    (s.proc 1).patch 7 = some patch1 ∧ patch1.home < 2 ^ 24 ∧ s.lookup 1 patch1.homeWord clTensor = .ok h ∧ patch1.st = .sealed ∧
      (s.proc 1).patch 8 = some b ∧ b.st = .sealed ∧ b.home = patch1.home ∧ b.homeGen = patch1.homeGen ∧ (h.ray 0).alive = true ∧
      7 ∈ (h.ray 0).recs ∧ 8 ∈ (h.ray 0).recs ∧ h.rays.map (fun r => (r.1, r.2.recs)) = [(0, [7, 8, 9]), (1, r1)] ∧ [7, 8, 9].Nodup ∧
      [8, 7].Nodup ∧ [7, 8, 9] = [] ++ [7, 8] ++ [9] ∧ [8, 7] = [] ++ [8, 7] ++ [] ∧ (∀ r ∈ h.rays, r.1 ≠ 0 → r.2.forkH ≠ 0 + 1) ∧
      (s.ctx 0 0).st ≠ .halted ∧ patch1.isAdd = false ∧
      patch1.vals.all (fun v => !b.covers v.1) = decide (e = 6) := by decide +kernel

/-- A TRANSPLANT into an empty ray of another tensor, into one with a record, and within its own tensor; with no record above it,
and below two records, of which it may cross both, or only the first. -/
theorem witness_patch_transplants : ∀ ref ∈ [(⟨2, 0⟩ : TRef), ⟨2, 1⟩, ⟨1, 1⟩], ∀ post ∈ [([] : List Nat), [8, 9]], ∀ e ∈ [5, 6],
    let c := { patch1 with vals := [(e, 1)] }
    let b := { patch1 with vals := [(6, 1)] }
    let t := { tensor1 with rays := [(0, { ray0 with recs := [] }), (1, { ray0 with recs := [10] })] }
    let s := busyWith x0 { proc1 with
      handles := [(1, { tensor1 with rays := [(0, { ray0 with recs := [7] ++ post }), (1, { ray0 with recs := [10] })] }), (2, t)]
      patches := [(7, patch1), (8, b), (9, c), (10, { patch1 with ray := 1 })] } [op (.patch (.transplant (arg 7) ref true 1 0) 5)]
    let d := s.handle 1 (hIndex ref.handle)
    let higher := post.filterMap (fun n => ((s.proc 1).patch n).map (fun r => (n, r)))
    (s.proc 1).patch 7 = some patch1 ∧ patch1.st = .sealed ∧ s.refs 1 7 patch1 = 0 ∧ s.lookup 1 ref.handle clTensor = .ok d ∧
      (d.ray ref.ray).alive = true ∧ (d.fmt, d.scl) = (patch1.dfmt, (s.handle 1 1).scl) ∧
      (∀ v ∈ patch1.vals, d.inside ((v.1 / (s.handle 1 1).cols : Nat) + 1) ((v.1 % (s.handle 1 1).cols : Nat) + 0) = true) ∧
      ((s.handle 1 1).ray patch1.ray).recs = [] ++ [7] ++ post ∧ 7 ∉ post ∧ Tab.wf patch1.vals = true ∧ (s.ctx 0 0).st ≠ .halted ∧
      s.lookup 1 patch1.homeWord clTensor = .ok (s.handle 1 1) ∧
      higher.all (fun r => patch1.vals.all (fun v => !r.2.covers v.1)) = (post.isEmpty || decide (e = 6)) ∧
      (post = [] ∨ higher = [(8, b)] ++ (9, c) :: []) ∧ (∀ v ∈ patch1.vals, b.covers v.1 = false) ∧ c.home = patch1.home ∧
      patch1.vals.all (fun v => !c.covers v.1) = decide (e = 6) ∧ patch1.isAdd = false := by
  decide +kernel

/-- A run of three records between two others, on one ray and its prefix on a second, whole on a third; sealed or applied, the last an
ADD or a REPLACE, each with an undo image. -/
def merging (last applied : Bool) (adds : Bool) : List (Nat × Patch) :=
  let st : PState := if applied then .applied else .sealed
  let one := fun (add : Bool) (vals : Tab Nat) (e : Nat) => { patch1 with isAdd := add, dfmt := 6, st := st, vals := vals, undo := [(e, 3, 0)] }
  [(7, one adds [(5, 0x7FFFFFFF)] 5), (8, one adds [(5, 9)] 5), (9, one last [(5, 1)] 5)]
def mergingState (last applied adds : Bool) : State :=
  withPatches ((6, patch1) :: merging last applied adds ++ [(10, patch1)])
    [(0, { ray0 with recs := [6, 7, 8, 9, 10] }), (1, { ray0 with recs := [6], parent := 0, forkH := 1 }),
      (2, { ray0 with recs := [6, 7, 8, 9], parent := 0, forkH := 4 })] (.squash (arg 7) (arg 9))

theorem witness_patch_squashes : ∀ last applied adds : Bool,
    let run := merging last applied adds
    let s := mergingState last applied adds
    let h := s.handle 1 1
    ((∀ r ∈ run, (s.proc 1).patch r.1 = some r.2 ∧ r.2.st = (if applied then .applied else .sealed) ∧ r.2.home = 1 ∧ r.2.homeGen = 0 ∧
        Tab.wf r.2.vals = true ∧ Tab.wf r.2.undo = true ∧ r.2.bad = [] ∧ r.2.undoBad = []) ∧
      (∀ r ∈ h.rays, r.2.recs.Nodup ∧ (r.1 = 1 ∨ (r.2.recs.take 1).length = 1 ∧
        r.2.recs = r.2.recs.take 1 ++ run.map Prod.fst ++ r.2.recs.drop 4)) ∧ (∀ r ∈ h.rays, r.1 ≠ 0 → r.2.forkH ≤ 1 ∨ 1 + run.length ≤ r.2.forkH) ∧
      (h.ray 0).alive = true ∧ 7 ∈ (h.ray 0).recs ∧ 9 ∈ (h.ray 0).recs ∧ 9 ∉ (h.ray 1).recs ∧ (s.ctx 0 0).st ≠ .halted ∧
      Tab.wf (s.proc 1).patches = true ∧ s.lookup 1 1 clTensor = .ok h) ∧
    (run.all (fun r => decide (r.2.isAdd = adds)) = (last == adds) ∧ ((run.find? (fun r => r.2.covers 5)).map (fun r => r.2.isAdd)) = some adds) ∧
    (match squashed h ((run.map Prod.snd).headD patch1) (run.map Prod.snd) with
     | .ok m => (((run.drop 1).foldl (fun t r => t.dropRec 1 r.1 r.2) s).modProc 1 (fun v => v.setPatch 7 m.1)).fits
     | .error _ => adds && !last) = true := by
  intro last applied adds
  refine ⟨?_, ?_, ?_⟩ <;> (revert last applied adds; decide +kernel)

/-- Queue operations: no queue, one that drains, one that is not resident (before and after its miss), one that takes neither,
an empty one, a full one and one with room; cells on another device. -/
theorem witness_queues_act :
    let o := opNew (.qpush 4 3 2 [])
    let d := opNew (.qpop 4 3 2)
    let cells := fun (head tail : Nat) =>
      busyWith x0 { proc1 with handles := proc1.handles.map (fun h => if h.1 = 2 then (2, { h.2 with data := Memory.writeNat (Memory.writeNat [] 0 8 head) 8 8 tail }) else h) } [o]
    let n := fun (s : State) => (Memory.readNat (s.handle 1 2).data 8 8 + 2 ^ 64 - Memory.readNat (s.handle 1 2).data 0 8) % 2 ^ 64
    let calm := busyWith x0 { proc1 with queues := [(2, { queue1 with resident := false })] } [{ o with held := true }]
    let away := busyWith x0 { proc1 with handles := proc1.handles.map (fun h => if h.1 = 2 then (2, { h.2 with place := ⟨5, [], 0, []⟩ }) else h) } [o]
    memoriesOk (ops [o]) ∧ intact (ops [o]) ∧ (ops [o]).replays = [] ∧ ((ops [o]).core 0).dops[0]? = some o ∧ o.started = false ∧
      o.remote = false ∧ ((ops [{ o with kind := .qpush 4 3 2 [8] }]).core 0).unseen 3 8 = false ∧ (ops [o]).anyFar 1 ((ops [o]).queueUnits 1 queue1 0) = false ∧
      away.anyFar 1 (away.queueUnits 1 queue1 0) = true ∧ (∀ z ∈ (calm.proc 1).queues, z.2.draining = false) ∧
      (Tab.wf (ops [o]).cores = true ∧ Tab.wf ((ops [o]).proc 1).queues = true ∧
        ∀ l ∈ (ops [o]).launches, l.2.proc = 1 → l.2.src ≠ .queue 1) ∧ o.waits = [] ∧
      o.poison = none ∧ ((ops [o]).ctx 0 0).untaken = [] ∧ o.bound = 0 ∧ o.kind = .qpush 4 3 2 [] ∧ d.kind = .qpop 4 3 2 ∧
      (ops [o]).queue 1 9 = none ∧ ((ops [o]).queue 1 1).map (·.draining) = some true ∧
      ((ops [o]).queue 1 2).map (fun e => (e.draining, e.resident)) = some (false, false) ∧ o.held = false ∧ ({ o with held := true }).held = true ∧
      ((ops [o]).queue 1 3).map (fun e => (e.resident, e.push, e.work)) = some (true, false, false) ∧
      ((ops [o]).queue 1 4).map (fun e => (e.draining, e.resident, e.push, e.work, e.c)) = some (false, true, true, true, 1) ∧
      (ops [o]).lookup 1 2 clSync = .ok ((ops [o]).handle 1 2) ∧ (ops [o]).lookup 1 3 clQbody = .ok ((ops [o]).handle 1 3) ∧
      hIndex 2 ≠ hIndex 3 ∧ n (ops [o]) = 0 ∧ 2 ^ 1 ≤ n (cells (2 ^ 64 - 1) 1) ∧ n (cells 5 6) < 2 ^ 1 ∧ n (cells 5 6) ≠ 0 := by
  unfold memoriesOk intact; decide +kernel

/-! ### Witnesses: launches -/

/-- A context whose vector 3 holds a record. -/
def lnchWith (bs : List Byte) : State :=
  let s := ops [op (.lnch 3 none 2 [])]
  s.modCore 0 (fun k => { k with vrf := [(3, BitVec.ofNat 4096 (leNat bs))] })
def candOf (bs : List Byte) (deps : List Nat) : Cand := ⟨1, .intake, bs, deps, 3⟩

/-- A head record of the intake and one behind it; a page that a context awaits; a record that is accepted, one that finds the intake
full, and one that is rejected; a record out of a flue. -/
theorem witness_launch_units :
    (let r := candOf (recBytes []) []
     let s := { ops [] with dies := [(0, { Die.reset with cands := [r, { r with since := 4 }] })] }
     intact s ∧ s.replays = [] ∧ (∀ j, j < 4 → s.lookup 1 (recDepH r.bytes j) clSync ≠ .wait) ∧ (s.die 0).cands[0]? = some r ∧ (∀ b ∈ (s.die 0).cands.take 0, b.src ≠ .intake) ∧
       (s.die 0).cands[1]? = some { r with since := 4 } ∧ ∃ b ∈ (s.die 0).cands.take 1, b.src = .intake) ∧
    (let s := { busyWith { x0 with fills := [1] } proc1 [] with launches := [(1, launchOf (recBytes []) 0)] }
     1 ∈ (s.ctx 0 0).fills ∧ 2 ∉ (s.ctx 0 0).fills ∧ intact s ∧ s.replays = [] ∧ s.codeOf (s.ctx 0 0) = (1, 4) ∧ (s.core 0).page 1 4 1024 = none ∧
       s.lookup 1 4 clCode = .ok (s.handle 1 4) ∧ 1 ∈ (s.handle 1 4).present ∧ (s.core 0).pages.length < 128) ∧
    (let o := op (.lnch 3 none 2 [])
     let bs := fun (s : State) => leBytes (((s.core 0).vec ((s.ctx 0 0).phys 3)).toNat % 2 ^ 2048) 256
     let good := lnchWith (recBytes [])
     let full := { good with dies := [(0, { Die.reset with cands := List.replicate 64 (candOf (recBytes []) []) })] }
     let kept := op (.lnch 0xFF8 (some (BitVec.ofNat 4096 (leNat (recBytes [])))) 2 [])
     engineAt good 0 0 o ∧ engineAt (ops [kept]) 0 0 kept ∧ o.kind = .lnch 3 none 2 [] ∧ o.bound = 0 ∧ recordOk good 1 (bs good) = true ∧
       (good.die (recDie (bs good))).cands.countP (fun q => decide (q.src = .intake)) < 64 ∧ recordOk full 1 (bs full) = true ∧
       64 ≤ (full.die (recDie (bs full))).cands.countP (fun q => decide (q.src = .intake)) ∧
       recordOk (lnchWith (recBytes [(5, 0)])) 1 (bs (lnchWith (recBytes [(5, 0)]))) = false ∧
       recDoneH (bs (lnchWith (recBytes [(5, 0)]))) = 0) := by
  unfold engineAt intact; decide +kernel

/-- A queue that missed; a landing of NXT; a launch unit without steps, before its first block and after it; one that needs none. -/
theorem witness_launch_units_more :
    ((ops []).queue 1 2).map (fun v => (v.resident, v.home)) = some (false, 0) ∧ ((ops []).die 0).resident.length < 64 ∧
    (let v := { queue1 with resident := false, work := false }
     let s := busyWith x0 { proc1 with
       queues := [(0, v)]
       handles := proc1.handles.map (fun h => if h.1 = 2 then (2, { h.2 with data := Memory.writeNat [] 8 8 1 }) else h) } []
     s.queue 1 0 = some v ∧ intact s ∧ s.replays = [] ∧ v.draining = false ∧ s.lookup 1 v.cellH clSync = .ok (s.handle 1 2) ∧
       s.lookup 1 v.bodyH clQbody = .ok (s.handle 1 3) ∧ s.qCount 1 v ≠ 0 ∧ ∀ b ∈ (s.die v.home).cands, b.ofQueue 1 0 = false) ∧
    (let s := on (fun x => { x with nxt := [⟨true, 0, 1, 2, 3, 4⟩, ⟨false, 1, 0, 0, 0, 0⟩] })
     (s.ctx 0 0).nxt = ⟨true, 0, 1, 2, 3, 4⟩ :: [⟨false, 1, 0, 0, 0, 0⟩] ∧ ∀ q ∈ (s.ctx 0 0).nxt.drop 1, q.left ≠ 0) ∧
    (let b := recordOf 1 [4, 4, 1] |>.set 20 1
     let v := launchOf b 0
     v.die = 0 ∧ (recDies (recordOf 1 [4, 4, 1])).length = 1 ∧ (recDies v.bytes).length ≠ 1 ∧ v.die ≠ 1 ∧ recKind v.bytes ≠ 0 ∧ 1 ∈ recDies v.bytes ∧ v.est.stopped = false ∧ Tab.find v.blocks 1 = none ∧
       Tab.find ({ v with blocks := [(1, (15, 15))] }).blocks 1 = some (15, 15) ∧ 15 < recSteps v.bytes) := by unfold intact; decide +kernel

/-- A record of the intake that is the only one eligible; a device that has not reached step 7. -/
theorem witness_launch_starts :
    let r := candOf (recBytes []) []
    let s := { State.reset with step := 7, procs := [(1, proc1)], dies := [(0, { Die.reset with cands := [r] })] }
    7 ≤ s.step ∧ s.tripped = false ∧ (0, r) ∈ (s.noteTails 0).considered 0 ∧
      (∀ q ∈ (s.noteTails 0).considered 0, q.2.src = .intake ∨ recordOk (s.noteTails 0) q.2.proc q.2.bytes = true) ∧
      (∀ i, i < 4 → recDepc r.bytes i = 0 ∨ i ∈ r.deps) ∧ (s.noteTails 0).canStart r.bytes = true ∧
      (∀ q ∈ (s.noteTails 0).considered 0, q = (0, r)) ∧ r.src = .intake ∧
      (match (s.noteTails 0).entry r.proc (recCodeH r.bytes) clCode with
       | some e => decide (e.present = [0, 1])
       | none => false) = true ∧ State.reset.step < 7 := by decide +kernel

/-- A finished launch with its block at offset 3,840; a fault; a halted context whose wait has been told; a rollback before and after its contexts settle; a long wait. -/
theorem witness_launch_ends :
    (let s := haltedWith id
     let v := launchOf (recBytes [(0x80, 2), (0x85, 0x0F)]) 0
     memoriesOk s ∧ Tab.wf s.launches = true ∧ Tab.find s.launches 1 = some v ∧ v.st = .live ∧ v.rollback = false ∧ recKind v.bytes = 0 ∧
       s.allHalted 1 v = true ∧ (s.proc v.proc).patches = [] ∧ s.endGate 1 v = none ∧ intact s ∧ recDoneH v.bytes ≠ 0 ∧
       recDoneOff v.bytes = 0xF00 ∧ syncRange s v.proc (recDoneH v.bytes) (recDoneOff v.bytes) 64 = true) ∧
    (let s := holding (fun x => { x with st := .faulted }) id
     (s.ctx 0 0).st = .faulted ∧ (s.ctx 0 0).launch = 1) ∧
    (let s := holding (fun x => { x with st := .halted, haltWait := 2 ^ 24 + 1 }) id
     (s.ctx 0 0).st = .halted ∧ 2 ^ 24 < (s.ctx 0 0).haltWait ∧ (s.ctx 0 0).launch = 1) ∧
    (let s := holding id (fun v => { v with rollback := true })
     ∃ q ∈ s.held 1 (recBytes [(0x80, 2), (0x85, 0x0F)]), q.2.2.st ≠ .stopped) ∧
    (let s := holding (fun x => { x with st := .stopped }) (fun v => { v with rollback := true })
     (∀ q ∈ s.held 1 (recBytes [(0x80, 2), (0x85, 0x0F)]), q.2.2.st = .stopped ∧ s.settled q.1 q.2.1 = true) ∧
       ∀ a ∈ recClaims 1 (recBytes [(0x80, 2), (0x85, 0x0F)]), ∀ q ∈ s.holders a, q.2.launch = 1) ∧
    (let s := holding (fun x => { x with st := .halted, haltWait := 2 ^ 24 }) id
     ∃ q ∈ s.held 1 (recBytes [(0x80, 2), (0x85, 0x0F)]), q.2.2.haltWait = 2 ^ 24) ∧
    (let s := holding id id
     ∀ q ∈ s.held 1 (recBytes [(0x80, 2), (0x85, 0x0F)]), q.2.2.haltWait ≠ 2 ^ 24) := by unfold memoriesOk intact; decide +kernel

/-- A marked context that is being evicted and whose run is over, and one that is not marked; a saved context whose place is free, one
whose place another holds, and one whose operations find no room. -/
theorem witness_evictions :
    (let s := (holding (fun x => { x with st := .evicting, marked := true, vunits := 1 }) id).modCore 0 (fun k => { k with running := none })
     let y := s.ctx 0 0
     y.marked = true ∧ (y.st = .evicting ∨ y.st = .faulted) ∧ (s.core 0).running ≠ some 0 ∧ s.settled 0 0 = true ∧ intact s ∧ Tab.wf (s.core 0).ctxs = true ∧
       (match Tab.find s.launches y.launch with
        | some w => decide (s.lookup w.proc (recSaveH w.bytes) clSave = .ok (Handle.region clSave 4096) ∧ s.saveGate w 0 0 = none)
        | none => false) = true) ∧
    ¬ ((s0.ctx 0 0).marked = true ∧ ((s0.ctx 0 0).st = .evicting ∨ (s0.ctx 0 0).st = .faulted) ∧ s0.settled 0 0 = true) ∧
    (let v : Saved := ⟨0, 0, { x0 with st := .evicting, marked := true }, [(3, 7)], [], [], [], []⟩
     let w := { launchOf (recBytes []) 0 with saved := [v] }
     let free := { holding id id with cores := [], launches := [(1, w)] }
     let taken := { holding (fun x => { x with launch := 2 }) id with launches := [(1, w)] }
     let busy := { free with cores := [(0, { Core.reset with dops := List.replicate 33 { op .join with ctx := 1 } })] }
     (∀ b, (free.core 0).chanLoad b + v.ops.countP (fun o => o.chanB == b) ≤ 32) ∧
       ¬ (busy.core 0).chanLoad false + v.ops.countP (fun o => o.chanB == false) ≤ 32 ∧ busy.waiting 0 0 = [(1, w)] ∧
       Tab.find free.launches 1 = some w ∧ free.waiting 0 0 = [(1, w)] ∧
       w.saved.find? (fun q => decide (q.core = 0) && decide (q.num = 0)) = some v ∧ Tab.wf v.vrf = true ∧ free.holders v.claim = [] ∧
       intact free ∧ free.outranked (recPri w.bytes) v.claim = false ∧
       free.lookup w.proc (recSaveH w.bytes) clSave = .ok (Handle.region clSave 4096) ∧ free.saveGate w 0 0 = none ∧ taken.waiting 0 0 = [(1, w)] ∧ taken.holders v.claim ≠ []) := by
  unfold intact; decide +kernel

/-! ### Witnesses: links, regions and estimators -/

/-- A channel of a peer, with messages entered and RECVs at the link engine. -/
def chanOf (peer : Nat) (rx : List (List Byte)) (recvs : List (Nat × Nat)) : Chan := ⟨peer, 2, rx, [], recvs, ⟨0, 0, 0⟩, 0⟩

/-- A SEND to another device and to a queue of this device with room and without; an arrival that fits and one that does not; a
RECV that is granted, one that waits, and, at the link engine and before it, one whose time is over and one whose is not. -/
theorem witness_links :
    let o := op (.send false 0x800 1 2)
    let l := op (.send false 0x800 0 2)
    let own := fun (rx : List (List Byte)) => busyWith x0 { proc1 with chans := [chanOf 0 rx []] } [l]
    let r := fun (u waited : Nat) => { op (.recv false 0x800 1 2 2 u) with waited := waited }
    let ch := chanOf 1 [[1, 2, 3]] [(0, 9)]
    engineAt (ops [o]) 0 0 o ∧ engineAt (own []) 0 0 l ∧
      (linkBlocked ((ops [o]).core 0) 0 o = false ∧ ((ops [o]).proc 1).chan 1 2 = some (chanOf 1 [] []) ∧
      1 ≠ (ops [o]).node ∧ (own []).node = 0 ∧ ((own []).proc 1).chan 0 2 = some (chanOf 0 [] []) ∧
      (chanOf 0 [] []).fits (List.replicate 512 0) = true ∧
      (chanOf 0 (List.replicate 64 (List.replicate 4096 0)) []).fits (List.replicate 512 0) = false ∧ ([1, 2, 3] : List Byte).length ≤ 262144) ∧
      (let s := busyWith x0 { proc1 with chans := [ch] } [r 5 5]
       memoriesOk s ∧ engineAt s 0 0 (r 5 5) ∧ (s.proc 1).chan 1 2 = some ch ∧ ch.rx = [1, 2, 3] :: [] ∧ ch.recvs.head? = some (0, 9) ∧
         (r 5 5).waited ≤ 5 ∧ shRows (r 5 5).smp.shape = 1 ∧ ([1, 2, 3] : List Byte).length ≤ shRowb (r 5 5).smp.shape ∧ 1 ≤ 5 ∧
         5 ≤ (r 5 5).waited ∧ (s.ctx 0 0).st ≠ .halted) ∧
      (let n := { r 5 5 with started := false }
       ((ops [n]).core 0).dops[0]? = some n ∧ n.performed = false ∧ n.poison = none ∧ n.waits = [] ∧ ((ops [n]).ctx 0 0).st ≠ .halted) ∧
      (r 5 4).waited < 5 ∧ (chanOf 1 [] []).rx = [] ∧ (chanOf 1 [] [(1, 9)]).recvs.head? ≠ some (0, 9) := by
  refine ⟨?_, ?_, by decide +kernel, by unfold memoriesOk engineAt intact; decide +kernel⟩ <;> (unfold engineAt intact; decide +kernel)

/-- A revoked region whose accesses are over and one whose are not; one that migrates; a read that a replay queue holds, its region
moved; a pull with lines to come and one whose lines are all present. -/
theorem witness_regions_move :
    let h := fun (v : Handle) => { ops [op .join] with procs := [(1, { Process.reset with handles := [(2, v)] })] }
    let r := { Handle.region clSync 8192 with st := .revoked, held := true }
    let m := { r with st := .migrating, plan := some ⟨0, [(3, 1)], 0, []⟩ }
    let a : HostAccess := ⟨63, 1, 2, 3840⟩
    let waits := { h { Handle.region clQbody 8192 with host := some 63 } with replays := [(3, [⟨1, 2, .hostRead a 256⟩])] }
    let pull := { Handle.region clSync 8192 with pull := true, present := [0] }
    ((h r).handle 1 2).st = .revoked ∧ ((h r).handle 1 2).held = true ∧
      (∀ q ∈ ((h r).handle 1 2).live, ((h r).core q.1).inFlight q.2 = false) ∧
      (∃ q ∈ ((h { r with live := [(0, 9)] }).handle 1 2).live, ((h r).core q.1).inFlight q.2 = true) ∧
      ((h m).handle 1 2).st = .migrating ∧ ((h m).handle 1 2).plan = some ⟨0, [(3, 1)], 0, []⟩ ∧ (h pull).replays = [] ∧
      (intact waits ∧ hIndex a.handle = 2 ∧ waits.lookup 1 a.handle clQbody = .ok (waits.handle 1 2) ∧
        (waits.handle 1 2).host = some a.host ∧ a.offset + 256 ≤ (waits.handle 1 2).len) ∧ ((h pull).handle 1 2).st ≠ .revoked ∧
      ((h pull).handle 1 2).st ≠ .migrating ∧ ((h pull).handle 1 2).pull = true ∧ 1 < ((h pull).handle 1 2).lineCount ∧
      (h pull).procs = [(1, { Process.reset with handles := [(2, (h pull).handle 1 2)] })] ∧ 1 ∉ ((h pull).handle 1 2).present ∧
      (∀ k, k < 1 → k ∈ ((h pull).handle 1 2).present) ∧
      (∀ n, n < ((h { pull with present := [0, 1] }).handle 1 2).lineCount → n ∈ ((h { pull with present := [0, 1] }).handle 1 2).present) ∧
      ((h r).handle 1 2).pull = false ∧ (∀ v ∈ (h r).procs, ∀ e ∈ v.2.handles, e.2.pull = false) := by
  unfold intact; decide +kernel

/-- Samples that are finite and not, the 64th, and one after the stop; batches, receipts of the stop and remainders. -/
theorem witness_estimators :
    let e := fun (n : Nat) (stopped : Bool) (xs : List Word) => (⟨1, n, 0, 0, stopped, xs⟩ : PartEst)
    let rec3 := recordOf 3 [8, 0, 0, 2]
    let v := launchOf rec3 0
    let s := fun (p : PartEst) (w : Launch) =>
      { haltedWith id with clusters := [(0, { Cluster.reset with est := p })], launches := [(1, w)] }
    let b := { v with batches := [(64, 0, 0)] }
    let stop := { v with est := { v.est with stopped := true } }
    ((s (e 63 false [0x3FF0000000000000]) v).cluster 0).est.samples = 0x3FF0000000000000 :: [] ∧
      Tab.find (s (e 63 false []) v).launches 1 = some v ∧ (0x7FF0000000000000 : Word).toNat / 2 ^ 52 % 2 ^ 11 = 2047 ∧
      (0x3FF0000000000000 : Word).toNat / 2 ^ 52 % 2 ^ 11 ≠ 2047 ∧ (e 63 false []).n = 63 ∧ (e 62 false []).n ≠ 63 ∧ (e 0 true []).stopped = true ∧
      b.batches = (64, 0, 0) :: [] ∧ b.est.stopped = false ∧ b.est.n = 0 ∧ recNmin b.bytes ≤ b.est.n + 64 ∧ recNmin b.bytes = 2 ∧
      ({ v.est with n := 3 } : DevEst).n ≠ 0 ∧ 0 + 1 < recNmin b.bytes ∧ stop.est.stopped = true ∧ 0 < 16 ∧
      ((s (e 5 false []) stop).cluster 0).est.launch = 1 ∧ ((s (e 5 false []) stop).cluster 0).est.stopped = false ∧ 0 ∈ recDies stop.bytes ∧
      0 ∉ stop.stops ∧ recKind v.bytes = 3 ∧ v.est.merged = false ∧ v.st = .live ∧ v.rollback = false ∧ v.batches = [] ∧
      (s (e 5 false []) v).allHalted 1 v = true ∧ (s (e 5 false []) v).drained 1 v = true ∧ recClusters v.bytes = [0] ∧
      ((s (e 5 false []) v).cluster 0).est.n ≠ 0 ∧ ((s (e 0 false []) v).cluster 0).est.n = 0 := by decide +kernel

/-! ### Witnesses: the mailbox and the invariant -/

/-- A record of 64 bytes for a process, with bytes of ARGS set. -/
def mailRec (code proc : Byte) (args : List (Nat × Byte)) : List Byte :=
  args.foldl (fun bs p => bs.set p.1 p.2) ((List.replicate 64 0).set 0 code |>.set 2 proc)

/-- A device whose host 63 has one record in its ring. -/
def mailed (bs : List Byte) (p : Process) : State :=
  { ops [] with
    procs := [(0, { mailboxes with handles :=
      [(1, { Handle.region clQbody 65536 with data := Memory.writeRun [] (1024 * 63) bs }),
       (2, { Handle.region clSync 1024 with data := Memory.writeNat [] (16 * 63 + 8) 8 1 }), (3, Handle.region clQbody 16384)] }), (1, p)] }
def reqOf (bs : List Byte) : Req := ⟨63, bs⟩

/-- A record is the next of its code. -/
def nextOf (s : State) (code : Nat) (r : Req) : Bool :=
  s.portsUp 0 && !s.failed && decide (r.host < 64) && decide (s.mail r.host = some r) && decide (r.code = code) &&
    (List.range r.host).all (fun h => (s.mail h).isNone)

theorem mail_next {s : State} {r : Req} {code : Nat} (h : nextOf s code r = true) : mailNext s code r := by
  simp only [nextOf, Bool.and_eq_true, Bool.not_eq_true', decide_eq_true_eq, List.all_eq_true, List.mem_range] at h
  obtain ⟨⟨⟨⟨⟨h1, h2⟩, h3⟩, h4⟩, h5⟩, h6⟩ := h
  exact ⟨h1, h2, h3, h4, h5, fun k lt q e => absurd (h6 k lt) (by simp [e])⟩

/-- A region to map, a handle to revoke, and one to move. -/
theorem witness_mail_regions :
    (let m := mailRec 1 1 [(8, 2), (0x15, 16)]
     let s := mailed m proc1
     mailNext s 0x01 (reqOf m) ∧ memoriesOk s ∧ (reqOf m).clean [(0x08, 36)] = true ∧ (reqOf m).proc = 1 ∧ (s.proc 1).alive = true ∧
       s.mapReady (reqOf m) = true ∧ (reqOf m).mapArgs.ok = true ∧ (reqOf m).nat 0x09 1 < 8 ∧ (reqOf m).mapArgs.src = 0 ∧ (reqOf m).mapArgs.handle = 0 ∧
       (s.proc 1).newIndex = some 5 ∧ (s.handle 1 5).gen < 256 ∧
       (let bare := (reqOf m).mapArgs.region s.node s.draws 63 none
        let runs := s.runsFor 1 (reqOf m).mapArgs.stack (reqOf m).mapArgs.cls bare.unitBytes bare.units
        (s.setHandle 1 5 { bare with gen := (s.handle 1 5).gen, place := { bare.place with runs := runs } }).fits = true)) ∧
    (let m := mailRec 2 1 [(8, 2)]
     let s := mailed m proc1
     mailNext s 0x02 (reqOf m) ∧ (reqOf m).clean [(0x08, 4)] = true ∧ s.named 1 ((reqOf m).h32 0x08) = some (2, Handle.region clSync 4096)) ∧
    (let m := mailRec 0x0B 1 [(8, 2), (0x0C, 0xFF), (0x0D, 3), (0x0E, 11)]
     let s := mailed m proc1
     let e := Handle.region clSync 4096
     mailNext s 0x0B (reqOf m) ∧ (reqOf m).clean [(0x08, 7)] = true ∧ (reqOf m).nat 0x0C 2 = 1023 ∧ (reqOf m).nat 0x0E 1 = 11 ∧
       s.named 1 ((reqOf m).h32 0x08) = some (2, e) ∧ e.st = .valid ∧ e.pull = false ∧ e.bytes ≤ 64 * 2 ^ 20 ∧
       (s.setHandle 1 2 { e with st := .migrating, old := some e.place, plan := some ⟨1023, [(11, e.units)], s.draws, []⟩ }).fits = true) :=
  ⟨⟨mail_next (by decide +kernel), by unfold memoriesOk; decide +kernel⟩, ⟨mail_next (by decide +kernel), by decide +kernel⟩,
    mail_next (by decide +kernel), by decide +kernel⟩

/-- Process 1 with bytes in its QBODY region and an image of two pages. -/
def sourced : Process :=
  { proc1 with handles := [(2, Handle.region clSync 4096), (3, { Handle.region clQbody 4096 with data := [(255, 7), (256, 0x21), (4095, 9)] }),
      (4, { Handle.region clCode 2048 with present := [0, 1] })] }

/-- A MAP with a source: a QBODY region, a tensor with a scale plane and a code image, the last byte of each from the last of the
source; and one whose source is too short. -/
theorem witness_mail_maps_sources : ∀ q ∈ [((6 : Byte), ([(0x15, 1), (0x25, 15)] : List (Nat × Byte)), true), (6, [(0x15, 1), (0x24, 1), (0x25, 15)], false),
      (1, [(9, 1), (0x0A, 3), (0x0C, 2), (0x10, 32), (0x24, 0xB0), (0x25, 15)], true), (3, [(0x15, 4), (0x25, 12)], true)],
    let m := mailRec 1 1 ([(8, q.1), (0x20, 3)] ++ q.2.1)
    let s := mailed m sourced
    let e := s.handle 1 3
    let a := (reqOf m).mapArgs
    mailNext s 0x01 (reqOf m) ∧ memoriesOk s ∧ intact s ∧ (reqOf m).clean [(0x08, 36)] = true ∧ (reqOf m).proc = 1 ∧ (s.proc 1).alive = true ∧
      s.mapReady (reqOf m) = true ∧ a.ok = true ∧ (reqOf m).nat 0x09 1 < 8 ∧ a.src ≠ 0 ∧ a.cls ≠ clSync ∧ s.lookup 1 a.src clQbody = .ok e ∧
      a.handle = 0 ∧ (s.proc 1).newIndex = some 1 ∧ (s.handle 1 1).gen < 256 ∧ decide (a.off + a.srcBytes ≤ e.len) = q.2.2 ∧
      (let bare := a.region s.node s.draws 63 (some e.data)
       let runs := s.runsFor 1 a.stack a.cls bare.unitBytes bare.units
       (s.setHandle 1 1 { bare with gen := (s.handle 1 1).gen, place := { bare.place with runs := runs } }).fits = true) := by
  intro q hq
  fin_cases hq <;> exact ⟨mail_next (by decide +kernel), by unfold memoriesOk intact; decide +kernel⟩

/-- A MAP that extends an image: to fewer pages than it has, without a source, and with one. -/
theorem witness_mail_extends : ∀ q ∈ [((4 : Byte), (0 : Byte), (0 : Byte)), (16, 0, 0), (16, 3, 0)],
    let m := mailRec 1 1 [(8, 3), (0x1C, 4), (0x15, q.1), (0x20, q.2.1), (0x25, q.2.2)]
    let s := mailed m sourced
    let e := s.handle 1 4
    let a := (reqOf m).mapArgs
    mailNext s 0x01 (reqOf m) ∧ memoriesOk s ∧ intact s ∧ (reqOf m).clean [(0x08, 36)] = true ∧ s.mapReady (reqOf m) = true ∧ a.ok = true ∧
      (reqOf m).nat 0x09 1 < 8 ∧ a.cls = clCode ∧ a.handle ≠ 0 ∧ s.lookup 1 a.handle clCode = .ok e ∧ a.len = 256 * q.1.toNat ∧ e.len = 2048 ∧
      (q.2.1 = 0 ∨ a.src ≠ 0 ∧ s.lookup 1 a.src clQbody = .ok (s.handle 1 3) ∧ a.off + a.len ≤ (s.handle 1 3).len) ∧
      (let runs := e.place.runs ++ s.runsFor 1 a.stack clCode Config.pageBytes (pagesFor a.len - pagesFor e.len)
       (s.setHandle 1 (hIndex a.handle) { e with len := a.len, place := { e.place with runs := runs } }).fits = true) := by
  intro q hq
  fin_cases hq <;> exact ⟨mail_next (by decide +kernel), by unfold memoriesOk intact; decide +kernel⟩

/-- A process to create, one to destroy, one that is in use, a ray to remove, and a reserved byte that is set. -/
theorem witness_mail_processes :
    (let m := mailRec 8 0 []
     mailNext (mailed m proc1) 0x08 (reqOf m) ∧ (reqOf m).clean [] = true ∧ (reqOf m).proc = 0 ∧ ((mailed m proc1).proc 2).alive = false ∧
       ∀ k, k < 2 → 1 ≤ k → ((mailed m proc1).proc k).alive = true) ∧
    (let m := mailRec 9 1 []
     let idle := fun (h : List (Nat × Handle)) => { mailed m { proc1 with queues := [], chans := [], handles := h } with launches := [] }
     mailNext (idle []) 0x09 (reqOf m) ∧ (reqOf m).clean [] = true ∧ (reqOf m).proc = 1 ∧ (idle proc1.handles).procBusy 1 = false ∧
       (mailed m proc1).procBusy 1 = true ∧ (∀ h ∈ ((idle proc1.handles).proc 1).handles, h.2.held = false) ∧
       ∃ h ∈ ((idle [(5, { Handle.region clSync 4096 with st := .revoked, held := true })]).proc 1).handles, h.2.held = true) ∧
    (let m := mailRec 10 1 [(8, 1), (0x0C, 63)]
     let t := { tensor1 with rays := [(0, ray0), (63, ray0)] }
     let s := mailed m { proc1 with handles := [(1, t)] }
     mailNext s 0x0A (reqOf m) ∧ (reqOf m).clean [(0x08, 5)] = true ∧ 1 ≤ (reqOf m).nat 0x0C 1 ∧ (reqOf m).nat 0x0C 1 < 64 ∧
       s.entry 1 ((reqOf m).h32 0x08) clTensor = some t ∧ Tab.wf t.rays = true ∧ (t.ray 63).alive = true ∧ (t.ray 63).pins = 0 ∧
       ∀ q ∈ t.rays, q.2.alive = true → q.1 ≠ 0 → q.2.parent ≠ 63) ∧
    (let m := mailRec 7 0 [(0x37, 1)]
     mailNext (mailed m proc1) 0x07 (reqOf m) ∧ (reqOf m).clean [(0x08, 40)] = false) :=
  ⟨⟨mail_next (by decide +kernel), by decide +kernel⟩, ⟨mail_next (by decide +kernel), by decide +kernel⟩,
    ⟨mail_next (by decide +kernel), by decide +kernel⟩, mail_next (by decide +kernel), by decide +kernel⟩

/-- A queue to create, one to drain and one that drains already, channels to open and to close, a quote, and a code that is not assigned. -/
theorem witness_mail_services :
    (let m := mailRec 3 1 [(8, 0xC1), (0x10, 3), (0x18, 2), (0x20, 8)]
     let s := mailed m proc1
     mailNext s 0x03 (reqOf m) ∧ memoriesOk s ∧ (reqOf m).clean [(0x08, 32)] = true ∧ (reqOf m).queueOk = true ∧
       s.queueRegions 1 (reqOf m).queue = true ∧ Tab.find (s.proc 1).queues 5 = none ∧ ∀ k, k < 5 → (Tab.find (s.proc 1).queues k).isSome = true) ∧
    (let m := mailRec 4 1 [(8, 0)]
     let s := mailed m proc1
     mailNext s 0x04 (reqOf m) ∧ (reqOf m).clean [(0x08, 2)] = true ∧ s.destroyReady (reqOf m) = true ∧ Tab.wf (s.proc 1).queues = true ∧
       s.queue 1 ((reqOf m).nat 0x08 2) = some queue1 ∧ queue1.draining = false ∧ (s.queue 1 1).map (·.draining) = some true) ∧
    (let m := mailRec 5 1 [(8, 0xFF), (9, 3), (10, 15)]
     let s := mailed m proc1
     mailNext s 0x05 (reqOf m) ∧ (reqOf m).clean [(0x08, 3)] = true ∧ (reqOf m).nat 0x08 2 = 1023 ∧ (reqOf m).nat 0x0A 1 = 15 ∧
       (s.proc 1).chan 1023 15 = none ∧ (s.modProc 1 (fun v => { v with chans := v.chans ++ [⟨1023, 15, [], [], [], s.linkLoc 1, 0⟩] })).fits = true) ∧
    (let m := mailRec 6 1 [(8, 1), (10, 2)]
     let s := mailed m proc1
     mailNext s 0x06 (reqOf m) ∧ (reqOf m).clean [(0x08, 3)] = true ∧ ((s.proc 1).chan 1 2).isSome = true ∧ s.chanBusy 1 1 2 = false) ∧
    (let m := mailRec 7 0 [(8, 3), (0x0D, 0x3F), (0x10, 9)]
     let s := mailed m proc1
     mailNext s 0x07 (reqOf m) ∧ (reqOf m).clean [(0x08, 40)] = true ∧ s.lookup 0 ((reqOf m).h32 0x08) clQbody = .ok (Handle.region clQbody 16384) ∧
       hIndex ((reqOf m).h32 0x08) = 3 ∧ (reqOf m).nat 0x0C 4 % 256 = 0 ∧ (reqOf m).nat 0x0C 4 + 256 ≤ 16384) ∧
    (let m := mailRec 0x0C 1 []
     mailNext (mailed m proc1) 0x0C (reqOf m) ∧ 0x0B < (reqOf m).code) :=
  ⟨⟨mail_next (by decide +kernel), by unfold memoriesOk; decide +kernel⟩, ⟨mail_next (by decide +kernel), by decide +kernel⟩,
    ⟨mail_next (by decide +kernel), by decide +kernel⟩, ⟨mail_next (by decide +kernel), by decide +kernel⟩,
    ⟨mail_next (by decide +kernel), by decide +kernel⟩, mail_next (by decide +kernel), by decide +kernel⟩

/-- A device that is up, that is held, and that has no power; a granule to poison; an error that stands in a region's storage. -/
theorem witness_device_services :
    (let s := ops []
     (s.handle 1 1).cls = clTensor ∧ (s.handle 1 1).st = .valid ∧ (s.handle 1 1).granElems 0 ≠ [] ∧ 0 ∉ (s.handle 1 1).poison ∧ 2 ≤ s.step ∧
       s.tripped = false ∧ 3 < 4 ∧ 5 ≤ s.step ∧ s.step ≠ 0) ∧
    (let w : Damage := .cell 1 2 0
     let s := { ops [] with damaged := [w] }
     w ∈ s.damaged ∧ w.inHbm = true ∧ w.isBase = false ∧ s.damageDie w = 0) ∧
    State.reset.step = 0 ∧ State.reset.failed = false ∧ State.reset.tripped = false ∧ ({ State.reset with tripped := true }).tripped = true := by
  decide +kernel

theorem witness_step_keeps_memories : memoriesOk (ops [op .join]) ∧ ∃ t, step (ops [op .join]) = .next t :=
  ⟨by unfold memoriesOk; decide +kernel, runs (by decide +kernel)⟩

/-! ### The spec's worked examples -/

/-- Whether what an instruction leaves has a property. -/
def after (i : Instr) (s : State) (p : State → Bool) : Bool :=
  match exec i s with
  | .next t => p t
  | _ => false

/-- R32, R33: LNS6 code 22 reads as 2.82843017578125, and codes 22 and 23 multiply to 0x9838 × 2^−12. -/
theorem test_lns6 : rne32 (lnslin 22) = 0x40350500 ∧ rne32 (lnsMul 22 23) = 0x41183800 ∧
    rne32 (scaled .lns6 22 (some 0x3E80)) = 0x3F350500 := by decide +kernel

/-- R36, R44, R46: 0.3 and 500.0 into E4M3, a tie into BF16, and 1 + 2^−9 into BF16 with noise below and at a quarter. -/
theorem test_conversions : encodeE4 .rne (decodeFf fp32 0x3E99999A) = 0x2A ∧ encodeE4 .rne (decodeFf fp32 0x43FA0000) = 0x7E ∧
    fConv fp32 bf16 .rne 0x3F808000 = 0x3F80 ∧ rne32 (srnd .bf16 (decodeFf fp32 0x3F804000) 0x3FFFFFFF) = 0x3F810000 ∧
    rne32 (srnd .bf16 (decodeFf fp32 0x3F804000) 0x40000000) = 0x3F800000 := by decide +kernel

/-- R48: VDOT4 on FP16 with products 1 and −1 and D = +0 gives −0 under RDN and +0 under RNE. -/
theorem test_signed_zero_sum : vlane (vdot4 .f16 false .rdn 0x3C003C00 0xBC003C00 0) 0 = 0x80000000 ∧
    vlane (vdot4 .f16 false .rne 0x3C003C00 0xBC003C00 0) 0 = 0 := by decide +kernel

/-- R72, R152: immediates of FP32, BF16 and VSCALE; R220: a swizzled offset. -/
theorem test_immediates : immElem .f32 0x3F8 = 0x3F800000 ∧ immElem .b16 0xBF8 = 0xBF80 ∧ immElem .i32 0xFE8 = 0xFFFFFFE8 ∧
    swizzle 0x93 = 0x83 := by decide +kernel

/-- R149, R150: 0.3 and 500.0 packed into E4M3 beside the bytes kept, and the first of them unpacked. -/
theorem test_pack : vlane (vpack .ui8 1 false .rne 0x3E99999A 0x43FA0000 0xA5B60000) 0 = 0xA5B67E2A ∧
    vlane (vunpk .f32 5 0 0xA5B67E2A) 0 = 0x3EA00000 := by decide +kernel

/-- R110: SETHI with the immediate of an IMX completes a 64-bit constant. -/
theorem test_sethi :
    let s := { onReg 0xFFFFFFFF9ABCDEF0 with foc := { s0.foc with imm := some 0x12345678 } }
    after (.sethi 0 5 5 0) s (fun t => decide (t.cur.rd 5 = 0x123456789ABCDEF0)) = true := by decide +kernel

/-- R58, R61, R68: the two bundles that the spec encodes. -/
theorem test_bundles :
    (State.reset.load [0x07, 0x09, 0x14, 0xC4, 0, 0, 0x30, 0xC0, 0x02, 0x28, 0, 0, 0, 0x19, 0x80, 0x03, 0x34, 0, 0, 0x02]).fetch 0 0 =
      .got 0 20 { hdr := 0x0907, slots := [(.sc, 0x0000C414), (.vx, 0x2802C030), (.vy, 0x02000034038019)], pad := 0 } ∧
    decodeSlot .sc 0x0000C414 = .ok (.add 0 3 4 5) ∧ decodeSlot .vx 0x2802C030 = .ok (.vadd ⟨false, 0, 0, 0, 10, 11, 12, 0⟩) ∧
    decodeSlot .vy 0x02000034038019 = .ok (.vmul ⟨false, 0, 0, 0, 13, 14, 6, 1⟩) ∧
    (State.reset.load [0x41, 0, 0, 0xC7, 0x01, 0x04, 0xE8, 0x03, 0, 0, 0, 0, 0, 0x30]).fetch 0 0 =
      .got 0 14 { hdr := 0x0041, slots := [(.sc, 0x0401C700), (.ct, 0x30000000000003E8)], pad := 0 } := by decide +kernel

/-- R118: `btree2 q3, 0x100, !q5, 0x200` at 0x124. -/
theorem test_btree : decodeSlot .ct 0x011D400FF0380000 = .ok (.btree 1 3 0x15 0 0 0x1FE 14 0 0) ∧
    (let s := { on (fun x => { x with q := 8 }) with foc := { s0.foc with pc := 0x124 } }
     after (.btree 1 3 0x15 0 0 0x1FE 14 0 0) s (fun t => decide (t.cur.pc = 0x100)) = true) ∧
    (let s := { s0 with foc := { s0.foc with pc := 0x124 } }
     after (.btree 1 3 0x15 0 0 0x1FE 14 0 0) s (fun t => decide (t.cur.pc = 0x200)) = true) := by decide +kernel

/-- R342: INT32 16,777,216 folded into 0 leaves the polynomial. R334: SPIRAL is a bijection for N = 10. -/
theorem test_crc_and_spiral : crcElem 0 16777216 = 0x42F0E1EBA9EA3693 ∧ ((List.range 10).map (spiral 10 0x1234 0x5678)).Nodup ∧
    ∀ i ∈ (List.range 10).map (spiral 10 0x1234 0x5678), i < 10 := by decide +kernel

/-- An operation of the matrix pipes that is complete, on two operands in the scratchpad with a pitch of 128. -/
def matrixAt (kind : MxKind) (f : MF) (ssm : BitVec 32) (rows : List (Nat × List Nat)) (cov : Tab Vec) : State :=
  let o : MxOp :=
    { mxOpOf kind f s0 with xa := 0, xb := if kind = .mscan then 0x800000 else 0, smp := ⟨128#128 <<< 64, 0, [], []⟩,
                            shapeB := 128#128 <<< 64, ssm := ssm, started := true, occ := 0, deep := 0 }
  { dev x0 (fun k => { k with mxs := [o], cov := cov }) with
    clusters := [(0, { Cluster.reset with spl := rows.foldl (fun m r => Memory.writeRun m r.1 (r.2.flatMap (fun w => leBytes w 4))) [] })] }

/-- R195, R196: the spec's probe of three candidates, gains 48, 16 and 8. -/
theorem test_cover_probe :
    let rows := [(0, List.replicate 32 0x40000000), (128, List.replicate 8 0x40400000 ++ List.replicate 24 0),
      (256, 0x7FC00000 :: List.replicate 31 0x3F000000)]
    let s := matrixAt .cvProbe ⟨0, 3, 2, 6, 0, 0, 2, 0, 0, false, false, 0⟩ 0 rows [(0, vecOfLanes (fun l => if l < 16 then 0x3F800000 else 0))]
    after (.mxOpCompletion 0 0) s (fun t =>
      decide ((List.range 3).map (fun j => ((t.core 0).tile 3).at 0 j) = [0x42400000, 0x41800000, 0x41000000])) = true := by decide +kernel

/-- R187, R188, R193: the spec's scan of 2^24, 1, 1, 1, 1, recurrent and chunked: outputs in a5, the state in a4. -/
def scanOf (thresh : BitVec 32) : List Nat :=
  let rows := [(0, [0x4B800000]), (128, [0x3F800000]), (256, [0x3F800000]), (384, [0x3F800000]), (512, [0x3F800000])] ++
    (List.range 5).map (fun i => (0x800000 + 128 * i, [0x3F800000, 0x3F800000]))
  match exec (.mxOpCompletion 0 0) (matrixAt .mscan ⟨0, 4, 1, 2, 0, 0, 4, 0, 0, true, false, 0⟩ thresh rows []) with
  | .next t => (List.range 5).map (fun i => ((t.core 0).tile 5).at i 0) ++ [((t.core 0).tile 4).at 0 0]
  | _ => []

theorem test_scans : scanOf 6 = List.replicate 6 0x4B800000 ∧
    scanOf 3 = [0x4B800000, 0x4B800000, 0x4B800001, 0x4B800002, 0x4B800002, 0x4B800002] := by decide +kernel

/-- R337, R338: the second and the third merge of the spec's ESTIMATE launch: n, mean, M2, and whether it stops. -/
def mergedWith (n : Nat) (mean m2 x : Word) : Option (Nat × Word × Word × Bool) :=
  let bytes := recordOf 3 [1000, 0, 0, 100, 0x8F5C28F6, 0x3FFF5C28, 0x33333333, 0x3FC33333]
  let v := { launchOf bytes 0 with est := { DevEst.reset with n := n, mean := mean, m2 := m2 }, batches := [(64, x, 0)] }
  match exec (.batchMerge 1) { s0 with launches := [(1, v)] } with
  | .next t => (Tab.find t.launches 1).map (fun w => (w.est.n, w.est.mean, w.est.m2, w.est.stopped))
  | _ => none

theorem test_merges : mergedWith 64 0x3FF0000000000000 0 0x4008000000000000 = some (128, 0x4000000000000000, 0x4060000000000000, false) ∧
    mergedWith 128 0x4000000000000000 0x4060000000000000 0x4000000000000000 =
      some (192, 0x4000000000000000, 0x4060000000000000, true) := by decide +kernel

end Sys2Proof.Tests
end

/-! PROOFS. Registers and scalar control (spec/05): R109, R112, R127 and R129. -/

section
/-! ### Words of the SC and the CT slot: fields of a word, and when a built instruction is taken (R85) -/

namespace Sys2Proof

/-- R85: a built instruction is taken when its fields are well formed and it encodes to the slot's bits. -/
theorem checkBuilt_ok {n : Nat} {enc : Instr → BitVec n} {w : BitVec n} {i : Instr} (he : enc i = w)
    (hw : wellFormed i = true) : checkBuilt enc w (some i) = .ok i := if_pos ⟨he, hw⟩

/-- R85: bits that the built instruction does not encode to are refused. -/
theorem checkBuilt_illegalField {n : Nat} {enc : Instr → BitVec n} {w : BitVec n} {i : Instr} (he : enc i ≠ w) :
    checkBuilt enc w (some i) = .error .illegalField := if_neg fun h => he h.1

theorem decodeSlot_sc (w : BitVec 32) : decodeSlot .sc w.toNat = checkBuilt encodeSc w (buildSc w) := by
  simp [decodeSlot]

theorem decodeSlot_ct (w : BitVec 64) : decodeSlot .ct w.toNat = checkBuilt encodeCt w (buildCt w) := by
  simp [decodeSlot]

/-- A field above the last part of an appended word is a field of the rest. -/
theorem extractLsb'_append_of_le {v w start len : Nat} {hi : BitVec v} {lo : BitVec w} {f : BitVec len}
    (hf : hi.extractLsb' (start - w) len = f) (h : w ≤ start := by decide) : (hi ++ lo).extractLsb' start len = f :=
  (BitVec.extractLsb'_append_eq_of_le h).trans hf

section ScRFields
variable (op : BitVec 7) (g : BitVec 5) (d a b : BitVec 6) (md : BitVec 2)

@[simp] theorem scR_op : (scR op g d a b md).extractLsb' 25 7 = op :=
  extractLsb'_append_of_le <| extractLsb'_append_of_le <| extractLsb'_append_of_le <| extractLsb'_append_of_le <|
    BitVec.extractLsb'_append_eq_left

@[simp] theorem scR_g : (scR op g d a b md).extractLsb' 20 5 = g :=
  extractLsb'_append_of_le <| extractLsb'_append_of_le <| extractLsb'_append_of_le <| extractLsb'_append_of_le <|
    BitVec.extractLsb'_append_eq_right

@[simp] theorem scR_d : (scR op g d a b md).extractLsb' 14 6 = d :=
  extractLsb'_append_of_le <| extractLsb'_append_of_le <| extractLsb'_append_of_le <| BitVec.extractLsb'_append_eq_right

@[simp] theorem scR_a : (scR op g d a b md).extractLsb' 8 6 = a :=
  extractLsb'_append_of_le <| extractLsb'_append_of_le <| BitVec.extractLsb'_append_eq_right

@[simp] theorem scR_b : (scR op g d a b md).extractLsb' 2 6 = b :=
  extractLsb'_append_of_le <| BitVec.extractLsb'_append_eq_right

@[simp] theorem scR_md : (scR op g d a b md).extractLsb' 0 2 = md := BitVec.extractLsb'_append_eq_right

@[simp] theorem bit_scR_zero : bit (scR op g d a b md) 0 = md.getLsbD 0 :=
  BitVec.getLsbD_append (x := op ++ g ++ d ++ a ++ b) (y := md) (i := 0)

end ScRFields

/-- R67: words that differ in the modifier differ. -/
theorem scR_md_inj {op : BitVec 7} {g : BitVec 5} {d a b : BitVec 6} {md md' : BitVec 2}
    (h : scR op g d a b md = scR op g d a b md') : md = md' := by
  simpa using congrArg (BitVec.extractLsb' 0 2) h

/-- R67, R85: a word whose opcode builds an operation that encodes with modifier `md` decodes to that operation. -/
theorem decodeSlot_scR {op : BitVec 7} {g : BitVec 5} {d a b : BitVec 6} {md : BitVec 2} {i : Instr}
    (hb : buildSc (scR op g d a b md) = some i) (he : encodeSc i = scR op g d a b md) (hw : wellFormed i = true) :
    decodeSlot .sc (scR op g d a b md).toNat = .ok i := by
  rw [decodeSlot_sc, hb, checkBuilt_ok he hw]

/-- R67, R85: a word with another modifier than its operation encodes with is refused. -/
theorem decodeSlot_scR_otherModifier {op : BitVec 7} {g : BitVec 5} {d a b : BitVec 6} {md md' : BitVec 2} {i : Instr}
    (hb : buildSc (scR op g d a b md) = some i) (he : encodeSc i = scR op g d a b md') (hmd : md ≠ md') :
    decodeSlot .sc (scR op g d a b md).toNat = .error .illegalField := by
  rw [decodeSlot_sc, hb, checkBuilt_illegalField fun h => hmd (scR_md_inj (he.symm.trans h)).symm]

section Built
variable (g : BitVec 5) (d a b : BitVec 6) (md : BitVec 2)

theorem buildSc_div : buildSc (scR 0x06#7 g d a b md) = some (.div g d a b) := by simp [buildSc]
theorem buildSc_divu : buildSc (scR 0x07#7 g d a b md) = some (.divu g d a b) := by simp [buildSc]
theorem buildSc_rem : buildSc (scR 0x08#7 g d a b md) = some (.rem g d a b) := by simp [buildSc]
theorem buildSc_remu : buildSc (scR 0x09#7 g d a b md) = some (.remu g d a b) := by simp [buildSc]

/-- R112: bit [0] of the modifier is .neg. -/
theorem buildSc_sel : buildSc (scR 0x18#7 g d a b md) = some (.sel g (md.getLsbD 0) d a b) := by simp [buildSc]

end Built

/-- R127: the word of LEAVE with its bits [50:0]. -/
def leaveWord (g : BitVec 5) (lvl : BitVec 3) (r : BitVec 51) : BitVec 64 := 0x05#5 ++ g ++ lvl ++ r

section LeaveFields
variable (g : BitVec 5) (lvl : BitVec 3) (r : BitVec 51)

@[simp] theorem leaveWord_op : (leaveWord g lvl r).extractLsb' 59 5 = 0x05#5 :=
  extractLsb'_append_of_le <| extractLsb'_append_of_le <| BitVec.extractLsb'_append_eq_left

@[simp] theorem leaveWord_g : (leaveWord g lvl r).extractLsb' 54 5 = g :=
  extractLsb'_append_of_le <| extractLsb'_append_of_le <| BitVec.extractLsb'_append_eq_right

@[simp] theorem leaveWord_lvl : (leaveWord g lvl r).extractLsb' 51 3 = lvl :=
  extractLsb'_append_of_le <| BitVec.extractLsb'_append_eq_right

theorem leaveWord_reserved : (leaveWord g lvl r).extractLsb' 0 51 = r := BitVec.extractLsb'_append_eq_right

theorem buildCt_leave : buildCt (leaveWord g lvl r) = some (.leave g lvl) := by simp [buildCt]

end LeaveFields

/-- R127: LEAVE encodes with its reserved bits zero. -/
theorem encodeCt_leave (g : BitVec 5) (lvl : BitVec 3) : encodeCt (.leave g lvl) = leaveWord g lvl 0#51 := rfl

/-- R127: the word of LEAVE of one of the six levels, its reserved bits zero. -/
theorem decodeSlot_leave (g : BitVec 5) {lvl : BitVec 3} (h : lvl.toNat < 6) :
    decodeSlot .ct (leaveWord g lvl 0#51).toNat = .ok (.leave g lvl) := by
  rw [decodeSlot_ct, buildCt_leave, checkBuilt_ok (encodeCt_leave g lvl) (decide_eq_true h)]

/-- R85, R127: a reserved bit of LEAVE that is set is refused. -/
theorem decodeSlot_leave_reserved (g : BitVec 5) (lvl : BitVec 3) {r : BitVec 51} (h : r ≠ 0) :
    decodeSlot .ct (leaveWord g lvl r).toNat = .error .illegalField := by
  have hne : encodeCt (.leave g lvl) ≠ leaveWord g lvl r := fun e => h <| by
    rw [← leaveWord_reserved g lvl r, ← e, encodeCt_leave, leaveWord_reserved]; rfl
  rw [decodeSlot_ct, buildCt_leave, checkBuilt_illegalField hne]

end Sys2Proof
end

section
/-! ### Integer results under a true guard, DIV to REMU (R107, R109) and SEL (R112) -/

namespace Sys2Proof.Machine

/-- R107: under a true guard an SC operation's result goes to its register within its bound. -/
theorem commit_scRes {g : BitVec 5} {s : State} (d : BitVec 6) (n : Nat) (v : Word) (h : s.cur.guard g = true) :
    commit (scRes g d n v s) s = .next (s.landS d.toNat v n) := by rw [scRes_true d n v h, commit_ok]

/-- R109: off the zero divisor, DIV is the signed quotient of the words. -/
theorem divS_eq_sdiv {x y : Word} (h : y ≠ 0) : divS x y = x.sdiv y := by
  rw [divS, if_neg h]
  exact BitVec.eq_of_toInt_eq (by rw [BitVec.toInt_ofInt, BitVec.toInt_sdiv])

/-- R109: REM is the signed remainder of the words, the dividend for a zero divisor. -/
theorem remS_eq_srem (x y : Word) : remS x y = x.srem y := by
  unfold remS
  split
  · next h => subst h; exact BitVec.srem_zero.symm
  · exact BitVec.eq_of_toInt_eq (by rw [← BitVec.toInt_srem, BitVec.ofInt_toInt])

/-- R109: off the zero divisor, DIVU is the unsigned quotient of the words. -/
theorem divU_eq_udiv {x y : Word} (h : y ≠ 0) : divU x y = x / y := by
  rw [divU, if_neg h, ← BitVec.toNat_udiv, BitVec.ofNat_toNat, BitVec.setWidth_eq]

/-- R109: REMU is the unsigned remainder of the words, the dividend for a zero divisor. -/
theorem remU_eq_umod (x y : Word) : remU x y = x % y := by
  unfold remU
  split
  · next h => subst h; exact BitVec.umod_zero.symm
  · rw [← BitVec.toNat_umod, BitVec.ofNat_toNat, BitVec.setWidth_eq]

/-- R109: a remainder toward zero is smaller than the divisor. -/
theorem abs_tmod_lt (a : Int) {b : Int} (h : b ≠ 0) : |a.tmod b| < |b| := by
  rw [Int.abs_eq_natAbs, Int.abs_eq_natAbs, Int.natAbs_tmod]
  exact Int.ofNat_lt.2 (Nat.mod_lt _ (Int.natAbs_pos.2 h))

/-- R109: a remainder toward zero that is not zero has the sign of the dividend. -/
theorem tmod_neg_iff {a b : Int} (h : a.tmod b ≠ 0) : a.tmod b < 0 ↔ a < 0 := by
  have hd : ¬ b ∣ a := fun hd => h (Int.tmod_eq_zero_of_dvd hd)
  rw [← Int.sign_eq_neg_one_iff_neg, Int.sign_tmod, if_neg hd, Int.sign_eq_neg_one_iff_neg]

/-- R109: −2^63 ÷ −1 is −2^63 with remainder 0. -/
theorem div_rem_overflow {x y : Word} (hx : x.toInt = -2 ^ 63) (hy : y.toInt = -1) :
    (divS x y).toInt = -2 ^ 63 ∧ remS x y = 0 := by
  obtain rfl : x = BitVec.intMin 64 := BitVec.eq_of_toInt_eq (hx.trans (by decide))
  obtain rfl : y = -1#64 := BitVec.eq_of_toInt_eq (hy.trans (by decide))
  decide

/-- R109: in every other case the quotient is the one rounded toward zero. -/
theorem divS_toInt {x y : Word} (h0 : y ≠ 0) (h : ¬ (x.toInt = -2 ^ 63 ∧ y.toInt = -1)) :
    (divS x y).toInt = x.toInt.tdiv y.toInt := by
  rw [divS_eq_sdiv h0]
  refine BitVec.toInt_sdiv_of_ne_or_ne x y ?_
  by_contra hc
  obtain ⟨rfl, rfl⟩ : x = BitVec.intMin 64 ∧ y = -1#64 := by simpa [not_or] using hc
  exact h (by decide)

/-- R109: the dividend is the quotient times the divisor plus a remainder that is smaller than the divisor and has the
dividend's sign. -/
theorem div_rem_signed {x y : Word} (h0 : y ≠ 0) (h : ¬ (x.toInt = -2 ^ 63 ∧ y.toInt = -1)) :
    x.toInt = (divS x y).toInt * y.toInt + (remS x y).toInt ∧ |(remS x y).toInt| < |y.toInt| ∧
      ((remS x y).toInt ≠ 0 → ((remS x y).toInt < 0 ↔ x.toInt < 0)) := by
  have hy : y.toInt ≠ 0 := fun e => h0 (BitVec.eq_of_toInt_eq e)
  rw [divS_toInt h0 h, remS_eq_srem, BitVec.toInt_srem]
  exact ⟨(Int.tdiv_mul_add_tmod _ _).symm, abs_tmod_lt _ hy, tmod_neg_iff⟩

/-- R109: the same for the unsigned words. -/
theorem div_rem_unsigned {x y : Word} (h0 : y ≠ 0) :
    x.toNat = (divU x y).toNat * y.toNat + (remU x y).toNat ∧ (remU x y).toNat < y.toNat := by
  have hy : 0 < y.toNat := Nat.pos_of_ne_zero fun e => h0 (BitVec.eq_of_toNat_eq e)
  rw [divU_eq_udiv h0, remU_eq_umod, BitVec.toNat_udiv, BitVec.toNat_umod]
  exact ⟨(Nat.div_add_mod' _ _).symm, Nat.mod_lt _ hy⟩

/-- R109: the case of a zero divisor. -/
theorem div_rem_zero (x : Word) :
    divS x 0 = BitVec.ofInt 64 (-1) ∧ divU x 0 = 0xFFFFFFFFFFFFFFFF ∧ remS x 0 = x ∧ remU x 0 = x :=
  ⟨rfl, rfl, rfl, rfl⟩

/-- R109: the words of DIV, DIVU, REM and REMU; any modifier but 0b00 is refused. -/
theorem decodeSlot_division (g : BitVec 5) (d a b : BitVec 6) :
    (decodeSlot .sc (scR 0x06#7 g d a b 0#2).toNat = .ok (.div g d a b) ∧
      decodeSlot .sc (scR 0x07#7 g d a b 0#2).toNat = .ok (.divu g d a b) ∧
      decodeSlot .sc (scR 0x08#7 g d a b 0#2).toNat = .ok (.rem g d a b) ∧
      decodeSlot .sc (scR 0x09#7 g d a b 0#2).toNat = .ok (.remu g d a b)) ∧
    ∀ op md, op = 0x06#7 ∨ op = 0x07#7 ∨ op = 0x08#7 ∨ op = 0x09#7 → md ≠ 0#2 →
      decodeSlot .sc (scR op g d a b md).toNat = .error .illegalField := by
  refine ⟨⟨decodeSlot_scR (buildSc_div ..) rfl rfl, decodeSlot_scR (buildSc_divu ..) rfl rfl,
    decodeSlot_scR (buildSc_rem ..) rfl rfl, decodeSlot_scR (buildSc_remu ..) rfl rfl⟩, ?_⟩
  rintro op md (rfl | rfl | rfl | rfl) hmd
  · exact decodeSlot_scR_otherModifier (buildSc_div ..) rfl hmd
  · exact decodeSlot_scR_otherModifier (buildSc_divu ..) rfl hmd
  · exact decodeSlot_scR_otherModifier (buildSc_rem ..) rfl hmd
  · exact decodeSlot_scR_otherModifier (buildSc_remu ..) rfl hmd

/-- Settles O9: the model's quotients and remainders are those of the words (`divS_eq_sdiv`, `remS_eq_srem` and their
unsigned counterparts), for which the library has the division law. -/
theorem division : Obligations.Division := by
  intro g d a b
  obtain ⟨hwords, hrefused⟩ := decodeSlot_division g d a b
  refine ⟨hwords, hrefused, fun s hg => ?_⟩
  intro x y
  refine ⟨divS x y, divU x y, remS x y, remU x y, commit_scRes d 20 _ hg, commit_scRes d 20 _ hg,
    commit_scRes d 20 _ hg, commit_scRes d 20 _ hg, ?_, div_rem_overflow, div_rem_signed, div_rem_unsigned⟩
  intro hy
  rw [hy]
  exact div_rem_zero x

/-- R112: the value that SEL and SEL.neg choose by the old value of s[d]. -/
def selValue (neg : Bool) (old x y : Word) : Word := if (if neg then old.msb else decide (old ≠ 0)) then x else y

theorem selValue_nonzero (old x y : Word) : selValue false old x y = if old ≠ 0 then x else y := by simp [selValue]

theorem selValue_neg (old x y : Word) : selValue true old x y = if old.toInt < 0 then x else y := by
  simp [selValue, BitVec.msb_eq_toInt]

/-- R112: SEL and SEL.neg under a true guard. -/
theorem exec_sel {g : BitVec 5} {s : State} (neg : Bool) (d a b : BitVec 6) (h : s.cur.guard g = true) :
    exec (.sel g neg d a b) s =
      .next (s.landS d.toNat (selValue neg (s.cur.rd d.toNat) (s.cur.rd a.toNat) (s.cur.rd b.toNat)) 1) :=
  commit_scRes d 1 _ h

/-- R112, R101: SEL writes its choice; with d = 0 the test reads zero and nothing changes. -/
theorem exec_sel_effect {g : BitVec 5} {s : State} (neg : Bool) (d a b : BitVec 6) (h : s.cur.guard g = true) :
    ∃ t, exec (.sel g neg d a b) s = .next t ∧
      (d ≠ 0 → t.cur.rd d.toNat = selValue neg (s.cur.rd d.toNat) (s.cur.rd a.toNat) (s.cur.rd b.toNat)) ∧
      (d = 0 → s.cur.rd d.toNat = 0 ∧ t = s) := by
  refine ⟨_, exec_sel neg d a b h, fun hd => State.landS_now s _ fun e => hd (BitVec.eq_of_toNat_eq e), ?_⟩
  rintro rfl
  exact ⟨rfl, rfl⟩

/-- Settles O10: `exec_sel_effect` for either modifier, with the choice spelled out. -/
theorem select : Obligations.Select := by
  intro g d a b
  refine ⟨⟨decodeSlot_scR (buildSc_sel ..) rfl rfl, decodeSlot_scR (buildSc_sel ..) rfl rfl,
    decodeSlot_scR_otherModifier (md' := 0#2) (buildSc_sel ..) rfl (by decide),
    decodeSlot_scR_otherModifier (md' := 1#2) (buildSc_sel ..) rfl (by decide)⟩, fun s hg => ⟨?_, ?_⟩⟩
  · simpa only [selValue_nonzero] using exec_sel_effect false d a b hg
  · simpa only [selValue_neg] using exec_sel_effect true d a b hg

end Sys2Proof.Machine
end

section
/-! ### Loop levels: LEAVE (R127), and the first and the last iteration (R129) -/

namespace Sys2Proof.Machine

theorem Ctx.loop_setLoop_same (x : Ctx) (l : Nat) (v : Loop) : (x.setLoop l v).loop l = v := Tab.get_put_same ..

theorem Ctx.loop_setLoop_ne (x : Ctx) {l m : Nat} (v : Loop) (h : m ≠ l) : (x.setLoop l v).loop m = x.loop m :=
  Tab.get_put_ne _ _ _ _ _ h

/-- R127: a level as LEAVE of level `l` leaves it. -/
def Loop.dropped (l m : Nat) (p : Loop) : Loop := if l ≤ m ∧ p.active then { p with active := false, li := 0 } else p

/-- R127: `dropLevels`, for the levels below `n` only. -/
def Ctx.dropBelow (x : Ctx) (l n : Nat) : Ctx :=
  (List.range n).foldl (fun y i =>
    if l ≤ i ∧ (y.loop i).active then y.setLoop i { y.loop i with active := false, li := 0 } else y) x

theorem Ctx.dropLevels_eq (x : Ctx) (l : Nat) : x.dropLevels l = x.dropBelow l 6 := rfl

theorem Ctx.dropBelow_succ (x : Ctx) (l n : Nat) :
    x.dropBelow l (n + 1) =
      if l ≤ n ∧ ((x.dropBelow l n).loop n).active then
        (x.dropBelow l n).setLoop n { (x.dropBelow l n).loop n with active := false, li := 0 }
      else x.dropBelow l n := by
  simp only [Ctx.dropBelow, List.range_succ, List.foldl_append, List.foldl_cons, List.foldl_nil]

/-- R127: a level at or above `n` is not reached yet; a level below is as LEAVE leaves it. -/
theorem Ctx.loop_dropBelow (x : Ctx) (l n m : Nat) :
    (x.dropBelow l n).loop m = if m < n then (x.loop m).dropped l m else x.loop m := by
  induction n with
  | zero => rfl
  | succ n ih =>
    rw [Ctx.dropBelow_succ]
    by_cases hm : m = n
    · subst hm
      rw [if_neg (Nat.lt_irrefl m)] at ih
      rw [if_pos (Nat.lt_succ_self m), Loop.dropped, ih]
      split
      · exact Ctx.loop_setLoop_same ..
      · exact ih
    · have hlt : m < n + 1 ↔ m < n := by omega
      simp only [hlt, ← ih]
      split
      · exact Ctx.loop_setLoop_ne _ _ hm
      · rfl

/-- R127: dropping levels changes nothing but levels. -/
theorem Ctx.dropBelow_frame (x : Ctx) (l n : Nat) : { x.dropBelow l n with loops := [] } = { x with loops := [] } := by
  induction n with
  | zero => rfl
  | succ n ih =>
    rw [Ctx.dropBelow_succ]
    split <;> exact ih

theorem Ctx.loop_dropLevels (x : Ctx) (l : Nat) {m : Nat} (h : m < 6) :
    (x.dropLevels l).loop m = (x.loop m).dropped l m := by
  rw [Ctx.dropLevels_eq, Ctx.loop_dropBelow, if_pos h]

/-- R127: a level below the one left keeps its state. -/
theorem Ctx.loop_dropLevels_below (x : Ctx) {l m : Nat} (h : m < l) : (x.dropLevels l).loop m = x.loop m := by
  have hd : (x.loop m).dropped l m = x.loop m := if_neg fun hc => Nat.not_le_of_lt h hc.1
  rw [Ctx.dropLevels_eq, Ctx.loop_dropBelow, hd, ite_self]

/-- R127: a level at or above the one left is inactive; if it was active, its li is 0. -/
theorem Loop.dropped_of_le {l m : Nat} (p : Loop) (h : l ≤ m) :
    (p.dropped l m).active = false ∧ (p.active = true → (p.dropped l m).li = 0) := by
  unfold Loop.dropped
  by_cases ha : p.active = true
  · simp [h, ha]
  · simp [ha]

/-- An update of the current context alone leaves everything else as it was. -/
theorem contextFrame_modCur (s : State) (f : Ctx → Ctx) : contextFrame s (s.modCur f) := by
  have hcore : (s.modCur f).core s.foc.core = (s.core s.foc.core).setCtx s.foc.ctx (f s.cur) := State.core_modCtx ..
  refine ⟨⟨rfl, rfl, rfl, rfl, rfl, rfl, rfl, rfl, rfl, rfl, rfl, rfl, rfl, rfl, rfl, rfl, rfl⟩, ⟨?_, ?_⟩,
    ⟨fun _ _ => rfl, fun _ _ _ => rfl, fun _ _ _ => rfl, fun _ _ => rfl⟩, ?_, rfl, rfl, rfl⟩
  · exact fun c hc => State.core_modCtx_ne _ _ _ _ _ hc
  · exact fun y hy => State.ctx_modCtx_ne _ _ _ _ _ hy
  · unfold sameCoreButCtxs
    rw [hcore]
    rfl

/-- R127: the context after a LEAVE of level `l`. -/
def Ctx.leave (x : Ctx) (l : Nat) : Ctx := { x.dropLevels l with pc := BitVec.ofNat 48 (x.loop l).stop }

/-- R127: LEAVE of an active level under a true guard. -/
theorem exec_leave_active {g : BitVec 5} {lvl : BitVec 3} {s : State} (hg : s.cur.guard g = true)
    (ha : (s.cur.loop lvl.toNat).active = true) :
    exec (.leave g lvl) s = .next (s.modCur (fun _ => s.cur.leave lvl.toNat)) := by
  show commit (opLeave g lvl s) s = _
  rw [opLeave, guarded_true _ hg]
  simp only [ha, if_true, commit_ok]
  rfl

/-- R127: LEAVE of an inactive level under a true guard. -/
theorem exec_leave_inactive {g : BitVec 5} {lvl : BitVec 3} {s : State} (hg : s.cur.guard g = true)
    (ha : (s.cur.loop lvl.toNat).active = false) :
    exec (.leave g lvl) s = .next (s.takePrecise (faultRec fcField (some s.foc.slot))) := by
  show commit (opLeave g lvl s) s = _
  rw [opLeave, guarded_true _ hg]
  simp only [ha, Bool.false_eq_true, if_false]
  rfl

/-- Settles O28: level by level, by `Ctx.loop_dropBelow`, the loop rule of `dropLevels`. -/
theorem leave : Obligations.Leave := by
  intro g lvl hl
  refine ⟨decodeSlot_leave g hl, fun r hr => decodeSlot_leave_reserved g lvl hr,
    fun s hg => ⟨fun ha => ?_, exec_leave_inactive hg⟩⟩
  refine ⟨_, exec_leave_active hg ha, ?_⟩
  rw [State.cur_modCur]
  refine ⟨fun m hm h6 => ?_, fun m hm => Ctx.loop_dropLevels_below _ hm, rfl, ?_, contextFrame_modCur ..⟩
  · have hloop : (s.cur.leave lvl.toNat).loop m = (s.cur.loop m).dropped lvl.toNat m := Ctx.loop_dropLevels _ _ h6
    rw [hloop]
    exact Loop.dropped_of_le _ hm
  · exact congrArg (fun y : Ctx => { y with pc := 0 }) (Ctx.dropBelow_frame s.cur lvl.toNat 6)

/-- R124: the innermost active level is the highest active one. -/
theorem Ctx.innermost_eq_some {x : Ctx} {l n : Nat} (hl : l < n) (ha : (x.loop l).active = true)
    (hi : ∀ m, l < m → m < n → (x.loop m).active = false) : x.innermost n = some l := by
  induction n with
  | zero => exact absurd hl (Nat.not_lt_zero l)
  | succ n ih =>
    by_cases hn : l = n
    · subst hn
      exact if_pos ha
    · have hlt : l < n := by omega
      have hoff : (x.loop n).active = false := hi n hlt (Nat.lt_succ_self n)
      have hrec : x.innermost (n + 1) = x.innermost n := if_neg (by simp [hoff])
      rw [hrec]
      exact ih hlt fun m hm hmn => hi m hm (Nat.lt_succ_of_lt hmn)

/-- R129: q14 while a level is the innermost active one. -/
theorem Ctx.q14_of_innermost {x : Ctx} {l : Nat} (h : x.innermost 6 = some l) : x.q14 = decide ((x.loop l).li = 0) := by
  simp only [Ctx.q14, h]

/-- R129: q15 while a level is the innermost active one. -/
theorem Ctx.q15_of_innermost {x : Ctx} {l : Nat} (h : x.innermost 6 = some l) :
    x.q15 = decide ((x.loop l).lc.toNat ≤ (x.loop l).li.toNat + 1) := by
  simp only [Ctx.q15, h]

theorem Ctx.pred_first (x : Ctx) : x.pred 14 = x.q14 := rfl
theorem Ctx.pred_last (x : Ctx) : x.pred 15 = x.q15 := rfl

/-- R63: the guard that names q14, and the one that names q15, not negated. -/
theorem Ctx.guard_first (x : Ctx) : x.guard 14#5 = x.q14 := Bool.xor_false _
theorem Ctx.guard_last (x : Ctx) : x.guard 15#5 = x.q15 := Bool.xor_false _

/-- R64, R108: an ADD under a guard whose value a proposition decides. -/
theorem exec_add_guard {g : BitVec 5} {s : State} {p : Prop} [Decidable p] (hp : s.cur.guard g = decide p)
    (d a b : BitVec 6) :
    exec (.add g d a b) s =
      if p then .next (s.landS d.toNat (s.cur.rd a.toNat + s.cur.rd b.toNat) 1) else .next s := by
  show commit (scRes g d 1 (s.cur.rd a.toNat + s.cur.rd b.toNat) s) s = _
  by_cases h : p
  · rw [if_pos h, commit_scRes d 1 _ (hp.trans (decide_eq_true h))]
  · rw [if_neg h, scRes_false d 1 _ (hp.trans (decide_eq_false h))]
    rfl

/-- Settles O29: both predicates are decided on the innermost active level, and a guard that names one reads it. -/
theorem loopPredicates : Obligations.LoopPredicates := by
  intro s l hl ha hi
  have hin : s.cur.innermost 6 = some l := Ctx.innermost_eq_some hl ha hi
  have h14 := Ctx.q14_of_innermost hin
  have h15 := Ctx.q15_of_innermost hin
  refine ⟨?_, ?_, fun hlt => ?_, fun d a b => ⟨?_, ?_⟩⟩
  · rw [Ctx.pred_first, h14, decide_eq_true_iff]
  · rw [Ctx.pred_last, h15, decide_eq_true_iff]
  · rw [Ctx.pred_last, h15, decide_eq_true_iff]
    exact ⟨fun h => Nat.le_antisymm hlt h, fun h => h.ge⟩
  · exact exec_add_guard ((Ctx.guard_first _).trans h14) d a b
  · exact exec_add_guard ((Ctx.guard_last _).trans h15) d a b

end Sys2Proof.Machine
end
